-- ==== Sys2Proof/Word.lean ====
section
/-! DEFINITION. The word types of the Tuiron (spec/00 R12; spec/01 R26, R29). -/

namespace Sys2Proof

/-- A byte of memory (R12). -/
abbrev Byte := BitVec 8

/-- One lane's 32-bit value (R29, R68). -/
abbrev W32 := BitVec 32

/-- A 64-bit scalar or address (R29, R67). -/
abbrev W64 := BitVec 64

/-- A 96-bit instruction word (R26). -/
abbrev InsnWord := BitVec 96

end Sys2Proof
end

