-- ==== Sys2Proof/Config.lean ====
section
/-! DEFINITION. What the spec leaves open, as constants without a value that nothing can evaluate: the free values of the
model, the clock at which bring-up starts the market, and the cryptography and measurements of the Bashild root. -/

namespace Sys2Proof.Config

open Sys2Proof

/-- The n-th free value: where the spec states no value, a step takes the next one. DESIGN CHOICE (log 2). -/
opaque freeWord : Nat → W64

/-- The cycles that the n-th bring-up takes: open within the times of R467 (R7). -/
opaque bringUpTime : Nat → W64

/-- The row of a line, the line with which a row begins, the number of rows, and a row's die, stack, pseudo-channel and number there:
the spec gives no map (R387, R388). -/
opaque rowOf : Nat → Nat
opaque rowLine : Nat → Nat
opaque rowCount : Nat
opaque rowPlace : Nat → Nat × Nat × Nat × Nat

/-- The lines that a channel's rebuild cannot correct, and whether a frame holds bytes of a channel: rebuild, die, stack and channel;
die, stack, channel and frame (R387, R459). -/
opaque lostLines : Nat → Nat → Nat → Nat → List Nat
opaque frameOn : Nat → Nat → Nat → Nat → Bool

/-- The bytes of the firmware's n-th reply to an SVC: they belong to the service (R410). -/
opaque replyByte : Nat → Nat → Byte

/-- The private half of the device identity key, made inside the root at manufacture (R471). -/
opaque identityKey : List Byte

/-- The digest of the key fused at manufacture (R470). -/
opaque fusedDigest : List Byte

/-- The device serial number (R471). -/
opaque serial : List Byte

/-- Wailor's certificate of the identity key, object 0x301 (R471). -/
opaque certificate : List Byte

/-- What fails self-test at the n-th bring-up, by die: chip-scratchpad banks, die-to-die ports by the other die, L2 slices,
pseudo-channels by stack, mesh routers, mesh links by router and port, and pipes by core of the die (R467, R468). -/
opaque badBanks : Nat → Nat → List Nat
opaque badPorts : Nat → Nat → List Nat
opaque badSlices : Nat → Nat → List Nat
opaque badChannels : Nat → Nat → List (Nat × Nat)
opaque badRouters : Nat → Nat → List Nat
opaque badLinks : Nat → Nat → List (Nat × Nat)
opaque badPipes : Nat → Nat → List (Nat × Nat)

/-- The host ports that fail self-test at the n-th bring-up (R468). -/
opaque badHostPorts : Nat → List Nat

/-- The scale-out lanes that fail self-test at the n-th bring-up (R468). -/
opaque badLanes : Nat → List Nat

/-- The management VLAN that the configuration in a firmware image names, if it names one (R472). -/
opaque managementVlan : List Byte → Option Nat

/-- The physical clusters of a die that pass self-test at the n-th bring-up: bring-up, die (R467, R468). -/
opaque goodClusters : Nat → Nat → List Nat

/-- The first stitch plan that the n-th bring-up builds for a die (R467). -/
opaque firstPlan : Nat → Nat → List Byte

/-- The firmware image that the package is shipped with (R470). -/
opaque shippedImage : List Byte

/-- The body length and the security version that an image's header holds; the spec gives no places for them (R470). -/
opaque imageLength : List Byte → Nat
opaque imageVersion : List Byte → Nat

/-- The clusters whose endpoints, and whether any other endpoint, a mesh router of a die serves: the spec gives no map
(R379). -/
opaque routerClusters : Nat → Nat → List Nat
opaque routerOther : Nat → Nat → Bool

/-- The router at which an L2 slice of a die stands, and the one of a die's port to another die: the spec gives no map (R379). -/
opaque sliceRouter : Nat → Nat → Nat
opaque portRouter : Nat → Nat → Nat

/-- A byte of the routes that the Hoop finds when it removes a link: plan, router, byte of ROUTE (R382). -/
opaque newRoute : List Byte → Nat → Nat → Byte

end Sys2Proof.Config
end

