-- ==== Sys2Proof/Syntax.lean ====
section
/-! DEFINITION. The abstract form of every row: operands, consumers, attributes, function codes, and one constructor of `Instr`
for each row of the opcode table (spec/01 R26-R47): 138 instruction forms and 112 events of the device's units. -/

namespace Sys2Proof

/-- The special operands, codes 0x148 to 0x15D (R29). -/
inductive Special where
  | lane | slice | group | team | teamx | teamy | teamz | role | core | cluster | die | clock | interval | home
  | pxClu | pxBank | pxWay | pxSlot | pxLink | purse
  deriving DecidableEq, Repr

/-- A listed operand code (R29). -/
inductive Operand where
  | v (n : BitVec 8)      -- vector register
  | s (n : BitVec 6)      -- scalar register
  | q (n : BitVec 3)      -- queue
  | sp (x : Special)
  | zero
  | imm
  deriving DecidableEq, Repr

/-- The consumers named by CM (R34). -/
structure Consumers where
  reg : Bool     -- bit 0
  queue : Bool   -- bit 1
  mxq : Bool     -- bit 2
  cpq : Bool     -- bit 3
  red : Bool     -- bit 4
  net : Bool     -- bit 5
  deriving DecidableEq, Repr

/-- The fields of a word of format V, E or S after OP and FN are taken out (R26, R27). -/
structure Args where
  la : BitVec 4
  msk : BitVec 6
  cm : Consumers
  d : Operand
  a : Operand
  b : Operand
  c : Operand
  imm : W32
  deriving DecidableEq, Repr

/-- The scopes of R28 and R226. -/
inductive Scope where
  | group | team | cluster | die | device | pod | system
  deriving DecidableEq, Repr

/-- The orders of R28. -/
inductive Order where
  | relaxed | acquire | release | acqRel
  deriving DecidableEq, Repr

/-- The cache hints of R28. -/
inductive Hint where
  | normal | streaming | keep | bypass
  deriving DecidableEq, Repr

/-- Field C of format M (R28). -/
structure Attrs where
  scope : Scope
  order : Order
  hint : Hint
  spec : Bool
  ro : Bool
  deriving DecidableEq, Repr

/-- The fields of a word of format M (R27). -/
structure MArgs where
  la : BitVec 4
  msk : BitVec 6
  cm : Consumers
  d : Operand
  a : Operand
  b : Operand
  attrs : Attrs
  off : W32
  deriving DecidableEq, Repr

/-- The fields of a word of format B (R27). LA, MSK, CM, B and C are zero in every form of it. -/
structure BArgs where
  d : Operand
  a : Operand
  lineOff : BitVec 29
  slot : BitVec 3
  deriving DecidableEq, Repr

/-! ### Function codes (R39-R47) -/

inductive BrcFn where | z | nz | lt | ge | gt | le deriving DecidableEq, Repr
inductive BrsFn where | any | all | none | nall deriving DecidableEq, Repr
inductive SatFn where | wrap | ss | us deriving DecidableEq, Repr
inductive SignFn where | s | u deriving DecidableEq, Repr
inductive LogicFn where | plain | n deriving DecidableEq, Repr
inductive ShlFn where | logical | rot deriving DecidableEq, Repr
inductive ShrFn where | l | a deriving DecidableEq, Repr
inductive CmpFn where | eq | ne | lt | le | gt | ge | ltu | leu | gtu | geu deriving DecidableEq, Repr
inductive MovFn where | plain | z32 | s32 | hi deriving DecidableEq, Repr
inductive PopcFn where | full | w deriving DecidableEq, Repr
inductive FfsFn where | lo | hi deriving DecidableEq, Repr
inductive MinMaxFn where | min | max | minu | maxu deriving DecidableEq, Repr
inductive BitFn where | tst | set | clr | inv deriving DecidableEq, Repr
inductive AbsFn where | wrap | ss deriving DecidableEq, Repr
inductive BfxFn where | zx | sx | ins deriving DecidableEq, Repr
inductive FcmpFn where | eq | ne | lt | le | gt | ge | ord | uno deriving DecidableEq, Repr
inductive BcastFn where | s | lane deriving DecidableEq, Repr
inductive ShflFn where | idx | up | dn | xor deriving DecidableEq, Repr
inductive RedFn where | add | fadd | min | max | minu | maxu | and | or | xor | fmin | fmax deriving DecidableEq, Repr
inductive ExtFn where | z | s deriving DecidableEq, Repr
inductive RndFn where | fmt | rne | rtz | rdn | rup deriving DecidableEq, Repr
inductive NanFn where | num | nan deriving DecidableEq, Repr
inductive SgnFn where | cpy | neg | xor deriving DecidableEq, Repr
inductive XpFn where | exp | man deriving DecidableEq, Repr
/-- The format codes of R365. -/
inductive NumFmt where | f32 | bf16 | f16 | e4m3 | e5m2 | i8 | i32 | t2 | bs8e | bs8i deriving DecidableEq, Repr
inductive PackFn where | bf16 | f16 | e4m3 | e5m2 | i8 | t2 deriving DecidableEq, Repr
inductive HalfFn where | bf16 | f16 deriving DecidableEq, Repr
inductive Dot4Fn where | e4m3 | e5m2 | i8 | t2 deriving DecidableEq, Repr
inductive BsFn where | bs8e | bs8i deriving DecidableEq, Repr
inductive SetfmtFn where | reg | i deriving DecidableEq, Repr
inductive GetfmtFn where | plain | clr deriving DecidableEq, Repr
/-- The width codes of R44. -/
inductive Width where | z8 | s8 | z16 | s16 | b32 | b64 | b128 | s32 deriving DecidableEq, Repr
inductive PrefFn where | l1 | l2 | near deriving DecidableEq, Repr
inductive AtomFn where | add | and | or | xor | min | max | minu | maxu | fadd deriving DecidableEq, Repr
inductive SatomFn where | add | and | or | xor | min | max | minu | maxu | xchg | cas deriving DecidableEq, Repr
inductive GthFn where | b32 | b64 deriving DecidableEq, Repr
inductive CollFn where | sum | fsum | fmax | fmin | bcast | gath deriving DecidableEq, Repr
/-- Blocking and non-blocking variants of RPUSH, RPOP, ENQ, JOIN and GROW (R46, R47). -/
inductive NbFn where | blocking | nb deriving DecidableEq, Repr
inductive MxzeroFn where | one | all deriving DecidableEq, Repr
inductive MxldFn where | a | b | acc deriving DecidableEq, Repr
inductive MxstFn where | f32 | cvt deriving DecidableEq, Repr
inductive MxepiFn where | id | relu | sb | clamp deriving DecidableEq, Repr
inductive WaitcFn where | mx | gth | coll | net deriving DecidableEq, Repr
inductive MaintOp where | cln | inv | ci deriving DecidableEq, Repr
inductive MaintLevel where | core | die | poc deriving DecidableEq, Repr
inductive MwaitFn where | ne | eq deriving DecidableEq, Repr
/-- The market classes, in the order of R47 and R349. -/
inductive MktClass where | clu | bank | way | slot | link deriving DecidableEq, Repr
inductive CtlwFn where | write | set | clr deriving DecidableEq, Repr

/-! ### Arguments of events -/

/-- The issue sides of a core (R220, R309). -/
inductive Side where | compute | pricking deriving DecidableEq, Repr

/-- An error that work has met: hidden in place with a delay, or consumed (R458, R461, R363). -/
inductive HwError where
  | pipe (frag : Nat)                     -- lane pipe or special-function unit, by the fragment that issued (0x38)
  | vreg (n : Nat) (slice : Nat)          -- core-store error in a vector register (0x39)
  | sreg (n : Nat)                        -- core-store error in a scalar register (0x39)
  | buffer                                -- core-store error in a buffer of the group: no register is bad (0x38)
  | poison (addr : W64) (atHome : Bool) (frag : Nat)  -- poison consumed by a fragment, read at its point of coherence or not (0x38)
  | matrix (frag : Nat)                   -- a step failed its residue check twice, by the fragment of its form (0x3C)
  | hidden (fix : Option (Nat × Bool))    -- hidden in place with a delay; of a line corrected at its memory, the line and whether a
                                          -- device symbol has failed (R363, R387, R458)
  | delay (ctx : Nat) (fix : Option (Nat × Bool))  -- the same, where what it delays is of no group (R458)
  | image                                 -- the saved image of the group is uncorrectable (0x3D)
  | line (level n : Nat)                  -- an uncorrectable line at its point of coherence, by the level's numbering (R459)
  | dirty (line : Nat)                    -- an uncorrectable dirty line in the L1 of the group's core (R459)
  | clean (line : Nat)                    -- a bad clean line in the L1 of the group's core (R458)
  deriving DecidableEq, Repr

/-- What scrubbing finds in a line (R388, R459). -/
inductive ScrubResult where | clean | corrected | symbol | uncorrectable deriving DecidableEq, Repr

/-- Why a team is pre-empted in save mode (R452). -/
inductive SaveReason where | lease | swapOut | operator | reliability | thermal deriving DecidableEq, Repr


/-- What a host's frame carries beside its request: source and destination address, VLAN, and the version and reserved field of
a Valdy header (R296, R297). -/
structure Frame where
  src : Nat
  dst : Nat
  vlan : Nat
  ver : BitVec 8
  rsv : BitVec 16
  deriving DecidableEq, Repr

/-- Where an RDMA operation comes from: its frame, and the VI of its queue pair (R296). -/
structure RdmaPeer where
  frame : Frame
  vi : Nat
  deriving DecidableEq, Repr

/-- A packet that arrives: the access it carries; for one of no logged access the context that it delays and its route, from a cluster
(or the hub, 88) to a slice of a die; header and payload with their CRCs; and whether it meets a full buffer (R313, R464). -/
structure PacketLoss where
  op : Nat
  ctx : Nat
  src : Nat
  dest : Nat
  slice : Nat
  header : List Byte
  headerCrc : W32
  payload : List Byte
  payloadCrc : W32
  full : Bool
  deriving DecidableEq, Repr

/-- The header of a management message: its VLAN tag, version, VQ, reserved field and sequence number (R297, R472). -/
structure MgmtMsg where
  vlan : Option Nat
  ver : BitVec 8
  vq : Nat
  rsv : BitVec 16
  seq : W32
  deriving DecidableEq, Repr

/-- What packages of a pod tell each other of contexts that move (R357, R358), beside the context, package or command that it
is about. -/
inductive PodNews where
  /-- the answer to the offer of a context, and the number that it takes there -/
  | answer (ok : Bool) (num : Nat)
  /-- a context that another package offers: its number there, its anchor package and its number there, market record with CR.TRAPVEC,
  CR.LPEXT and CR.RELCNT, bids and configuration; whether there is room for its image -/
  | offered (num anchorPkg anchor : Nat) (rec_ : List Byte) (bids : List (W64 × Nat)) (config : List Byte) (room : Bool)
  /-- the images of a context that was accepted -/
  | work (image : List Byte)
  /-- a context of this anchor has moved on: the package that runs it, and its number there -/
  | moved (pkg num : Nat)
  /-- a task that the anchor of a guest context has created: its command there and its launch record -/
  | task (cmd : Nat) (launch : List Byte)
  /-- a command that ran in another package has completed -/
  | done
  deriving DecidableEq, Repr

/-- One constructor per row of the opcode table: first the instruction forms, then the events. Groups, fragments,
teams, tasks, operations and records are named by the model's numbers; cores, clusters and dies by R10's. -/
inductive Instr where
  -- control (R39)
  | nop
  | bra (x : BArgs)
  | brc (fn : BrcFn) (x : BArgs)
  | brs (fn : BrsFn) (x : BArgs)
  | regang (x : Args)
  | mskip (x : Args)
  | call (x : BArgs)
  | ret (x : BArgs)
  | jmpi (x : BArgs)
  | djnz (x : BArgs)
  | exit (x : Args)
  | yield (x : Args)
  -- scalar (R40)
  | sadd (fn : SatFn) (x : Args)
  | ssub (fn : SatFn) (x : Args)
  | smul (x : Args)
  | smulh (fn : SignFn) (x : Args)
  | sand (fn : LogicFn) (x : Args)
  | sor (fn : LogicFn) (x : Args)
  | sxor (fn : LogicFn) (x : Args)
  | sshl (fn : ShlFn) (x : Args)
  | sshr (fn : ShrFn) (x : Args)
  | scmp (fn : CmpFn) (x : Args)
  | ssel (x : Args)
  | smov (fn : MovFn) (x : Args)
  | spopc (fn : PopcFn) (x : Args)
  | sffs (fn : FfsFn) (x : Args)
  | sminmax (fn : MinMaxFn) (x : Args)
  | sbit (fn : BitFn) (x : Args)
  -- vector integer (R41)
  | vadd (fn : SatFn) (x : Args)
  | vsub (fn : SatFn) (x : Args)
  | vmul (x : Args)
  | vmulh (fn : SignFn) (x : Args)
  | vmad (x : Args)
  | vand (fn : LogicFn) (x : Args)
  | vor (fn : LogicFn) (x : Args)
  | vxor (fn : LogicFn) (x : Args)
  | vshl (fn : ShlFn) (x : Args)
  | vshr (fn : ShrFn) (x : Args)
  | vmin (fn : SignFn) (x : Args)
  | vmax (fn : SignFn) (x : Args)
  | vabs (fn : AbsFn) (x : Args)
  | vclz (x : Args)
  | vpopc (x : Args)
  | vbfx (fn : BfxFn) (x : Args)
  -- lane and move (R41)
  | vmov (x : Args)
  | vcmp (fn : CmpFn) (x : Args)
  | vfcmp (fn : FcmpFn) (x : Args)
  | vsel (x : Args)
  | vbcast (fn : BcastFn) (x : Args)
  | vshfl (fn : ShflFn) (x : Args)
  | vred (fn : RedFn) (x : Args)
  | vext (fn : ExtFn) (x : Args)
  -- FP32 (R42)
  | vfadd (fn : RndFn) (x : Args)
  | vfsub (fn : RndFn) (x : Args)
  | vfmul (fn : RndFn) (x : Args)
  | vfma (fn : RndFn) (x : Args)
  | vfnma (fn : RndFn) (x : Args)
  | vfmin (fn : NanFn) (x : Args)
  | vfmax (fn : NanFn) (x : Args)
  | vfsgn (fn : SgnFn) (x : Args)
  | vfrsqe (x : Args)
  | vfrcpe (x : Args)
  | vfex2e (x : Args)
  | vflg2e (x : Args)
  | vfscl (fn : RndFn) (x : Args)
  | vfxp (fn : XpFn) (x : Args)
  | vfcls (x : Args)
  | vfrnd (fn : RndFn) (x : Args)
  -- narrow and format (R43)
  | vcvt (fn : NumFmt) (x : Args)
  | vpack (fn : PackFn) (x : Args)
  | vunpk (fn : PackFn) (x : Args)
  | vhfma (fn : HalfFn) (x : Args)
  | vdot4 (fn : Dot4Fn) (x : Args)
  | vtsel (x : Args)
  | qscale (fn : BsFn) (x : Args)
  | qcvt (fn : BsFn) (x : Args)
  | setfmt (fn : SetfmtFn) (x : Args)
  | getfmt (fn : GetfmtFn) (x : Args)
  -- memory (R44)
  | ld (w : Width) (x : MArgs)
  | st (w : Width) (x : MArgs)
  | ldu (w : Width) (x : MArgs)
  | lds (w : Width) (x : MArgs)
  | sts (w : Width) (x : MArgs)
  | pref (fn : PrefFn) (x : MArgs)
  | lea (x : MArgs)
  -- atomics (R45)
  | atom (fn : AtomFn) (x : MArgs)
  | xchg (x : MArgs)
  | cas (x : MArgs)
  | red (fn : AtomFn) (x : MArgs)
  | satom (fn : SatomFn) (x : MArgs)
  -- engines and rings (R46)
  | cpy (x : Args)
  | cpy2d (x : Args)
  | batch (x : Args)
  | waitb (x : Args)
  | waitbTest (x : Args)
  | gth (fn : GthFn) (x : Args)
  | sct (fn : GthFn) (x : Args)
  | coll (fn : CollFn) (x : Args)
  | rpush (fn : NbFn) (x : Args)
  | rpop (fn : NbFn) (x : Args)
  -- matrix (R46)
  | mxloop (x : Args)
  | mxstep (x : Args)
  | mxzero (fn : MxzeroFn) (x : Args)
  | mxld (fn : MxldFn) (x : Args)
  | mxst (fn : MxstFn) (x : Args)
  | mxprogRd (x : Args)
  | mxprogWr (x : Args)
  | mxepi (fn : MxepiFn) (x : Args)
  -- synchronisation (R47)
  | fence (fn : Scope) (x : Args)
  | bar (x : Args)
  | bara (x : Args)
  | barw (x : Args)
  | waitc (fn : WaitcFn) (x : Args)
  | cmaint (op : MaintOp) (lvl : MaintLevel) (x : Args)
  | mwait (fn : MwaitFn) (x : Args)
  -- tasks (R47)
  | enq (fn : NbFn) (x : Args)
  | trig (x : Args)
  | join (fn : NbFn) (x : Args)
  -- group (R47)
  | grow (fn : NbFn) (x : Args)
  | shrink (x : Args)
  | tryOpen (x : Args)
  | commit (x : Args)
  | abort (x : Args)
  | qctlCnt (x : Args)
  | qctlRst (x : Args)
  -- market (R47)
  | bid (cls : MktClass) (x : Args)
  | bidrd (cls : MktClass) (x : Args)
  | lease (cls : MktClass) (x : Args)
  | mighintOn (x : Args)
  | mighintOff (x : Args)
  -- system (R47)
  | trap (x : Args)
  | idemOn (x : Args)
  | idemOff (x : Args)
  | hret (x : Args)
  | ctlr (x : Args)
  | ctlw (fn : CtlwFn) (x : Args)
  | bkpt (x : Args)
  | svc (x : Args)
  -- events: fetch, issue and late causes
  | fetchCheckFail (g f : Nat)
  | conflict (g : Nat)
  -- events: ends of waits
  | queueWaitComplete (g f : Nat)
  | queueDeadlock (g : Nat)
  | regangJoin (g rec : Nat)
  | parkedSlicesResume (g f : Nat)
  | barrierPhaseComplete (team bar : Nat)
  | barrierDeadlock (team : Nat)
  | growGrant (core octet : Nat)
  | yieldEnd (g f : Nat)
  | mwaitWake (g f : Nat)
  | mwaitTimeout (g f : Nat)
  | waitcSatisfied (g f : Nat)
  | joinWake (g f : Nat)
  | groupLeavesCore (g : Nat)
  -- events: issue and memory units
  | fragmentUrgent (g f : Nat)
  | issueStart (core : Nat) (side : Side)
  | sideLogReplay (core : Nat)
  | heldAccessResume (op : Nat)
  | l1WritebackTimeout (core line : Nat)
  | l1CleanCopyExpiry (core line : Nat)
  -- events: engines
  | copyBatchComplete (g batch : Nat)
  | reductionGenerationComplete (cluster task dest : Nat)
  | networkEntryPerformed (g : Nat)
  | gatherComplete (g : Nat)
  | collGenerationComplete (coll : Nat)
  | ringWaitWake (g f : Nat)
  | engineOperationRefused (g op : Nat) (code : Nat) (addr : W64)
  | matrixFormComplete (g : Nat)
  -- events: front end and distributor
  | dependenceMet (task k : Nat)
  | placementRound (ctx : Nat)
  | candidateAged (ctx cand : Nat)
  | candidateNoRegion (ctx cand : Nat)
  | teamSwapOut (team : Nat)
  | teamSwapIn (team : Nat)
  | triggerPoint (task : Nat)
  | edgeFlushEnd (edge : Nat)
  | commandComplete (cmd : Nat)
  -- events: command processor, queues and hosts
  | pktNop (vq : Nat)
  | pktLaunch (vq : Nat)
  | pktWaitctr (vq : Nat)
  | pktStore64 (vq : Nat)
  | pktAdd64 (vq : Nat)
  | pktDrain (vq : Nat)
  | queueMap (vq : Nat)
  | queueUnmap (vq : Nat)
  | queueTimesliceExpiry (vq : Nat)
  | doorbell (fr : Frame) (vq : Nat) (seq : W32) (tail : W64)
  | regrd (fr : Frame) (vi : Nat) (seq : W32) (off : W64)
  | regwr (fr : Frame) (vi : Nat) (seq : W32) (off val : W64)
  | qcbWrite (fr : Frame) (vi : Nat) (seq : W32) (q : Nat) (val : W64)
  | qcmdEnable (fr : Frame) (vi : Nat) (seq : W32) (q : Nat)
  | qcmdDisable (fr : Frame) (vi : Nat) (seq : W32) (q : Nat)
  | qcmdClearStop (fr : Frame) (vi : Nat) (seq : W32) (q : Nat)
  | rdmaWrite (peer : RdmaPeer) (addr : W64) (data : List Byte)
  | rdmaRead (peer : RdmaPeer) (addr : W64) (n : Nat)
  | rdmaAtomicRefused (peer : RdmaPeer) (addr : W64)
  | gatedDomainWake (dom : Nat)
  -- events: market and migration
  | priceTableReceive (pkg ival : Nat) (prices : List W64) (unsold : List Nat)
  | contextMigrate (ctx : Nat)
  | migrationAccept (about : Nat) (news : PodNews)
  -- events: pages, channels, slices
  | pageMoveStart (page : Nat) (far : Bool) (die : Nat) (frame : W64)
  | pageMoveComplete (page : Nat)
  | pageEviction (die : Nat)
  | farAccessPromotion (page : Nat)
  | channelRetire (die stack chan : Nat)
  | channelRebuildComplete (die stack chan : Nat)
  | scrubVisit (line : Nat) (res : ScrubResult)
  | sliceRetire (die slice : Nat) (readable : Bool)
  -- events: links and packets
  | linkFailure (die router port : Nat)
  | packetDrop (loss : PacketLoss)
  | packetResend (op : Nat)
  | destinationGivenUp (pkg : Nat)
  -- events: reliability
  | lateTransitionReplay (core pipe : Nat)
  | pipeRetire (core pipe : Nat)
  | idemRestart (g : Nat) (e : HwError)
  | restartLimitMove (g : Nat) (e : HwError)
  | coreTestComplete (core : Nat) (pass : Bool)
  -- events: pre-emption
  | preemptDrain (team : Nat)
  | drainTimeout (team : Nat)
  | preemptFlushRestart (team : Nat)
  | preemptSave (team : Nat) (why : SaveReason)
  | contextRestore (team : Nat)
  -- events: management
  | mread (msg : MgmtMsg) (obj : Nat) (off : W64) (len : Nat)
  | mwrite (msg : MgmtMsg) (obj : Nat) (off : W64) (data : List Byte)
  | applyStagedPlan (msg : MgmtMsg) (die : Nat)
  | invalidateTranslations (msg : MgmtMsg) (ctx stage : Nat) (base len : W64)
  | resolveRetry (msg : MgmtMsg) (id : Nat)
  | resolveRefuse (msg : MgmtMsg) (id : Nat)
  | resolveDone (msg : MgmtMsg) (id : Nat)
  | resolveAcknowledge (msg : MgmtMsg) (id : Nat)
  | preemptTeam (msg : MgmtMsg) (ctx die cluster core slot : Nat)
  | resumeStoppedGroup (msg : MgmtMsg) (ctx die cluster core slot : Nat)
  | endStoppedGroup (msg : MgmtMsg) (ctx die cluster core slot : Nat)
  | verifyFirmware (msg : MgmtMsg)
  | attestationReport (msg : MgmtMsg) (vi : Nat) (nonce : W64)
  | packageReset (msg : MgmtMsg)
  -- events: power and temperature
  | longLatencyRetirement (op : Nat)
  | powerGating (dom : Nat)
  | thermalGateRelease (level : Nat)
  | hostRdmaHoldExpiry (id : Nat)
  -- events without operands
  | lateFault
  | cpPass
  | cpFirmwareReload
  | intervalStart
  | bidSnapshot
  | pricePublication
  | releaseWindow
  | powerOnReset
  | thermalGateHalf
  | thermalGateSevenEighths
  | thermalShutdown
  deriving DecidableEq, Repr

end Sys2Proof
end

