-- ==== Sys2Proof/Machine/Flags.lean ====
section
/-! DEFINITION. Integer results, comparisons, bit fields and the fields of fmt, as functions of values alone
(spec/03 R84-R105, spec/20 R371, spec/04 R141). -/

namespace Sys2Proof.Machine

open Sys2Proof

/-! ### Exact arithmetic, then one narrowing (R84, R92) -/

/-- x bounded to [lo, hi] (R84). -/
def clampInt (lo hi x : Int) : Int := if x < lo then lo else if hi < x then hi else x

/-- The exact operands of an addition or subtraction, the exact result, and its narrowing to n bits (R84). -/
def addSat {n : Nat} (fn : SatFn) (sub : Bool) (a b : BitVec n) : BitVec n :=
  match fn with
  | .wrap => if sub then a - b else a + b
  | .ss =>
    let x := if sub then a.toInt - b.toInt else a.toInt + b.toInt
    BitVec.ofInt n (clampInt (-(2 ^ (n - 1) : Nat)) ((2 ^ (n - 1) : Nat) - 1) x)
  | .us =>
    let x : Int := if sub then (a.toNat : Int) - b.toNat else (a.toNat : Int) + b.toNat
    BitVec.ofInt n (clampInt 0 ((2 ^ n : Nat) - 1) x)

/-- The upper half of the double-width product (R85, R93). -/
def mulHigh {n : Nat} (fn : SignFn) (a b : BitVec n) : BitVec n :=
  match fn with
  | .s => BitVec.ofInt n ((a.toInt * b.toInt) / (2 ^ n : Nat))
  | .u => BitVec.ofNat n ((a.toNat * b.toNat) / 2 ^ n)

/-- B, complemented for .n (R86). -/
def complN {n : Nat} (fn : LogicFn) (b : BitVec n) : BitVec n :=
  match fn with
  | .plain => b
  | .n => ~~~b

/-- A left shift or rotation by the low bits of B (R87, R94). -/
def shiftLeft {n : Nat} (fn : ShlFn) (a : BitVec n) (amount : Nat) : BitVec n :=
  match fn with
  | .logical => a <<< amount
  | .rot => a.rotateLeft amount

def shiftRight {n : Nat} (fn : ShrFn) (a : BitVec n) (amount : Nat) : BitVec n :=
  match fn with
  | .l => a >>> amount
  | .a => a.sshiftRight amount

/-- The conditions of SCMP and VCMP (R88, R99). -/
def cmpHolds {n : Nat} (fn : CmpFn) (a b : BitVec n) : Bool :=
  match fn with
  | .eq => a == b
  | .ne => a != b
  | .lt => a.slt b
  | .le => a.sle b
  | .gt => b.slt a
  | .ge => b.sle a
  | .ltu => a.ult b
  | .leu => a.ule b
  | .gtu => b.ult a
  | .geu => b.ule a

def minMax {n : Nat} (fn : MinMaxFn) (a b : BitVec n) : BitVec n :=
  match fn with
  | .min => if b.slt a then b else a
  | .max => if a.slt b then b else a
  | .minu => if b.ult a then b else a
  | .maxu => if a.ult b then b else a

/-- The number of 1 bits among the low k (R90, R95). -/
def popCount {n : Nat} (x : BitVec n) : Nat → Nat
  | 0 => 0
  | k + 1 => (if x.getLsbD k then 1 else 0) + popCount x k

/-- The index of the lowest 1 bit at or above i, among k bits; i + k when there is none (R90). -/
def lowestOne {n : Nat} (x : BitVec n) (i : Nat) : Nat → Nat
  | 0 => i
  | k + 1 => if x.getLsbD i then i else lowestOne x (i + 1) k

/-- The index of the highest 1 bit below k (R90). -/
def highestOne {n : Nat} (x : BitVec n) : Nat → Option Nat
  | 0 => none
  | k + 1 => if x.getLsbD k then some k else highestOne x k

/-- SFFS (R90). -/
def findBit (fn : FfsFn) (x : W64) : W64 :=
  match fn with
  | .lo => BitVec.ofNat 64 (lowestOne x 0 64)
  | .hi => BitVec.ofNat 64 ((highestOne x 64).getD 64)

/-- Leading zero bits of a 32-bit value (R95). -/
def leadingZeros (x : W32) : W32 :=
  match highestOne x 32 with
  | none => 32
  | some k => BitVec.ofNat 32 (31 - k)

/-- A 64-bit mask of one bit. -/
def oneBit (n k : Nat) : BitVec n := (1 : BitVec n) <<< k

/-- SBIT (R90). -/
def bitOp (fn : BitFn) (a : W64) (b : Nat) : W64 :=
  match fn with
  | .tst => if a.getLsbD b then 1 else 0
  | .set => a ||| oneBit 64 b
  | .clr => a &&& ~~~oneBit 64 b
  | .inv => a ^^^ oneBit 64 b

/-- VABS (R95). -/
def absLane (fn : AbsFn) (a : W32) : W32 :=
  match fn with
  | .wrap => if a.msb then -a else a
  | .ss => if a = 0x80000000 then 0x7FFFFFFF else if a.msb then -a else a

/-- VBFX: the field clipped at bit 31 (R96). -/
def bitField (fn : BfxFn) (old a b c : W32) : W32 :=
  let pos := b.toNat % 32
  let width := min (c.toNat % 64) (32 - pos)
  let ones : W32 := BitVec.ofNat 32 (2 ^ width - 1)
  let field := (a >>> pos) &&& ones
  match fn with
  | .zx => field
  | .sx => if width = 0 then 0 else if field.getLsbD (width - 1) then field ||| ~~~ones else field
  | .ins => (old &&& ~~~(ones <<< pos)) ||| ((a &&& ones) <<< pos)

/-- VSHFL's source lane (R101). -/
def shuffleSrc (fn : ShflFn) (l : Nat) (b : W32) : Nat :=
  match fn with
  | .idx => b.toNat % 32
  | .up => if b.toNat ≤ l then l - b.toNat else l
  | .dn => if l + b.toNat ≤ 31 then l + b.toNat else l
  | .xor => Nat.xor l (b.toNat % 32)

/-- SMOV (R89); `immA` says that A is the immediate. -/
def movValue (fn : MovFn) (a : W64) (immA : Bool) (imm : W32) : W64 :=
  match fn with
  | .plain => a
  | .z32 => (a.setWidth 32).setWidth 64
  | .s32 => (a.setWidth 32).signExtend 64
  | .hi => (imm.setWidth 64 <<< 32) ||| ((if immA then imm else a.setWidth 32).setWidth 64)

/-- BRC's conditions on a 64-bit scalar (R74). -/
def brcHolds (fn : BrcFn) (a : W64) : Bool :=
  match fn with
  | .z => a == 0
  | .nz => a != 0
  | .lt => a.slt 0
  | .ge => !a.slt 0
  | .gt => (0 : W64).slt a
  | .le => !(0 : W64).slt a

/-- BRS's condition on the four bits of one slice (R185). -/
def brsTaken (fn : BrsFn) (bits : Nat) : Bool :=
  match fn with
  | .any => bits != 0
  | .all => bits == 15
  | .none => bits == 0
  | .nall => bits != 15

/-- The integer steps of the atomic forms (R141, R142). -/
inductive AtomStep where | add | and | or | xor | min | max | minu | maxu deriving DecidableEq, Repr

def atomInt {n : Nat} (fn : AtomStep) (old b : BitVec n) : BitVec n :=
  match fn with
  | .add => old + b
  | .and => old &&& b
  | .or => old ||| b
  | .xor => old ^^^ b
  | .min => minMax .min old b
  | .max => minMax .max old b
  | .minu => minMax .minu old b
  | .maxu => minMax .maxu old b

/-! ### fmt (R371) -/

/-- A field of fmt. -/
def fmtField (x : W32) (lo n : Nat) : Nat := (x.toNat >>> lo) % 2 ^ n

def fmtAF (x : W32) : Nat := fmtField x 0 4
def fmtBF (x : W32) : Nat := fmtField x 4 4
def fmtCF (x : W32) : Bool := x.getLsbD 8
def fmtRM (x : W32) : Nat := fmtField x 9 2
def fmtFZ (x : W32) : Bool := x.getLsbD 11
def fmtCE (x : W32) : Bool := x.getLsbD 12
def fmtTREC (x : W32) : Nat := fmtField x 13 3

/-- SETFMT refuses codes 10 to 15 in AF or BF (R194, R371). -/
def fmtLegal (x : W32) : Bool := fmtAF x < 10 && fmtBF x < 10

/-- Flags raised by an operation, in the order of bits 24 to 31 of fmt and of causes 0x30 to 0x37 (R371). -/
abbrev FlagSet : Type := BitVec 8

def flagNV : FlagSet := 0x01
def flagDZ : FlagSet := 0x02
def flagOF : FlagSet := 0x04
def flagUF : FlagSet := 0x08
def flagNX : FlagSet := 0x10
def flagSAT : FlagSet := 0x20
def flagCLP : FlagSet := 0x40
def flagTBAD : FlagSet := 0x80

/-- The trap enables of fmt (R371). -/
def fmtEnables (x : W32) : FlagSet := x.extractLsb' 16 8

/-- fmt with flags added: they are sticky (R372). -/
def fmtRaise (x : W32) (fl : FlagSet) : W32 := x ||| ((fl.setWidth 32) <<< (24 : Nat))

/-- fmt with bits [31:24] cleared (R195, R372). -/
def fmtClear (x : W32) : W32 := x &&& 0x00FFFFFF

/-- The lowest-numbered cause among enabled flags (R110, R372). -/
def flagCause (fl : FlagSet) : Option Nat :=
  if fl = 0 then none else some (0x30 + lowestOne fl 0 8)

end Sys2Proof.Machine
end

