-- ==== Sys2Proof/WellFormed.lean ====
section
/-! DEFINITION. Well-formed instructions: the static rules of spec/01 R27-R47 and of each form's entry, as one table of
forms and one check. What the check refuses, decoding raises as cause 0x02 (R36). -/

namespace Sys2Proof

/-- The word formats (R27). -/
inductive Fmt where | V | M | B | E | S deriving DecidableEq, Repr

/-- The masking rules of R38. -/
inductive MaskRule where | any | none | needed deriving DecidableEq, Repr

/-- What field D is (R30, R34 and the forms' entries). -/
inductive DKind where
  | none              -- no result; D is 0x000
  | vec               -- 32-bit vector result
  | wide (k : Nat)    -- vector result in k registers, D a multiple of k, no queue (R44)
  | pair              -- LEA: an even v register (R130)
  | vreg              -- D must name a v register, also read (R96, R333)
  | casV              -- CAS: a v register with CM 0x01 (R140)
  | scal              -- scalar result: s or zero
  | casS              -- SATOM .cas: an s register with CM 0x01 (R140)
  | s01               -- an s register with CM 0x01, or nothing with CM 0 (R400, R406)
  | scalReg           -- scalar result, no CM bit other than bit 0 (R336)
  | link              -- an s register that is no result (R76, R391)
  deriving DecidableEq, Repr

/-- What a source field accepts (R30 and the forms' entries). -/
inductive SrcKind where
  | none              -- unused: 0x000
  | vec               -- every vector kind
  | cross             -- a cross-lane source: no queue (R102)
  | scal              -- scalar source
  | sreg              -- an s register (R78)
  | vreg              -- a v register code (R391)
  | base              -- a per-lane address (R121)
  | lpbase            -- a lane-private offset (R128)
  | data (k : Nat)    -- store data of k registers (R126); k = 1 for 32 bits and fewer
  deriving DecidableEq, Repr

/-- What the form does with IMM (R65, R89, R248). -/
inductive ImmRule where
  | opnd              -- the value of operands coded 0x1FF, or the queue number of R34
  | hi                -- SMOV .hi: always the upper half (R89)
  | field (m : W32)   -- the entry's own fields: the bits of m
  deriving DecidableEq, Repr

/-- The static properties of a form (R38 and the form's entry). -/
structure Form where
  fmt : Fmt
  long : Bool := false
  mask : MaskRule := .none
  bobbin : Bool := false
  d : DKind := .none
  a : SrcKind := .none
  b : SrcKind := .none
  c : SrcKind := .none
  imm : ImmRule := .field 0
  deriving DecidableEq, Repr

/-- The fields of an instruction, by format. -/
inductive Payload where
  | zero                -- NOP: the all-zero word (R39)
  | v (x : Args)        -- formats V, E and S
  | m (x : MArgs)
  | b (x : BArgs)
  deriving DecidableEq, Repr

/-! ### Kinds of operands (R29, R30) -/

/-- The special operands that are scalar (R29). -/
def Special.isScalar : Special → Bool
  | .lane => false
  | .slice => false
  | _ => true

def Operand.isScalar : Operand → Bool
  | .s _ => true
  | .sp x => x.isScalar
  | .zero => true
  | .imm => true
  | _ => false

def Operand.isV : Operand → Bool
  | .v _ => true
  | _ => false

def Operand.isS : Operand → Bool
  | .s _ => true
  | _ => false

def Operand.isQ : Operand → Bool
  | .q _ => true
  | _ => false

/-- The field holds 0x000, the encoding of an unused field (R27). -/
def Operand.isBlank (o : Operand) : Bool := o == .v 0

def SrcKind.accepts (k : SrcKind) (o : Operand) : Bool :=
  match k with
  | .none => o.isBlank
  | .vec => true
  | .cross => !o.isQ
  | .scal => o.isScalar
  | .sreg => o.isS
  | .vreg => o.isV
  | .base =>
    match o with
    | .v n => n != 255
    | .q _ => false
    | .imm => false
    | _ => true
  | .lpbase =>
    match o with
    | .v _ => true
    | .s _ => true
    | .sp x => !x.isScalar
    | .zero => true
    | _ => false
  | .data n =>
    match o with
    | .v r => r.toNat % n == 0
    | .q _ => n == 1
    | .imm => false
    | .s _ => n != 4
    | .sp _ => n != 4
    | .zero => n != 4

/-! ### CM and D (R34) -/

def Consumers.none : Consumers := ⟨false, false, false, false, false, false⟩

def Consumers.isRegOnly (c : Consumers) : Bool := c == ⟨true, false, false, false, false, false⟩

/-- D and CM of a result of kind k (R30, R34, R44, R130, R140). `both` says that the form may name a register and a
queue together. -/
def DKind.accepts (k : DKind) (both : Bool) (cm : Consumers) (d : Operand) : Bool :=
  match k with
  | .none => cm == .none && d.isBlank
  | .link => cm == .none && d.isS
  | .vec =>
    match cm.reg, cm.queue with
    | false, false => d.isBlank
    | true, false => d.isV || d == .zero
    | false, true => d.isQ
    | true, true => both && d.isV
  | .wide n =>
    !cm.queue &&
      (if cm.reg then (match d with | .v r => r.toNat % n == 0 | .zero => true | _ => false) else d.isBlank)
  | .pair =>
    !cm.queue && (if cm.reg then (match d with | .v r => r.toNat % 2 == 0 | _ => false) else d.isBlank)
  | .vreg => cm.reg && d.isV && (!cm.queue || both)
  | .casV => cm.isRegOnly && d.isV
  | .casS => cm.isRegOnly && d.isS
  | .scal => !cm.queue && (if cm.reg then d.isS || d == .zero else d.isBlank)
  | .s01 => if cm.reg then cm.isRegOnly && d.isS else cm == .none && d.isBlank
  | .scalReg =>
    if cm.reg then cm.isRegOnly && (d.isS || d == .zero) else cm == .none && d.isBlank

/-! ### Groups of forms (R38) -/

/-- A scalar form (R83). -/
def Form.scalar (a b c : SrcKind) : Form :=
  { fmt := .V, bobbin := true, d := .scal, a := a, b := b, c := c, imm := .opnd }

/-- A vector form of one 32-bit result (R91, R97). -/
def Form.vector (bobbin : Bool) (a b c : SrcKind) : Form :=
  { fmt := .V, mask := .any, bobbin := bobbin, d := .vec, a := a, b := b, c := c, imm := .opnd }

/-- A lane form whose result is scalar (R38). -/
def Form.laneScalar (bobbin : Bool) (a b : SrcKind) : Form :=
  { fmt := .V, mask := .any, bobbin := bobbin, d := .scal, a := a, b := b, imm := .opnd }

/-- A form of format M (R120, R140). -/
def Form.memory (bobbin : Bool) (mask : MaskRule) (d : DKind) (a b : SrcKind) : Form :=
  { fmt := .M, long := true, mask := mask, bobbin := bobbin, d := d, a := a, b := b }

/-- A form of format E, unmasked (R325). -/
def Form.engine (bobbin long : Bool) (d : DKind) (a b c : SrcKind) (m : W32) : Form :=
  { fmt := .E, long := long, bobbin := bobbin, d := d, a := a, b := b, c := c, imm := .field m }

/-- A form of format S, unmasked, not allowed to bobbins (R38). -/
def Form.system (d : DKind) (a b : SrcKind) (m : W32) : Form :=
  { fmt := .S, d := d, a := a, b := b, imm := .field m }

/-- A form of format B (R74-R78). -/
def Form.branch (d : DKind) (a : SrcKind) : Form :=
  { fmt := .B, bobbin := true, d := d, a := a }

/-- The registers of a load or store of this width (R44). -/
def Width.regs : Width → Nat
  | .b64 => 2
  | .b128 => 4
  | _ => 1

/-- The load's destination kind: 32-bit results may feed a queue (R34). -/
def Width.dkind : Width → DKind
  | .b64 => .wide 2
  | .b128 => .wide 4
  | _ => .vec

/-- The form of each instruction; events have none. -/
def Instr.form : Instr → Option Form
  | .nop => some { fmt := .V, bobbin := true }
  | .bra _ => some (.branch .none .none)
  | .brc _ _ => some (.branch .none .scal)
  | .brs _ _ => some (.branch .none .scal)
  | .regang _ => some { Form.system .none .none .none 0xFFFF with bobbin := true }
  | .mskip _ => some { Form.system .none .none .none 0xFF with bobbin := true, mask := .needed }
  | .call _ => some (.branch .link .none)
  | .ret _ => some (.branch .none .scal)
  | .jmpi _ => some (.branch .none .scal)
  | .djnz _ => some (.branch .none .sreg)
  | .exit _ => some { Form.system .none .none .none 0 with bobbin := true }
  | .yield _ => some { Form.system .none .none .none 0 with bobbin := true }
  | .sadd _ _ => some (.scalar .scal .scal .none)
  | .ssub _ _ => some (.scalar .scal .scal .none)
  | .smul _ => some (.scalar .scal .scal .none)
  | .smulh _ _ => some (.scalar .scal .scal .none)
  | .sand _ _ => some (.scalar .scal .scal .none)
  | .sor _ _ => some (.scalar .scal .scal .none)
  | .sxor _ _ => some (.scalar .scal .scal .none)
  | .sshl _ _ => some (.scalar .scal .scal .none)
  | .sshr _ _ => some (.scalar .scal .scal .none)
  | .scmp _ _ => some (.scalar .scal .scal .none)
  | .ssel _ => some (.scalar .scal .scal .scal)
  | .smov .hi _ => some { Form.scalar .scal .none .none with imm := .hi }
  | .smov _ _ => some (.scalar .scal .none .none)
  | .spopc _ _ => some (.scalar .scal .none .none)
  | .sffs _ _ => some (.scalar .scal .none .none)
  | .sminmax _ _ => some (.scalar .scal .scal .none)
  | .sbit _ _ => some (.scalar .scal .scal .none)
  | .vadd _ _ => some (.vector true .vec .vec .none)
  | .vsub _ _ => some (.vector true .vec .vec .none)
  | .vmul _ => some (.vector true .vec .vec .none)
  | .vmulh _ _ => some (.vector true .vec .vec .none)
  | .vmad _ => some (.vector true .vec .vec .vec)
  | .vand _ _ => some (.vector true .vec .vec .none)
  | .vor _ _ => some (.vector true .vec .vec .none)
  | .vxor _ _ => some (.vector true .vec .vec .none)
  | .vshl _ _ => some (.vector true .vec .vec .none)
  | .vshr _ _ => some (.vector true .vec .vec .none)
  | .vmin _ _ => some (.vector true .vec .vec .none)
  | .vmax _ _ => some (.vector true .vec .vec .none)
  | .vabs _ _ => some (.vector true .vec .none .none)
  | .vclz _ => some (.vector true .vec .none .none)
  | .vpopc _ => some (.vector true .vec .none .none)
  | .vbfx .ins _ => some { Form.vector true .vec .vec .vec with d := .vreg }
  | .vbfx _ _ => some (.vector true .vec .vec .vec)
  | .vmov _ => some (.vector true .vec .none .none)
  | .vcmp _ _ => some (.laneScalar true .vec .vec)
  | .vfcmp _ _ => some (.laneScalar false .vec .vec)
  | .vsel _ => some (.vector true .vec .vec .vec)
  | .vbcast .s _ => some (.vector true .scal .none .none)
  | .vbcast .lane _ => some (.vector true .cross .scal .none)
  | .vshfl _ _ => some (.vector true .cross .vec .none)
  | .vred .fadd _ => some (.laneScalar false .vec .none)
  | .vred .fmin _ => some (.laneScalar false .vec .none)
  | .vred .fmax _ => some (.laneScalar false .vec .none)
  | .vred _ _ => some (.laneScalar true .vec .none)
  | .vext _ _ => some (.laneScalar true .cross .scal)
  | .vfadd _ _ => some (.vector false .vec .vec .none)
  | .vfsub _ _ => some (.vector false .vec .vec .none)
  | .vfmul _ _ => some (.vector false .vec .vec .none)
  | .vfma _ _ => some (.vector false .vec .vec .vec)
  | .vfnma _ _ => some (.vector false .vec .vec .vec)
  | .vfmin _ _ => some (.vector false .vec .vec .none)
  | .vfmax _ _ => some (.vector false .vec .vec .none)
  | .vfsgn _ _ => some (.vector false .vec .vec .none)
  | .vfrsqe _ => some { Form.vector false .vec .none .none with long := true }
  | .vfrcpe _ => some { Form.vector false .vec .none .none with long := true }
  | .vfex2e _ => some { Form.vector false .vec .none .none with long := true }
  | .vflg2e _ => some { Form.vector false .vec .none .none with long := true }
  | .vfscl _ _ => some (.vector false .vec .vec .none)
  | .vfxp _ _ => some (.vector false .vec .none .none)
  | .vfcls _ => some (.vector false .vec .none .none)
  | .vfrnd _ _ => some (.vector false .vec .none .none)
  | .vcvt _ _ => some { Form.vector false .vec .vec .none with imm := .field 0xF }
  | .vpack _ _ => some { Form.vector false .vec .vec .none with d := .vreg }
  | .vunpk _ _ => some (.vector false .vec .vec .none)
  | .vhfma _ _ => some (.vector false .vec .vec .vec)
  | .vdot4 _ _ => some (.vector false .vec .vec .vec)
  | .vtsel _ => some (.vector false .vec .vec .vec)
  | .qscale _ _ => some (.engine false true .none .scal .scal .none 0xF7F)
  | .qcvt _ _ => some (.engine false true .none .scal .scal .none 0)
  | .setfmt .reg _ => some { fmt := .V, a := .scal, imm := .opnd }
  | .setfmt .i _ => some { fmt := .V, imm := .field 0xFFFFFFFF }
  | .getfmt _ _ => some { fmt := .V, d := .scal, imm := .opnd }
  | .ld w _ => some (.memory true .any w.dkind .base .none)
  | .st w _ => some (.memory false .any .none .base (.data w.regs))
  | .ldu _ _ => some (.memory true .none .scal .scal .none)
  | .lds w _ => some (.memory true .any w.dkind .lpbase .none)
  | .sts w _ => some (.memory false .any .none .lpbase (.data w.regs))
  | .pref _ _ => some (.memory true .any .none .base .none)
  | .lea _ => some { Form.memory true .any .pair .base .vec with long := false }
  | .atom _ _ => some (.memory false .any .vec .base (.data 1))
  | .xchg _ => some (.memory false .any .vec .base (.data 1))
  | .cas _ => some (.memory false .any .casV .base (.data 1))
  | .red _ _ => some (.memory false .any .none .base (.data 1))
  | .satom .cas _ => some (.memory false .none .casS .scal .scal)
  | .satom _ _ => some (.memory false .none .scal .scal .scal)
  | .cpy _ => some (.engine true true .none .scal .scal .scal 0)
  | .cpy2d _ => some (.engine true true .none .scal .scal .scal 0xFFFFFFFF)
  | .batch _ => some (.engine true false .scal .none .none .none 0)
  | .waitb _ => some (.engine true false .none .scal .none .none 0)
  | .waitbTest _ => some (.engine true false .scal .scal .none .none 0)
  | .gth _ _ => some { Form.engine true true .none .base .scal .none 0 with mask := .any }
  | .sct _ _ => some { Form.engine false true .none .base .scal .none 0 with mask := .any }
  | .coll _ _ => some (.engine false true .none .scal .scal .scal 0x0FFFFFFF)
  | .rpush _ _ => some (.engine false true .scal .scal .scal .scal 0x3F)
  | .rpop _ _ => some (.engine false true .scal .scal .scal .scal 0)
  | .mxloop _ => some (.engine false true .none .scal .scal .scal 0x7FFFF)
  | .mxstep _ => some (.engine false true .none .none .none .none 0x3F)
  | .mxzero .one _ => some (.engine false true .none .none .none .none 3)
  | .mxzero .all _ => some (.engine false true .none .none .none .none 0)
  | .mxld .acc _ => some (.engine false true .none .scal .scal .none 7)
  | .mxld _ _ => some (.engine false true .none .scal .scal .none 5)
  | .mxst _ _ => some (.engine false true .none .scal .scal .none 7)
  | .mxprogRd _ => some (.engine false true .scal .none .none .none 0)
  | .mxprogWr _ => some (.engine false true .none .scal .none .none 0)
  | .mxepi .sb _ => some (.engine false true .none .scal .scal .none 3)
  | .mxepi _ _ => some (.engine false true .none .none .none .none 3)
  | .fence _ _ => some (.system .none .none .none 0)
  | .bar _ => some (.system .none .none .none 0x3F0F)
  | .bara _ => some (.system .none .none .none 0x3F0F)
  | .barw _ => some (.system .none .none .none 0xF)
  | .waitc _ _ => some (.system .none .none .none 0xFF)
  | .cmaint _ _ _ => some (.system .none .scal .scal 0)
  | .mwait _ _ => some (.system .none .scal .scal 0x7FFFF)
  | .enq .blocking _ => some (.system .none .scal .none 0)
  | .enq .nb _ => some (.system .scal .scal .none 0)
  | .trig _ => some (.system .none .none .none 0)
  | .join .blocking _ => some (.system .none .scal .scal 0)
  | .join .nb _ => some (.system .scal .scal .scal 0)
  | .grow .blocking _ => some { Form.system .none .scal .none 0 with long := true }
  | .grow .nb _ => some { Form.system .scal .scal .none 0 with long := true }
  | .shrink _ => some (.system .none .scal .none 0)
  | .tryOpen _ => some (.system .link .vreg .none 0xFFFFFFFF)
  | .commit _ => some (.system .s01 .none .none 0)
  | .abort _ => some (.system .none .none .none 0xFF)
  | .qctlCnt _ => some { Form.system .scal .none .none 7 with bobbin := true }
  | .qctlRst _ => some { Form.system .none .none .none 7 with bobbin := true }
  | .bid _ _ => some (.system .none .scal .scal 0)
  | .bidrd _ _ => some (.system .scalReg .none .none 1)
  | .lease _ _ => some (.system .scalReg .none .none 3)
  | .mighintOn _ => some (.system .none .scal .none 0)
  | .mighintOff _ => some (.system .none .none .none 0)
  | .trap _ => some (.system .none .none .none 0xFFFF)
  | .idemOn _ => some (.system .none .none .none 0)
  | .idemOff _ => some (.system .none .none .none 0)
  | .hret _ => some (.system .none .none .none 0)
  | .ctlr _ => some (.system .s01 .none .none 0xFFF)
  | .ctlw _ _ => some (.system .none .scal .none 0xFFF)
  | .bkpt _ => some (.system .none .none .none 0xFFFF)
  | .svc _ => some (.system .none .scal .none 0xFFFF)
  | _ => none

/-- The fields of each instruction; events have none. -/
def Instr.payload : Instr → Option Payload
  | .nop => some .zero
  | .bra x | .brc _ x | .brs _ x | .call x | .ret x | .jmpi x | .djnz x => some (.b x)
  | .ld _ x | .st _ x | .ldu _ x | .lds _ x | .sts _ x | .pref _ x | .lea x
  | .atom _ x | .xchg x | .cas x | .red _ x | .satom _ x => some (.m x)
  | .regang x | .mskip x | .exit x | .yield x
  | .sadd _ x | .ssub _ x | .smul x | .smulh _ x | .sand _ x | .sor _ x | .sxor _ x | .sshl _ x | .sshr _ x
  | .scmp _ x | .ssel x | .smov _ x | .spopc _ x | .sffs _ x | .sminmax _ x | .sbit _ x
  | .vadd _ x | .vsub _ x | .vmul x | .vmulh _ x | .vmad x | .vand _ x | .vor _ x | .vxor _ x | .vshl _ x
  | .vshr _ x | .vmin _ x | .vmax _ x | .vabs _ x | .vclz x | .vpopc x | .vbfx _ x
  | .vmov x | .vcmp _ x | .vfcmp _ x | .vsel x | .vbcast _ x | .vshfl _ x | .vred _ x | .vext _ x
  | .vfadd _ x | .vfsub _ x | .vfmul _ x | .vfma _ x | .vfnma _ x | .vfmin _ x | .vfmax _ x | .vfsgn _ x
  | .vfrsqe x | .vfrcpe x | .vfex2e x | .vflg2e x | .vfscl _ x | .vfxp _ x | .vfcls x | .vfrnd _ x
  | .vcvt _ x | .vpack _ x | .vunpk _ x | .vhfma _ x | .vdot4 _ x | .vtsel x | .qscale _ x | .qcvt _ x
  | .setfmt _ x | .getfmt _ x
  | .cpy x | .cpy2d x | .batch x | .waitb x | .waitbTest x | .gth _ x | .sct _ x | .coll _ x | .rpush _ x | .rpop _ x
  | .mxloop x | .mxstep x | .mxzero _ x | .mxld _ x | .mxst _ x | .mxprogRd x | .mxprogWr x | .mxepi _ x
  | .fence _ x | .bar x | .bara x | .barw x | .waitc _ x | .cmaint _ _ x | .mwait _ x
  | .enq _ x | .trig x | .join _ x | .grow _ x | .shrink x | .tryOpen x | .commit x | .abort x
  | .qctlCnt x | .qctlRst x | .bid _ x | .bidrd _ x | .lease _ x | .mighintOn x | .mighintOff x
  | .trap x | .idemOn x | .idemOff x | .hret x | .ctlr x | .ctlw _ x | .bkpt x | .svc x => some (.v x)
  | _ => none

/-! ### The checks of R36 that a word alone decides -/

/-- LA and MSK (R32, R33). -/
def Form.headerOk (f : Form) (la : BitVec 4) (msk : BitVec 6) : Bool :=
  (f.long || la == 0) &&
    (match f.mask with
     | .any => true
     | .none => msk == 0
     | .needed => msk != 0)

/-- IMM and the operands coded 0x1FF (R27, R34, R65). -/
def Form.immOk (f : Form) (x : Args) : Bool :=
  let used := x.a == .imm || x.b == .imm || x.c == .imm
  match f.imm with
  | .opnd =>
    if x.cm.reg && x.cm.queue then !used && x.imm >>> 3 == 0
    else used || x.imm == 0
  | .hi => true
  | .field m => !used && x.imm &&& ~~~m == 0

/-- A register and a queue may be named together only in format V with no field of the form's own in IMM (R34). -/
def Form.both (f : Form) : Bool := f.fmt == .V && f.imm == .opnd

def Form.argsOk (f : Form) (x : Args) : Bool :=
  f.headerOk x.la x.msk && f.d.accepts f.both x.cm x.d && f.a.accepts x.a && f.b.accepts x.b && f.c.accepts x.c &&
    f.immOk x && x.d != .imm

def Form.margsOk (f : Form) (x : MArgs) : Bool :=
  f.headerOk x.la x.msk && f.d.accepts false x.cm x.d && f.a.accepts x.a && f.b.accepts x.b &&
    x.a != .imm && x.b != .imm && x.d != .imm

def Form.bargsOk (f : Form) (x : BArgs) : Bool :=
  f.d.accepts false .none x.d && f.a.accepts x.a && x.a != .imm && x.slot.toNat ≤ 4

/-- R28: the attribute combinations that a load, store, other form or returning atomic may carry. -/
def Attrs.loadOk (a : Attrs) : Bool := a.order == .relaxed || a.order == .acquire

def Attrs.plainBits (a : Attrs) : Bool := !a.spec && !a.ro

def Attrs.storeOk (a : Attrs) : Bool := (a.order == .relaxed || a.order == .release) && a.plainBits

/-- The widths that each memory form lists (R44). -/
def Width.loadOk (w : Width) : Bool := w != .s32

def Width.storeOk (w : Width) : Bool := w == .z8 || w == .z16 || w == .b32 || w == .b64 || w == .b128

def Width.scalarOk (w : Width) : Bool := w != .b128

/-- The listed control registers (R404). -/
inductive CtlReg where
  | status | cause | epc | tval | trapvec | idempc | lpext | trtab | mxprog | mxsteps | mxbusy | mxwait | relcnt
  | cpq | red | net
  deriving DecidableEq, Repr

def CtlReg.ofNum : Nat → Option CtlReg
  | 0x000 => some .status
  | 0x001 => some .cause
  | 0x002 => some .epc
  | 0x003 => some .tval
  | 0x004 => some .trapvec
  | 0x005 => some .idempc
  | 0x006 => some .lpext
  | 0x007 => some .trtab
  | 0x010 => some .mxprog
  | 0x011 => some .mxsteps
  | 0x012 => some .mxbusy
  | 0x013 => some .mxwait
  | 0x020 => some .relcnt
  | 0x030 => some .cpq
  | 0x031 => some .red
  | 0x032 => some .net
  | _ => none

/-- A CTLW may name the register (R404: a CTLW to an RO register raises 0x02). -/
def CtlReg.writable : CtlReg → Bool
  | .cause => true
  | .epc => true
  | .tval => true
  | .trapvec => true
  | .lpext => true
  | .trtab => true
  | .cpq => true
  | .red => true
  | .net => true
  | _ => false

/-- A field of IMM. -/
def immField (x : W32) (lo n : Nat) : Nat := (x.toNat >>> lo) % 2 ^ n

def NumFmt.ofCode : Nat → Option NumFmt
  | 0 => some .f32
  | 1 => some .bf16
  | 2 => some .f16
  | 3 => some .e4m3
  | 4 => some .e5m2
  | 5 => some .i8
  | 6 => some .i32
  | 7 => some .t2
  | 8 => some .bs8e
  | 9 => some .bs8i
  | _ => none

def NumFmt.isBlock : NumFmt → Bool
  | .bs8e => true
  | .bs8i => true
  | _ => false

/-- The checks that one form's entry adds. -/
def Instr.extraOk : Instr → Bool
  | .ret x => x.lineOff == 0 && x.slot == 0
  | .jmpi x => x.lineOff == 0 && x.slot == 0
  | .mskip x => immField x.imm 0 8 != 0
  | .vcvt dst x =>
    match NumFmt.ofCode (immField x.imm 0 4) with
    | none => false
    | some src => !(dst.isBlock && src.isBlock) && (dst.isBlock || src.isBlock || x.b.isBlank)
  | .qscale _ x =>
    1 ≤ immField x.imm 0 7 && immField x.imm 0 7 ≤ 64 && 1 ≤ immField x.imm 8 4 && immField x.imm 8 4 ≤ 8
  | .ld w x => w.loadOk && x.attrs.loadOk
  | .st w x => w.storeOk && x.attrs.storeOk
  | .ldu w x => w.scalarOk && x.attrs.loadOk
  | .lds w x => w.loadOk && x.attrs.loadOk
  | .sts w x => w.storeOk && x.attrs.storeOk
  | .pref _ x => x.attrs.order == .relaxed && x.attrs.plainBits
  | .lea x => x.attrs.order == .relaxed && x.attrs.plainBits && x.attrs.hint == .normal
  | .atom _ x => x.attrs.plainBits
  | .xchg x => x.attrs.plainBits
  | .cas x => x.attrs.plainBits
  | .red _ x => x.attrs.storeOk
  | .satom _ x => x.attrs.plainBits
  | .coll _ x => immField x.imm 0 16 != 0
  | .mxloop x => immField x.imm 0 16 != 0
  | .bar x => immField x.imm 8 6 ≤ 32
  | .bara x => immField x.imm 8 6 ≤ 32
  | .mwait _ x => immField x.imm 16 3 != 7
  | .tryOpen x =>
    match x.a with
    | .v n => immField x.imm 7 3 ≤ 4 && 1 ≤ immField x.imm 0 7 && immField x.imm 0 7 ≤ 64 &&
        n.toNat + immField x.imm 0 7 ≤ 256
    | _ => false
  | .ctlr x => (CtlReg.ofNum (immField x.imm 0 12)).isSome
  | .ctlw fn x =>
    match CtlReg.ofNum (immField x.imm 0 12) with
    | none => false
    | some r => r.writable && (r != .cause || fn == .write)
  | _ => true

/-- The fields fit the form. -/
def Form.payloadOk (f : Form) : Payload → Bool
  | .zero => true
  | .v x => f.argsOk x
  | .m x => f.margsOk x
  | .b x => f.bargsOk x

/-- A well-formed instruction: every check of R36 that the word alone decides after OP, operand codes and FN. An event is
no instruction word. -/
def Instr.wf (i : Instr) : Bool :=
  match i.form, i.payload with
  | some f, some p => f.payloadOk p && i.extraOk
  | _, _ => false

end Sys2Proof
end

