-- ==== Sys2Proof/Decode.lean ====
section
/-! DEFINITION. Fetch lines and instruction words: the fields of a word, decoding in the order of R36 with a named
reason for each refusal, the encoder, and the line word with its check code (spec/01 R19-R47, R476). -/

namespace Sys2Proof

/-! ### The fields of a word (R26) -/

/-- The raw fields of a 96-bit word (R26). -/
structure RawWord where
  op : BitVec 8
  la : BitVec 4
  msk : BitVec 6
  cm : BitVec 6
  d : BitVec 9
  a : BitVec 9
  b : BitVec 9
  c : BitVec 9
  fn : BitVec 4
  imm : W32
  deriving DecidableEq, Repr

/-- R26, field by field. -/
def RawWord.ofWord (w : InsnWord) : RawWord where
  op := w.extractLsb' 88 8
  la := w.extractLsb' 84 4
  msk := w.extractLsb' 78 6
  cm := w.extractLsb' 72 6
  d := w.extractLsb' 63 9
  a := w.extractLsb' 54 9
  b := w.extractLsb' 45 9
  c := w.extractLsb' 36 9
  fn := w.extractLsb' 32 4
  imm := w.extractLsb' 0 32

/-- The fields put together, high to low (R26). -/
def RawWord.toWord (r : RawWord) : InsnWord :=
  (r.op ++ r.la ++ r.msk ++ r.cm ++ r.d ++ r.a ++ r.b ++ r.c ++ r.fn ++ r.imm : BitVec 96)

/-! ### Operand codes (R29) -/

/-- The special operands in the order of their codes, from 0x148 with the gap 0x156-0x157. -/
def Special.codes : List (Nat × Special) :=
  [(0x148, .lane), (0x149, .slice), (0x14A, .group), (0x14B, .team), (0x14C, .teamx), (0x14D, .teamy),
   (0x14E, .teamz), (0x14F, .role), (0x150, .core), (0x151, .cluster), (0x152, .die), (0x153, .clock),
   (0x154, .interval), (0x155, .home), (0x158, .pxClu), (0x159, .pxBank), (0x15A, .pxWay), (0x15B, .pxSlot),
   (0x15C, .pxLink), (0x15D, .purse)]

/-- The entry of a code table with this number. -/
def ofCode {α : Type} : List (Nat × α) → Nat → Option α
  | [], _ => none
  | (k, x) :: t, n => if n = k then some x else ofCode t n

/-- The number of an entry in a code table. -/
def codeOf {α : Type} [DecidableEq α] : List (Nat × α) → α → Nat
  | [], _ => 0
  | (k, x) :: t, y => if y = x then k else codeOf t y

/-- R29: a code in no row is none. -/
def Operand.ofBits (x : BitVec 9) : Option Operand :=
  let n := x.toNat
  if n < 0x100 then some (.v (BitVec.ofNat 8 n))
  else if n < 0x140 then some (.s (BitVec.ofNat 6 (n - 0x100)))
  else if n < 0x148 then some (.q (BitVec.ofNat 3 (n - 0x140)))
  else if n = 0x1FE then some .zero
  else if n = 0x1FF then some .imm
  else (ofCode Special.codes n).map .sp

def Operand.toBits : Operand → BitVec 9
  | .v n => BitVec.ofNat 9 n.toNat
  | .s n => BitVec.ofNat 9 (0x100 + n.toNat)
  | .q n => BitVec.ofNat 9 (0x140 + n.toNat)
  | .sp x => BitVec.ofNat 9 (codeOf Special.codes x)
  | .zero => 0x1FE
  | .imm => 0x1FF

/-! ### CM and attributes (R28, R34) -/

def Consumers.ofBits (x : BitVec 6) : Consumers :=
  ⟨x.getLsbD 0, x.getLsbD 1, x.getLsbD 2, x.getLsbD 3, x.getLsbD 4, x.getLsbD 5⟩

def Consumers.toBits (c : Consumers) : BitVec 6 :=
  BitVec.ofBool c.net ++ BitVec.ofBool c.red ++ BitVec.ofBool c.cpq ++ BitVec.ofBool c.mxq ++
    BitVec.ofBool c.queue ++ BitVec.ofBool c.reg

def Scope.codes : List (Nat × Scope) :=
  [(0, .group), (1, .team), (2, .cluster), (3, .die), (4, .device), (5, .pod), (6, .system)]

def Order.codes : List (Nat × Order) := [(0, .relaxed), (1, .acquire), (2, .release), (3, .acqRel)]

def Hint.codes : List (Nat × Hint) := [(0, .normal), (1, .streaming), (2, .keep), (3, .bypass)]

/-- R28: scope 7 is refused. -/
def Attrs.ofBits (x : BitVec 9) : Option Attrs := do
  let scope ← ofCode Scope.codes (x.extractLsb' 6 3).toNat
  let order ← ofCode Order.codes (x.extractLsb' 4 2).toNat
  let hint ← ofCode Hint.codes (x.extractLsb' 2 2).toNat
  return { scope := scope, order := order, hint := hint, spec := x.getLsbD 1, ro := x.getLsbD 0 }

def Attrs.toBits (t : Attrs) : BitVec 9 :=
  BitVec.ofNat 3 (codeOf Scope.codes t.scope) ++ BitVec.ofNat 2 (codeOf Order.codes t.order) ++
    BitVec.ofNat 2 (codeOf Hint.codes t.hint) ++ BitVec.ofBool t.spec ++ BitVec.ofBool t.ro

/-! ### FN codes (R39-R47) -/

def BrcFn.codes : List (Nat × BrcFn) := [(0, .z), (1, .nz), (2, .lt), (3, .ge), (4, .gt), (5, .le)]
def BrsFn.codes : List (Nat × BrsFn) := [(0, .any), (1, .all), (2, .none), (3, .nall)]
def SatFn.codes : List (Nat × SatFn) := [(0, .wrap), (1, .ss), (2, .us)]
def SignFn.codes : List (Nat × SignFn) := [(0, .s), (1, .u)]
def LogicFn.codes : List (Nat × LogicFn) := [(0, .plain), (1, .n)]
def ShlFn.codes : List (Nat × ShlFn) := [(0, .logical), (1, .rot)]
def ShrFn.codes : List (Nat × ShrFn) := [(0, .l), (1, .a)]
def CmpFn.codes : List (Nat × CmpFn) :=
  [(0, .eq), (1, .ne), (2, .lt), (3, .le), (4, .gt), (5, .ge), (6, .ltu), (7, .leu), (8, .gtu), (9, .geu)]
def MovFn.codes : List (Nat × MovFn) := [(0, .plain), (1, .z32), (2, .s32), (3, .hi)]
def PopcFn.codes : List (Nat × PopcFn) := [(0, .full), (1, .w)]
def FfsFn.codes : List (Nat × FfsFn) := [(0, .lo), (1, .hi)]
def MinMaxFn.codes : List (Nat × MinMaxFn) := [(0, .min), (1, .max), (2, .minu), (3, .maxu)]
def BitFn.codes : List (Nat × BitFn) := [(0, .tst), (1, .set), (2, .clr), (3, .inv)]
def AbsFn.codes : List (Nat × AbsFn) := [(0, .wrap), (1, .ss)]
def BfxFn.codes : List (Nat × BfxFn) := [(0, .zx), (1, .sx), (2, .ins)]
def FcmpFn.codes : List (Nat × FcmpFn) :=
  [(0, .eq), (1, .ne), (2, .lt), (3, .le), (4, .gt), (5, .ge), (6, .ord), (7, .uno)]
def BcastFn.codes : List (Nat × BcastFn) := [(0, .s), (1, .lane)]
def ShflFn.codes : List (Nat × ShflFn) := [(0, .idx), (1, .up), (2, .dn), (3, .xor)]
def RedFn.codes : List (Nat × RedFn) :=
  [(0, .add), (1, .fadd), (2, .min), (3, .max), (4, .minu), (5, .maxu), (6, .and), (7, .or), (8, .xor), (9, .fmin),
   (10, .fmax)]
def ExtFn.codes : List (Nat × ExtFn) := [(0, .z), (1, .s)]
def RndFn.codes : List (Nat × RndFn) := [(0, .fmt), (1, .rne), (2, .rtz), (3, .rdn), (4, .rup)]
def NanFn.codes : List (Nat × NanFn) := [(0, .num), (1, .nan)]
def SgnFn.codes : List (Nat × SgnFn) := [(0, .cpy), (1, .neg), (2, .xor)]
def XpFn.codes : List (Nat × XpFn) := [(0, .exp), (1, .man)]
def NumFmt.codes : List (Nat × NumFmt) :=
  [(0, .f32), (1, .bf16), (2, .f16), (3, .e4m3), (4, .e5m2), (5, .i8), (6, .i32), (7, .t2), (8, .bs8e), (9, .bs8i)]
def PackFn.codes : List (Nat × PackFn) := [(1, .bf16), (2, .f16), (3, .e4m3), (4, .e5m2), (5, .i8), (7, .t2)]
def HalfFn.codes : List (Nat × HalfFn) := [(1, .bf16), (2, .f16)]
def Dot4Fn.codes : List (Nat × Dot4Fn) := [(3, .e4m3), (4, .e5m2), (5, .i8), (7, .t2)]
def BsFn.codes : List (Nat × BsFn) := [(8, .bs8e), (9, .bs8i)]
def SetfmtFn.codes : List (Nat × SetfmtFn) := [(0, .reg), (1, .i)]
def GetfmtFn.codes : List (Nat × GetfmtFn) := [(0, .plain), (1, .clr)]
def Width.codes : List (Nat × Width) :=
  [(0, .z8), (1, .s8), (2, .z16), (3, .s16), (4, .b32), (5, .b64), (6, .b128), (7, .s32)]
def PrefFn.codes : List (Nat × PrefFn) := [(0, .l1), (1, .l2), (2, .near)]
def AtomFn.codes : List (Nat × AtomFn) :=
  [(0, .add), (1, .and), (2, .or), (3, .xor), (4, .min), (5, .max), (6, .minu), (7, .maxu), (8, .fadd)]
def SatomFn.codes : List (Nat × SatomFn) :=
  [(0, .add), (1, .and), (2, .or), (3, .xor), (4, .min), (5, .max), (6, .minu), (7, .maxu), (10, .xchg), (11, .cas)]
def GthFn.codes : List (Nat × GthFn) := [(4, .b32), (5, .b64)]
def CollFn.codes : List (Nat × CollFn) :=
  [(0, .sum), (1, .fsum), (2, .fmax), (3, .fmin), (4, .bcast), (5, .gath)]
def NbFn.codes : List (Nat × NbFn) := [(0, .blocking), (1, .nb)]
def MxzeroFn.codes : List (Nat × MxzeroFn) := [(0, .one), (1, .all)]
def MxldFn.codes : List (Nat × MxldFn) := [(0, .a), (1, .b), (2, .acc)]
def MxstFn.codes : List (Nat × MxstFn) := [(0, .f32), (1, .cvt)]
def MxepiFn.codes : List (Nat × MxepiFn) := [(0, .id), (1, .relu), (2, .sb), (3, .clamp)]
def WaitcFn.codes : List (Nat × WaitcFn) := [(0, .mx), (1, .gth), (2, .coll), (3, .net)]
/-- CMAINT: the operation in FN[1:0] and the level in FN[3:2] (R47). -/
def cmaintCodes : List (Nat × (MaintOp × MaintLevel)) :=
  [(1, (.cln, .core)), (2, (.inv, .core)), (3, (.ci, .core)), (5, (.cln, .die)), (6, (.inv, .die)), (7, (.ci, .die)),
   (9, (.cln, .poc)), (10, (.inv, .poc)), (11, (.ci, .poc))]
def MwaitFn.codes : List (Nat × MwaitFn) := [(0, .ne), (1, .eq)]
def MktClass.codes : List (Nat × MktClass) := [(0, .clu), (1, .bank), (2, .way), (3, .slot), (4, .link)]
def CtlwFn.codes : List (Nat × CtlwFn) := [(0, .write), (1, .set), (2, .clr)]

/-! ### The opcode map (R37-R47) -/

/-- The format of each listed OP; none for the 123 values of R37 that are outside the map. -/
def fmtOf (op : Nat) : Option Fmt :=
  if op = 0x00 then some .V
  else if op = 0x04 ∨ op = 0x05 ∨ op = 0x0A ∨ op = 0x0B then some .S
  else if op ≤ 0x09 then some .B
  else if 0x10 ≤ op ∧ op ≤ 0x37 then some .V
  else if 0x40 ≤ op ∧ op ≤ 0x55 then some .V
  else if op = 0x56 ∨ op = 0x57 then some .E
  else if op = 0x58 ∨ op = 0x59 then some .V
  else if 0x60 ≤ op ∧ op ≤ 0x66 then some .M
  else if 0x70 ≤ op ∧ op ≤ 0x74 then some .M
  else if 0x80 ≤ op ∧ op ≤ 0x88 then some .E
  else if 0x90 ≤ op ∧ op ≤ 0x96 then some .E
  else if 0xA0 ≤ op ∧ op ≤ 0xA6 then some .S
  else if 0xB0 ≤ op ∧ op ≤ 0xB2 then some .S
  else if 0xC0 ≤ op ∧ op ≤ 0xC5 then some .S
  else if 0xD0 ≤ op ∧ op ≤ 0xD3 then some .S
  else if 0xE0 ≤ op ∧ op ≤ 0xE6 then some .S
  else none

/-- A form with the one FN value 0. -/
def only0 (fn : Nat) (i : Instr) : Option Instr := if fn = 0 then some i else none

/-- The instruction of a word of format B; none where FN is not listed. -/
def buildB (op fn : Nat) (x : BArgs) : Option Instr :=
  match op with
  | 0x01 => only0 fn (.bra x)
  | 0x02 => (ofCode BrcFn.codes fn).map (.brc · x)
  | 0x03 => (ofCode BrsFn.codes fn).map (.brs · x)
  | 0x06 => only0 fn (.call x)
  | 0x07 => only0 fn (.ret x)
  | 0x08 => only0 fn (.jmpi x)
  | 0x09 => only0 fn (.djnz x)
  | _ => none

/-- The instruction of a word of format M; none where FN is not listed. -/
def buildM (op fn : Nat) (x : MArgs) : Option Instr :=
  match op with
  | 0x60 => (ofCode Width.codes fn).map (.ld · x)
  | 0x61 => (ofCode Width.codes fn).map (.st · x)
  | 0x62 => (ofCode Width.codes fn).map (.ldu · x)
  | 0x63 => (ofCode Width.codes fn).map (.lds · x)
  | 0x64 => (ofCode Width.codes fn).map (.sts · x)
  | 0x65 => (ofCode PrefFn.codes fn).map (.pref · x)
  | 0x66 => only0 fn (.lea x)
  | 0x70 => (ofCode AtomFn.codes fn).map (.atom · x)
  | 0x71 => only0 fn (.xchg x)
  | 0x72 => only0 fn (.cas x)
  | 0x73 => (ofCode AtomFn.codes fn).map (.red · x)
  | 0x74 => (ofCode SatomFn.codes fn).map (.satom · x)
  | _ => none

/-- The instruction of a word of format V with OP 0x10 to 0x37 (R40, R41). -/
def buildV (op fn : Nat) (x : Args) : Option Instr :=
  match op with
  | 0x10 => (ofCode SatFn.codes fn).map (.sadd · x)
  | 0x11 => (ofCode SatFn.codes fn).map (.ssub · x)
  | 0x12 => only0 fn (.smul x)
  | 0x13 => (ofCode SignFn.codes fn).map (.smulh · x)
  | 0x14 => (ofCode LogicFn.codes fn).map (.sand · x)
  | 0x15 => (ofCode LogicFn.codes fn).map (.sor · x)
  | 0x16 => (ofCode LogicFn.codes fn).map (.sxor · x)
  | 0x17 => (ofCode ShlFn.codes fn).map (.sshl · x)
  | 0x18 => (ofCode ShrFn.codes fn).map (.sshr · x)
  | 0x19 => (ofCode CmpFn.codes fn).map (.scmp · x)
  | 0x1A => only0 fn (.ssel x)
  | 0x1B => (ofCode MovFn.codes fn).map (.smov · x)
  | 0x1C => (ofCode PopcFn.codes fn).map (.spopc · x)
  | 0x1D => (ofCode FfsFn.codes fn).map (.sffs · x)
  | 0x1E => (ofCode MinMaxFn.codes fn).map (.sminmax · x)
  | 0x1F => (ofCode BitFn.codes fn).map (.sbit · x)
  | 0x20 => (ofCode SatFn.codes fn).map (.vadd · x)
  | 0x21 => (ofCode SatFn.codes fn).map (.vsub · x)
  | 0x22 => only0 fn (.vmul x)
  | 0x23 => (ofCode SignFn.codes fn).map (.vmulh · x)
  | 0x24 => only0 fn (.vmad x)
  | 0x25 => (ofCode LogicFn.codes fn).map (.vand · x)
  | 0x26 => (ofCode LogicFn.codes fn).map (.vor · x)
  | 0x27 => (ofCode LogicFn.codes fn).map (.vxor · x)
  | 0x28 => (ofCode ShlFn.codes fn).map (.vshl · x)
  | 0x29 => (ofCode ShrFn.codes fn).map (.vshr · x)
  | 0x2A => (ofCode SignFn.codes fn).map (.vmin · x)
  | 0x2B => (ofCode SignFn.codes fn).map (.vmax · x)
  | 0x2C => (ofCode AbsFn.codes fn).map (.vabs · x)
  | 0x2D => only0 fn (.vclz x)
  | 0x2E => only0 fn (.vpopc x)
  | 0x2F => (ofCode BfxFn.codes fn).map (.vbfx · x)
  | 0x30 => only0 fn (.vmov x)
  | 0x31 => (ofCode CmpFn.codes fn).map (.vcmp · x)
  | 0x32 => (ofCode FcmpFn.codes fn).map (.vfcmp · x)
  | 0x33 => only0 fn (.vsel x)
  | 0x34 => (ofCode BcastFn.codes fn).map (.vbcast · x)
  | 0x35 => (ofCode ShflFn.codes fn).map (.vshfl · x)
  | 0x36 => (ofCode RedFn.codes fn).map (.vred · x)
  | 0x37 => (ofCode ExtFn.codes fn).map (.vext · x)
  | _ => none

/-- The instruction of a word of format V or E with OP 0x40 to 0x59 (R42, R43). -/
def buildF (op fn : Nat) (x : Args) : Option Instr :=
  match op with
  | 0x40 => (ofCode RndFn.codes fn).map (.vfadd · x)
  | 0x41 => (ofCode RndFn.codes fn).map (.vfsub · x)
  | 0x42 => (ofCode RndFn.codes fn).map (.vfmul · x)
  | 0x43 => (ofCode RndFn.codes fn).map (.vfma · x)
  | 0x44 => (ofCode RndFn.codes fn).map (.vfnma · x)
  | 0x45 => (ofCode NanFn.codes fn).map (.vfmin · x)
  | 0x46 => (ofCode NanFn.codes fn).map (.vfmax · x)
  | 0x47 => (ofCode SgnFn.codes fn).map (.vfsgn · x)
  | 0x48 => only0 fn (.vfrsqe x)
  | 0x49 => only0 fn (.vfrcpe x)
  | 0x4A => only0 fn (.vfex2e x)
  | 0x4B => only0 fn (.vflg2e x)
  | 0x4C => (ofCode RndFn.codes fn).map (.vfscl · x)
  | 0x4D => (ofCode XpFn.codes fn).map (.vfxp · x)
  | 0x4E => only0 fn (.vfcls x)
  | 0x4F => (ofCode RndFn.codes fn).map (.vfrnd · x)
  | 0x50 => (ofCode NumFmt.codes fn).map (.vcvt · x)
  | 0x51 => (ofCode PackFn.codes fn).map (.vpack · x)
  | 0x52 => (ofCode PackFn.codes fn).map (.vunpk · x)
  | 0x53 => (ofCode HalfFn.codes fn).map (.vhfma · x)
  | 0x54 => (ofCode Dot4Fn.codes fn).map (.vdot4 · x)
  | 0x55 => only0 fn (.vtsel x)
  | 0x56 => (ofCode BsFn.codes fn).map (.qscale · x)
  | 0x57 => (ofCode BsFn.codes fn).map (.qcvt · x)
  | 0x58 => (ofCode SetfmtFn.codes fn).map (.setfmt · x)
  | 0x59 => (ofCode GetfmtFn.codes fn).map (.getfmt · x)
  | _ => none

/-- The instruction of a word of format E with OP 0x80 to 0x96 (R46). -/
def buildE (op fn : Nat) (x : Args) : Option Instr :=
  match op with
  | 0x80 => only0 fn (.cpy x)
  | 0x81 => only0 fn (.cpy2d x)
  | 0x82 => only0 fn (.batch x)
  | 0x83 => if fn = 0 then some (.waitb x) else if fn = 1 then some (.waitbTest x) else none
  | 0x84 => (ofCode GthFn.codes fn).map (.gth · x)
  | 0x85 => (ofCode GthFn.codes fn).map (.sct · x)
  | 0x86 => (ofCode CollFn.codes fn).map (.coll · x)
  | 0x87 => (ofCode NbFn.codes fn).map (.rpush · x)
  | 0x88 => (ofCode NbFn.codes fn).map (.rpop · x)
  | 0x90 => only0 fn (.mxloop x)
  | 0x91 => only0 fn (.mxstep x)
  | 0x92 => (ofCode MxzeroFn.codes fn).map (.mxzero · x)
  | 0x93 => (ofCode MxldFn.codes fn).map (.mxld · x)
  | 0x94 => (ofCode MxstFn.codes fn).map (.mxst · x)
  | 0x95 => if fn = 0 then some (.mxprogRd x) else if fn = 1 then some (.mxprogWr x) else none
  | 0x96 => (ofCode MxepiFn.codes fn).map (.mxepi · x)
  | _ => none

/-- The instruction of a word of format S (R39, R47). -/
def buildS (op fn : Nat) (x : Args) : Option Instr :=
  match op with
  | 0x04 => only0 fn (.regang x)
  | 0x05 => only0 fn (.mskip x)
  | 0x0A => only0 fn (.exit x)
  | 0x0B => only0 fn (.yield x)
  | 0xA0 => (ofCode Scope.codes fn).map (.fence · x)
  | 0xA1 => only0 fn (.bar x)
  | 0xA2 => only0 fn (.bara x)
  | 0xA3 => only0 fn (.barw x)
  | 0xA4 => (ofCode WaitcFn.codes fn).map (.waitc · x)
  | 0xA5 => (ofCode cmaintCodes fn).map (fun p => .cmaint p.1 p.2 x)
  | 0xA6 => (ofCode MwaitFn.codes fn).map (.mwait · x)
  | 0xB0 => (ofCode NbFn.codes fn).map (.enq · x)
  | 0xB1 => only0 fn (.trig x)
  | 0xB2 => (ofCode NbFn.codes fn).map (.join · x)
  | 0xC0 => (ofCode NbFn.codes fn).map (.grow · x)
  | 0xC1 => only0 fn (.shrink x)
  | 0xC2 => only0 fn (.tryOpen x)
  | 0xC3 => only0 fn (.commit x)
  | 0xC4 => only0 fn (.abort x)
  | 0xC5 => if fn = 0 then some (.qctlCnt x) else if fn = 1 then some (.qctlRst x) else none
  | 0xD0 => (ofCode MktClass.codes fn).map (.bid · x)
  | 0xD1 => (ofCode MktClass.codes fn).map (.bidrd · x)
  | 0xD2 => (ofCode MktClass.codes fn).map (.lease · x)
  | 0xD3 => if fn = 0 then some (.mighintOff x) else if fn = 1 then some (.mighintOn x) else none
  | 0xE0 => only0 fn (.trap x)
  | 0xE1 => if fn = 0 then some (.idemOn x) else if fn = 1 then some (.idemOff x) else none
  | 0xE2 => only0 fn (.hret x)
  | 0xE3 => only0 fn (.ctlr x)
  | 0xE4 => (ofCode CtlwFn.codes fn).map (.ctlw · x)
  | 0xE5 => only0 fn (.bkpt x)
  | 0xE6 => only0 fn (.svc x)
  | _ => none

/-- The instruction of a word whose fields are `x`, outside formats M and B. -/
def buildArgs (op fn : Nat) (x : Args) : Option Instr :=
  if op < 0x10 then buildS op fn x
  else if op < 0x40 then buildV op fn x
  else if op < 0x60 then buildF op fn x
  else if op < 0xA0 then buildE op fn x
  else buildS op fn x

/-! ### Decoding (R36) -/

/-- Why a word is refused, in the order of R36. -/
inductive DecodeError where
  | unlistedOp        -- OP outside the map: cause 0x01 (R37)
  | unlistedOperand   -- an unlisted code in an operand-code field: cause 0x01 (R476)
  | badForm           -- FN, LA, MSK, unused fields, attributes, slot, CM or operand kinds: cause 0x02
  deriving DecidableEq, Repr

/-- The cause code of each refusal (R36). -/
def DecodeError.cause : DecodeError → Nat
  | .unlistedOp => 0x01
  | .unlistedOperand => 0x01
  | .badForm => 0x02

/-- An instruction that passes the static checks, else cause 0x02. -/
def checked (i : Option Instr) : Except DecodeError Instr :=
  match i with
  | none => .error .badForm
  | some i => if i.wf then .ok i else .error .badForm

/-- Formats V, E and S: every operand-code field is looked at before FN (R36, R476). -/
def decodeArgs (r : RawWord) : Except DecodeError Instr :=
  match Operand.ofBits r.d, Operand.ofBits r.a, Operand.ofBits r.b, Operand.ofBits r.c with
  | some d, some a, some b, some c =>
    if r.op = 0 then
      if r = ⟨0, 0, 0, 0, 0, 0, 0, 0, 0, 0⟩ then .ok .nop else .error .badForm
    else
      checked (buildArgs r.op.toNat r.fn.toNat
        { la := r.la, msk := r.msk, cm := Consumers.ofBits r.cm, d := d, a := a, b := b, c := c, imm := r.imm })
  | _, _, _, _ => .error .unlistedOperand

/-- Format M: C holds the attributes (R28). -/
def decodeMem (r : RawWord) : Except DecodeError Instr :=
  match Operand.ofBits r.d, Operand.ofBits r.a, Operand.ofBits r.b with
  | some d, some a, some b =>
    match Attrs.ofBits r.c with
    | none => .error .badForm
    | some t =>
      checked (buildM r.op.toNat r.fn.toNat
        { la := r.la, msk := r.msk, cm := Consumers.ofBits r.cm, d := d, a := a, b := b, attrs := t, off := r.imm })
  | _, _, _ => .error .unlistedOperand

/-- Format B: LA, MSK, CM, B and C are unused in every form (R27, R476). -/
def decodeBranch (r : RawWord) : Except DecodeError Instr :=
  match Operand.ofBits r.d, Operand.ofBits r.a with
  | some d, some a =>
    if r.la = 0 ∧ r.msk = 0 ∧ r.cm = 0 ∧ r.b = 0 ∧ r.c = 0 then
      checked (buildB r.op.toNat r.fn.toNat
        { d := d, a := a, lineOff := r.imm.extractLsb' 3 29, slot := r.imm.extractLsb' 0 3 })
    else .error .badForm
  | _, _ => .error .unlistedOperand

/-- The instruction of a 96-bit word, total on every word (R36). The checks of R36 that need the group or the line
(0x03, 0x05, 0x06, 0x0E) are the fetch's. -/
def decode (w : InsnWord) : Except DecodeError Instr :=
  let r := RawWord.ofWord w
  match fmtOf r.op.toNat with
  | none => .error .unlistedOp
  | some .M => decodeMem r
  | some .B => decodeBranch r
  | some _ => decodeArgs r

/-! ### Encoding -/

/-- OP and FN of each instruction form; events have none. -/
def Instr.opFn : Instr → Option (Nat × Nat)
  | .nop => some (0x00, 0)
  | .bra _ => some (0x01, 0)
  | .brc fn _ => some (0x02, codeOf BrcFn.codes fn)
  | .brs fn _ => some (0x03, codeOf BrsFn.codes fn)
  | .regang _ => some (0x04, 0)
  | .mskip _ => some (0x05, 0)
  | .call _ => some (0x06, 0)
  | .ret _ => some (0x07, 0)
  | .jmpi _ => some (0x08, 0)
  | .djnz _ => some (0x09, 0)
  | .exit _ => some (0x0A, 0)
  | .yield _ => some (0x0B, 0)
  | .sadd fn _ => some (0x10, codeOf SatFn.codes fn)
  | .ssub fn _ => some (0x11, codeOf SatFn.codes fn)
  | .smul _ => some (0x12, 0)
  | .smulh fn _ => some (0x13, codeOf SignFn.codes fn)
  | .sand fn _ => some (0x14, codeOf LogicFn.codes fn)
  | .sor fn _ => some (0x15, codeOf LogicFn.codes fn)
  | .sxor fn _ => some (0x16, codeOf LogicFn.codes fn)
  | .sshl fn _ => some (0x17, codeOf ShlFn.codes fn)
  | .sshr fn _ => some (0x18, codeOf ShrFn.codes fn)
  | .scmp fn _ => some (0x19, codeOf CmpFn.codes fn)
  | .ssel _ => some (0x1A, 0)
  | .smov fn _ => some (0x1B, codeOf MovFn.codes fn)
  | .spopc fn _ => some (0x1C, codeOf PopcFn.codes fn)
  | .sffs fn _ => some (0x1D, codeOf FfsFn.codes fn)
  | .sminmax fn _ => some (0x1E, codeOf MinMaxFn.codes fn)
  | .sbit fn _ => some (0x1F, codeOf BitFn.codes fn)
  | .vadd fn _ => some (0x20, codeOf SatFn.codes fn)
  | .vsub fn _ => some (0x21, codeOf SatFn.codes fn)
  | .vmul _ => some (0x22, 0)
  | .vmulh fn _ => some (0x23, codeOf SignFn.codes fn)
  | .vmad _ => some (0x24, 0)
  | .vand fn _ => some (0x25, codeOf LogicFn.codes fn)
  | .vor fn _ => some (0x26, codeOf LogicFn.codes fn)
  | .vxor fn _ => some (0x27, codeOf LogicFn.codes fn)
  | .vshl fn _ => some (0x28, codeOf ShlFn.codes fn)
  | .vshr fn _ => some (0x29, codeOf ShrFn.codes fn)
  | .vmin fn _ => some (0x2A, codeOf SignFn.codes fn)
  | .vmax fn _ => some (0x2B, codeOf SignFn.codes fn)
  | .vabs fn _ => some (0x2C, codeOf AbsFn.codes fn)
  | .vclz _ => some (0x2D, 0)
  | .vpopc _ => some (0x2E, 0)
  | .vbfx fn _ => some (0x2F, codeOf BfxFn.codes fn)
  | .vmov _ => some (0x30, 0)
  | .vcmp fn _ => some (0x31, codeOf CmpFn.codes fn)
  | .vfcmp fn _ => some (0x32, codeOf FcmpFn.codes fn)
  | .vsel _ => some (0x33, 0)
  | .vbcast fn _ => some (0x34, codeOf BcastFn.codes fn)
  | .vshfl fn _ => some (0x35, codeOf ShflFn.codes fn)
  | .vred fn _ => some (0x36, codeOf RedFn.codes fn)
  | .vext fn _ => some (0x37, codeOf ExtFn.codes fn)
  | .vfadd fn _ => some (0x40, codeOf RndFn.codes fn)
  | .vfsub fn _ => some (0x41, codeOf RndFn.codes fn)
  | .vfmul fn _ => some (0x42, codeOf RndFn.codes fn)
  | .vfma fn _ => some (0x43, codeOf RndFn.codes fn)
  | .vfnma fn _ => some (0x44, codeOf RndFn.codes fn)
  | .vfmin fn _ => some (0x45, codeOf NanFn.codes fn)
  | .vfmax fn _ => some (0x46, codeOf NanFn.codes fn)
  | .vfsgn fn _ => some (0x47, codeOf SgnFn.codes fn)
  | .vfrsqe _ => some (0x48, 0)
  | .vfrcpe _ => some (0x49, 0)
  | .vfex2e _ => some (0x4A, 0)
  | .vflg2e _ => some (0x4B, 0)
  | .vfscl fn _ => some (0x4C, codeOf RndFn.codes fn)
  | .vfxp fn _ => some (0x4D, codeOf XpFn.codes fn)
  | .vfcls _ => some (0x4E, 0)
  | .vfrnd fn _ => some (0x4F, codeOf RndFn.codes fn)
  | .vcvt fn _ => some (0x50, codeOf NumFmt.codes fn)
  | .vpack fn _ => some (0x51, codeOf PackFn.codes fn)
  | .vunpk fn _ => some (0x52, codeOf PackFn.codes fn)
  | .vhfma fn _ => some (0x53, codeOf HalfFn.codes fn)
  | .vdot4 fn _ => some (0x54, codeOf Dot4Fn.codes fn)
  | .vtsel _ => some (0x55, 0)
  | .qscale fn _ => some (0x56, codeOf BsFn.codes fn)
  | .qcvt fn _ => some (0x57, codeOf BsFn.codes fn)
  | .setfmt fn _ => some (0x58, codeOf SetfmtFn.codes fn)
  | .getfmt fn _ => some (0x59, codeOf GetfmtFn.codes fn)
  | .ld w _ => some (0x60, codeOf Width.codes w)
  | .st w _ => some (0x61, codeOf Width.codes w)
  | .ldu w _ => some (0x62, codeOf Width.codes w)
  | .lds w _ => some (0x63, codeOf Width.codes w)
  | .sts w _ => some (0x64, codeOf Width.codes w)
  | .pref fn _ => some (0x65, codeOf PrefFn.codes fn)
  | .lea _ => some (0x66, 0)
  | .atom fn _ => some (0x70, codeOf AtomFn.codes fn)
  | .xchg _ => some (0x71, 0)
  | .cas _ => some (0x72, 0)
  | .red fn _ => some (0x73, codeOf AtomFn.codes fn)
  | .satom fn _ => some (0x74, codeOf SatomFn.codes fn)
  | .cpy _ => some (0x80, 0)
  | .cpy2d _ => some (0x81, 0)
  | .batch _ => some (0x82, 0)
  | .waitb _ => some (0x83, 0)
  | .waitbTest _ => some (0x83, 1)
  | .gth fn _ => some (0x84, codeOf GthFn.codes fn)
  | .sct fn _ => some (0x85, codeOf GthFn.codes fn)
  | .coll fn _ => some (0x86, codeOf CollFn.codes fn)
  | .rpush fn _ => some (0x87, codeOf NbFn.codes fn)
  | .rpop fn _ => some (0x88, codeOf NbFn.codes fn)
  | .mxloop _ => some (0x90, 0)
  | .mxstep _ => some (0x91, 0)
  | .mxzero fn _ => some (0x92, codeOf MxzeroFn.codes fn)
  | .mxld fn _ => some (0x93, codeOf MxldFn.codes fn)
  | .mxst fn _ => some (0x94, codeOf MxstFn.codes fn)
  | .mxprogRd _ => some (0x95, 0)
  | .mxprogWr _ => some (0x95, 1)
  | .mxepi fn _ => some (0x96, codeOf MxepiFn.codes fn)
  | .fence fn _ => some (0xA0, codeOf Scope.codes fn)
  | .bar _ => some (0xA1, 0)
  | .bara _ => some (0xA2, 0)
  | .barw _ => some (0xA3, 0)
  | .waitc fn _ => some (0xA4, codeOf WaitcFn.codes fn)
  | .cmaint op lvl _ => some (0xA5, codeOf cmaintCodes (op, lvl))
  | .mwait fn _ => some (0xA6, codeOf MwaitFn.codes fn)
  | .enq fn _ => some (0xB0, codeOf NbFn.codes fn)
  | .trig _ => some (0xB1, 0)
  | .join fn _ => some (0xB2, codeOf NbFn.codes fn)
  | .grow fn _ => some (0xC0, codeOf NbFn.codes fn)
  | .shrink _ => some (0xC1, 0)
  | .tryOpen _ => some (0xC2, 0)
  | .commit _ => some (0xC3, 0)
  | .abort _ => some (0xC4, 0)
  | .qctlCnt _ => some (0xC5, 0)
  | .qctlRst _ => some (0xC5, 1)
  | .bid c _ => some (0xD0, codeOf MktClass.codes c)
  | .bidrd c _ => some (0xD1, codeOf MktClass.codes c)
  | .lease c _ => some (0xD2, codeOf MktClass.codes c)
  | .mighintOff _ => some (0xD3, 0)
  | .mighintOn _ => some (0xD3, 1)
  | .trap _ => some (0xE0, 0)
  | .idemOn _ => some (0xE1, 0)
  | .idemOff _ => some (0xE1, 1)
  | .hret _ => some (0xE2, 0)
  | .ctlr _ => some (0xE3, 0)
  | .ctlw fn _ => some (0xE4, codeOf CtlwFn.codes fn)
  | .bkpt _ => some (0xE5, 0)
  | .svc _ => some (0xE6, 0)
  | _ => none

/-- The raw fields of a form's operands. -/
def Payload.raw (op fn : Nat) : Payload → RawWord
  | .zero => ⟨0, 0, 0, 0, 0, 0, 0, 0, 0, 0⟩
  | .v x =>
    { op := BitVec.ofNat 8 op, la := x.la, msk := x.msk, cm := x.cm.toBits, d := x.d.toBits, a := x.a.toBits,
      b := x.b.toBits, c := x.c.toBits, fn := BitVec.ofNat 4 fn, imm := x.imm }
  | .m x =>
    { op := BitVec.ofNat 8 op, la := x.la, msk := x.msk, cm := x.cm.toBits, d := x.d.toBits, a := x.a.toBits,
      b := x.b.toBits, c := x.attrs.toBits, fn := BitVec.ofNat 4 fn, imm := x.off }
  | .b x =>
    { op := BitVec.ofNat 8 op, la := 0, msk := 0, cm := 0, d := x.d.toBits, a := x.a.toBits, b := 0, c := 0,
      fn := BitVec.ofNat 4 fn, imm := x.lineOff ++ x.slot }

/-- The word of a well-formed instruction (R26-R47); 0 for an event, which has none. -/
def encode (i : Instr) : InsnWord :=
  match i.opFn, i.payload with
  | some (op, fn), some p => (p.raw op fn).toWord
  | _, _ => 0

/-! ### Lines (R19-R25) -/

/-- A little-endian number (R12). -/
def leNat : List Byte → Nat
  | [] => 0
  | b :: t => b.toNat + 256 * leNat t

/-- The n low bytes of a number, least significant first (R12). -/
def leBytes : Nat → Nat → List Byte
  | 0, _ => []
  | n + 1, x => BitVec.ofNat 8 x :: leBytes n (x / 256)

/-- One step of R22's CRC-16: shift, and fold in the polynomial where the top bit was 1. -/
def crcStep (c : BitVec 16) : BitVec 16 := if c.msb then (c <<< 1) ^^^ 0x1021 else c <<< 1

def crcSteps : Nat → BitVec 16 → BitVec 16
  | 0, c => c
  | n + 1, c => crcSteps n (crcStep c)

/-- R22's CRC-16 over a byte string. -/
def crc16 (bytes : List Byte) : BitVec 16 :=
  bytes.foldl (fun c b => crcSteps 8 (c ^^^ ((BitVec.setWidth 16 b) <<< (8 : Nat)))) (0xFFFF : BitVec 16)

/-- The line word's fields (R21). -/
structure LineWord where
  check : BitVec 16
  reserved : BitVec 8
  pair : BitVec 3
  target : BitVec 5
  deriving DecidableEq, Repr

def LineWord.ofBits (x : W32) : LineWord :=
  ⟨x.extractLsb' 16 16, x.extractLsb' 8 8, x.extractLsb' 5 3, x.extractLsb' 0 5⟩

def LineWord.toBits (x : LineWord) : W32 := x.check ++ x.reserved ++ x.pair ++ x.target

/-- The 96-bit word of slot k of a line of 64 bytes (R19). -/
def lineSlot (line : List Byte) (k : Nat) : InsnWord := BitVec.ofNat 96 (leNat ((line.drop (12 * k)).take 12))

/-- The line word of a line of 64 bytes (R19). -/
def lineWord (line : List Byte) : LineWord := LineWord.ofBits (BitVec.ofNat 32 (leNat ((line.drop 60).take 4)))

/-- R22: CHECK equals the CRC over bytes 0 to 59. -/
def lineCheckOk (line : List Byte) : Bool := (lineWord line).check == crc16 (line.take 60)

/-- The 64 bytes of a line with these five words, pairing and targets, and the CHECK that R22 asks for. -/
def lineBytes (words : List InsnWord) (pair : BitVec 3) (target : BitVec 5) : List Byte :=
  let body := (words.map (fun w => leBytes 12 w.toNat)).flatten
  body ++ leBytes 4 (LineWord.toBits ⟨crc16 body, 0, pair, target⟩).toNat

/-- The first slots of the pairs of each template (R25). -/
def pairFirsts (p : BitVec 3) : List Nat :=
  match p.toNat with
  | 1 => [0]
  | 2 => [1]
  | 3 => [2]
  | 4 => [3]
  | 5 => [0, 2]
  | 6 => [0, 3]
  | 7 => [1, 3]
  | _ => []

/-- The host's question: the instruction that the decoder reads from the word w. The word is laid out as R19 stores it and
read back. -/
def decodeTableWord (_nbits w : Nat) : Option Instr := (decode (BitVec.ofNat 96 (leNat (leBytes 12 w)))).toOption

end Sys2Proof
end

