-- ==== Sys2Proof/Machine/State.lean ====
section
/-! DEFINITION. The state of one package as plain data: the device, its memories, its contexts, tasks, teams, groups and
fragments, its cores, clusters, halves and dies, its queues and market, its management function, and what the model
itself keeps to say what happens next (spec/00 to spec/26; INVENTORY.md lists every field with its rule). -/

namespace Sys2Proof.Machine

open Sys2Proof

/-- A finite map with numbers as keys. -/
abbrev Table (α : Type) : Type := List (Nat × α)

/-- Memory: listed bytes, addresses rising, no listed byte equal to what an unlisted address reads as. -/
abbrev Mem : Type := List Host.Cell

/-- One vector register: 32 lanes (R149, R162). -/
abbrev Row : Type := List W32

/-- Why the machine stops. -/
inductive Fault where
  /-- Raised by `exec` where an instruction form is run while no fragment has been chosen to issue it. `step` never does
  so. Safe: the hardware runs no instruction without a fragment. -/
  | noIssuer
  deriving DecidableEq, Repr

/-- Why an instruction has no meaning. -/
inductive Refusal where
  /-- Raised by `exec` where an instruction has no meaning yet, by its mnemonic. Safe. -/
  | notModelled (mnemonic : String)
  deriving DecidableEq, Repr

/-! ### Code -/

/-- A PC: a line address and a slot from 0 to 4 (R20). -/
structure Pc where
  line : W64
  slot : Nat
  deriving DecidableEq, Repr

/-! ### Fragments (R186, R187, R216, R217) -/

/-- A record of a fragment's stack. -/
inductive Rec where
  /-- A fork record: its number in the group, and saved_fmt (R186). -/
  | fork (id : Nat) (saved : W32)
  /-- A park entry: its number, saved_fmt, the parked slices, their resume PC, the slices that wait at the bound REGANG,
  and whether the parked slices have run (R187, R190). -/
  | park (id : Nat) (saved : W32) (parked : BitVec 8) (resume : Pc) (waiting : BitVec 8) (ran : Bool)
  deriving DecidableEq, Repr

/-- A launch record, validated (R62, R278). -/
structure Launch where
  entry : W64
  gridX : Nat
  gridY : Nat
  gridZ : Nat
  ncomp : Nat
  nacc : Nat
  spread : Nat
  vregc : Nat
  vrega : Nat
  csram : Nat
  banks : Nat
  prio : Nat
  idem : Bool
  hint : Nat
  done : W64
  deps : List (W64 × W64)
  reads : List (W64 × W64)          -- base and length (R63)
  writes : List (W64 × W64)
  deriving DecidableEq, Repr

/-- What a waiting fragment waits for (R217). -/
inductive Wait where
  | hold                               -- an operand pending or a full lookahead window (R33, R66): held, not waiting
  | queue                              -- a pop or push of the queue window (R166)
  | join (id : Nat)                    -- at REGANG, for the other holders of a fork record (R189)
  | park                               -- at REGANG, for the parked slices (R190)
  | bar (id phase : Nat)               -- at BAR, for the phase of its arrival (R197)
  | barw (id phase : Nat)              -- at BARW (R197)
  | waitc (cls : WaitcFn) (thr : Nat)  -- (R199)
  | mwait (fn : MwaitFn) (a : W64) (b imm : W32) (until_ : Option W64)  -- (R202): until_ is the end of the timeout
  | grow (n : Nat)                     -- blocking GROW, for n blocks (R203)
  | area (n : Nat)                     -- TRY, for the n blocks of its checkpoint area (R392)
  | fence                              -- earlier accesses or instructions still to be performed (R135, R184, R407)
  | batch (n : Option (BitVec 16))     -- WAITB of a batch, or a BATCH at the window's limit (R243)
  | engine (cls : WaitcFn)             -- a class of operations, or the matrix queue, at its limit (R253, R320)
  | third (level byte rank : Nat)      -- COLL, for a generation of its record that its rank may join or open (R262)
  | ring                               -- RPUSH or RPOP (R265, R266)
  | enq (l : Launch)                   -- blocking ENQ at a full pending-launch queue, with its validated record (R267)
  | counter (a target : W64)           -- JOIN (R270)
  | exit                               -- the group's last EXIT (R79, R80)
  | access (op : Nat)                  -- a held access of the fragment (R134)
  | svc                                -- SVC, for the firmware's reply (R410)
  | trig                               -- TRIG (R269)
  | fetch (gva : W64)                  -- an instruction fetch without a translation: the address wanted (R447)
  | trapQueue                          -- a unit with no free trap-queue entry (R450)
  deriving DecidableEq, Repr

/-- The state of a fragment (R217). -/
inductive Status where
  | ready
  | waiting (w : Wait)
  | yielding (until_ : W64) (others : List (Nat × Nat))
  deriving DecidableEq, Repr

/-- A fragment (R216). -/
structure Frag where
  id : Nat
  slices : BitVec 8
  pc : Pc
  fmt : W32
  stack : List Rec
  dormant : List (Nat × Pc)        -- slice and its block end (R192)
  age : Nat
  status : Status
  byTransfer : Bool                -- the PC was reached by a transfer that R24 checks
  crcTries : Nat                   -- successive restarts of the line at this PC (R22)
  landTries : Nat                  -- successive restarts of the line that the transfer at this PC names (R22, R75)
  retiredHere : Nat                -- instructions issued, to end a YIELD (R81)
  waitFrom : Option W64            -- when it began to wait at its PC (R167)
  begun : Bool                     -- the instruction at its PC has issued, and waits or is looked at again (R66, R183)
  pend : Option Instr := none      -- the instruction that waits so, while `begun` (R66)
  afterJoin : Bool                 -- no access of it has been performed since its paths joined (R191)
  deriving DecidableEq, Repr

/-! ### Translations (R446) -/

/-- A cached translation (R446): context, page base, bytes, frame, permissions X W R. -/
structure TlbEntry where
  ctx : Nat
  base : Nat
  size : Nat
  frame : Nat
  x : Bool
  w : Bool
  r : Bool
  deriving DecidableEq, Repr

/-! ### Memory accesses in flight (R134-R138) -/

/-- One lane's access: lane, generic address, data register by register, expected value of a CAS. -/
structure LaneAccess where
  lane : Nat
  addr : W64
  data : List W32
  expect : W64
  deriving DecidableEq, Repr

/-- Where a logged instruction stands (R134, R137). -/
inductive OpStage where | issued | held | sideLogged deriving DecidableEq, Repr

/-- CR.CPQ, CR.RED and CR.NET (R257-R259). -/
structure EngineRegs where
  cpq : W64
  red : W64
  net : W64
  deriving DecidableEq, Repr

/-- An entry of an operand log or side log (R134, R137). -/
structure MemOp where
  id : Nat
  gid : Nat
  fid : Nat
  core : Nat
  pc : Pc
  instr : Instr
  left : Nat                        -- younger instructions that may still issue (R33)
  younger : Nat                     -- younger instructions that have issued
  lanes : List LaneAccess
  act : W32                         -- the active lanes
  stage : OpStage
  whole : Bool                      -- no younger instruction may issue: the instruction restarts whole
  waits : Bool                      -- its fragment waits at it, and goes on when it is performed (R134)
  joined : Bool                     -- issued on a path that has joined: later accesses come after it (R191)
  hm : Bool                         -- issued by a handler (R439)
  seq : Nat                         -- its place among its group's entries of the side log (R135)
  first : Bool                      -- a saved side-log entry, replayed before its group issues again (R138)
  pins : List TlbEntry              -- the translations that a published store uses (R432)
  owe : Option (EngineRegs × EngineRegs)  -- CR.CPQ, CR.RED and CR.NET as a held load captured and left them (R257-R260)
  refused : Option (Nat × W64)      -- refused while its group was saved: the cause raised after restore (R138)
  dormant : List (Nat × Pc) := []   -- the fragment's dormant slices at its issue (R192, R448)
  deriving DecidableEq, Repr

/-! ### Engines (R241-R266, R320-R335) -/

/-- A span an engine operation copies: destination, source, bytes. -/
structure Span where
  dst : W64
  src : W64
  len : Nat
  deriving DecidableEq, Repr

/-- The work of a copy (R254, R257): spans of memory, or an entry of 128 bytes. -/
inductive CopyWork where
  | spans (l : List Span)
  | entry (dst : W64) (row : Row)
  deriving DecidableEq, Repr

/-- A copy: its number and work; the address on whose missing mapping it holds, and its cause once the mapping was
refused (R250). -/
structure CopyOp where
  id : Nat
  work : CopyWork
  held : Option W64
  refused : Option (Nat × W64)
  done : Bool
  deriving DecidableEq, Repr

/-- A gather or scatter of the group (R256). -/
structure GatherOp where
  id : Nat
  scatter : Bool
  width : Nat
  lanes : List (Nat × W64 × W64)    -- lane, element address, slot address
  held : Option W64
  deriving DecidableEq, Repr

/-- An entry of the network send queue (R259). -/
structure NetOp where
  id : Nat
  addr : W64
  row : Row
  held : Option W64
  deriving DecidableEq, Repr

/-- An accepted matrix form with what it captured at issue (R320): fmt, CR.TRTAB, the operands' values. -/
structure MxOp where
  id : Nat
  instr : Instr
  fmt : W32
  clamp : W32                       -- CLAMP and FMT of the tensor parameter record, where one was read (R323)
  recFmt : Nat
  a : W64
  b : W64
  c : W64
  held : Option W64
  deriving DecidableEq, Repr

/-- Matrix state of a group (R320, R321, R327, R328). -/
structure MxState where
  queue : List MxOp
  aSlots : List (List (List Byte))
  bSlots : List (List (List Byte))
  stream : List Row
  tbad : Bool
  ovf : Bool
  inv : Bool
  sat : Bool
  run : Bool
  step : Nat
  deriving DecidableEq, Repr

/-- What a result still owes to engine consumers that could not accept it at issue: its fragment, the consumers, the entry,
and CR.CPQ, CR.RED and CR.NET as they stood (R35, R260). -/
structure Owing where
  fid : Nat
  cm : Consumers
  row : Row
  cpq : W64
  red : W64
  net : W64
  deriving DecidableEq, Repr

/-- A COLL whose record or source is not read yet: its number, its fragment, its function, record, source, destination, count
and rank, and the address on whose missing mapping it holds (R250, R262). -/
structure CollStart where
  id : Nat
  fid : Nat
  fn : CollFn
  rec_ : W64
  src : W64
  dst : W64
  count : Nat
  rank : Nat
  held : Option W64
  deriving DecidableEq, Repr

/-- The result of a completed generation that is still to be written to a participant's destination (R250, R251). -/
structure CollWrite where
  id : Nat
  dst : W64
  words : List (W32 × Bool)
  held : Option W64
  deriving DecidableEq, Repr

/-- The engines of one group (R199, R243, R250). -/
structure Engines where
  batchNo : BitVec 16
  openBatch : List CopyOp
  closed : List (BitVec 16 × List CopyOp)
  mx : Nat                          -- outstanding operations of each WAITC class
  gth : Nat
  coll : Nat
  net : Nat
  gathers : List GatherOp
  sends : List NetOp
  starts : List Nat                 -- operations started so far, by WAITC class
  collOrder : List (Nat × Bool)     -- outstanding operations of class .coll in start order, and which are done (R199)
  collStarts : List CollStart
  collWrites : List CollWrite
  owed : List (WaitcFn × Nat × Nat × Option W64)  -- causes owed to a waiter: class, start number, code, CR.TVAL (R250)
  wrote : List W64                  -- lines that completed operations wrote (R244)
  cpq : W64
  red : W64
  netAddr : W64
  matrix : MxState
  deriving DecidableEq, Repr

/-! ### Open TRY regions (R391-R399) -/

structure TryRegion where
  depth : Nat
  hm : Bool                         -- opened in handler mode (R399, R433)
  since : Nat                       -- the model's number at its opening: an entry with a lower one is older (R393)
  codeReg : Nat
  label : Pc
  sregs : List W64
  fmt : W32
  stack : List Rec
  protected_ : List Nat
  saved : List (Nat × Nat × W32)    -- register, lane, old value (R393)
  buffer : List (Nat × Nat × Nat × Byte)  -- level tag, byte key, lane, byte; later entries overlay earlier ones (R394)
  stores : List MemOp               -- in program order (R400)
  loads : List (Nat × Nat × W64)    -- lane, space tag, 8-byte granule (R395)
  pins : List TlbEntry              -- the translations of its buffered lines, pinned (R432)
  aborted : W32                     -- lanes aborted by ALIAS (R397)
  aliased : List (Nat × W64 × W64)  -- granules that ALIAS dropped, with the cycle in which it did (R403)
  blocks : Nat
  deriving DecidableEq, Repr

/-! ### Groups (R149, R152, R160, R404, R437) -/

/-- An SVC that has been sent: the fragment, whether it sent it in handler mode, its PC, its record, and the firmware's
answer (R410, R451). -/
structure Sent where
  fid : Nat
  hm : Bool
  pc : Pc
  record : Nat
  answer : Option Bool
  deriving DecidableEq, Repr

/-- A handling in progress (R437-R442): the fragment in the handler, whether a bobbin's cause is handled, and the
replay point. -/
structure Handling where
  fid : Nat
  bobbin : Bool
  deriving DecidableEq, Repr

/-- A BAR whose arrival stands: its PC, barrier and phase, and whether a handler executed it (R197). -/
structure Arrived where
  pc : Pc
  bar : Nat
  phase : Nat
  hm : Bool
  deriving DecidableEq, Repr

structure Group where
  team : Nat
  index : Nat
  access : Bool                     -- the role operand: true for a bobbin group
  partner : Option Nat
  ctx : Nat
  task : Nat
  core : Nat                        -- 176 × die + 8 × cluster + core
  slot : Nat
  octet : Nat
  blocks : Nat                      -- k of R160
  s : List W64
  v : List Row
  queues : List (List (List W32))   -- a pair's window, held by its compute group (R165)
  exited : BitVec 8
  frags : List Frag
  bindings : List (Nat × Nat × Pc)  -- record, token, PC (R188)
  hm : Bool
  code : BitVec 8
  idem : Bool
  cause : W64
  pendTval : List (Nat × W64)
  epc : W64
  tval : W64
  idemPc : W64
  idemFmt : W32
  idemStack : List Rec
  restarts : Nat
  homePoison : Bool := false        -- consumed poison, read at home, has caused every restart that the count names (R462)
  written : List Nat                -- registers written since CR.IDEMPC: v as n, s as 256 + n (R461)
  trtab : W64
  shadow : List W64
  handling : Option Handling
  replay : Option (MemOp × Pc)      -- replay point and following PC (R441)
  stalled : List MemOp              -- refused while a cause was handled: issued again after it (R439)
  stopped : Option Nat              -- stopped whole; the raising fragment (R440)
  bobCause : Option (Nat × W64)     -- a bobbin's cause that its partner is to handle (R438)
  dead : Bool                       -- ended by the operator, or left its core
  triggered : Bool
  arrivals : List (Nat × Nat)       -- barrier, phase of the latest arrival (R197)
  barWait : List Arrived            -- BARs whose arrivals stand (R197)
  tryR : Option TryRegion
  closed : Option (TryRegion × Nat × W64) := none  -- the region that an abort closed last, its code and the cycle (R403)
  sent : List Sent
  owing : List Owing                -- results that engine consumers have still to accept (R35)
  eng : Engines
  retired : Nat
  deriving DecidableEq, Repr

/-! ### Teams, tasks, commands, edges (R149, R268, R278-R284, R422) -/

/-- A named barrier (R197). -/
structure Barrier where
  phase : Nat
  count : Nat
  expected : Nat
  arrived : List Nat
  deriving DecidableEq, Repr

inductive TeamState where
  | resident | draining (since : W64) | saved (why : SaveReason) | ended
  deriving DecidableEq, Repr

structure Team where
  task : Nat
  ctx : Nat
  index : Nat                       -- the team operand (R151)
  die : Nat
  cluster : Nat
  cores : List Nat
  groups : List Nat
  state : TeamState
  barriers : List Barrier
  pendingQ : List Nat               -- tasks queued by ENQ, oldest first (R282)
  waitingEnqs : List (Nat × Nat)    -- blocked ENQs, oldest first
  progress : Bool                   -- placed on a progress half-cluster (R355)
  spoiled : Bool                    -- executed a form of R453's list
  tiles : List (Nat × List (List (List W32)))  -- saved tiles, by the half of its core number (R329, R455)
  stagings : List (Nat × BsFn × List (List W32))  -- held staging buffers of saved groups (R329)
  owed3A : Option (Nat × Option W64)  -- the group that receives 0x3A at its restore, and CR.TVAL (R462)
  dropped : List W64                -- addresses of refused ENQ tasks still to be reported (R280)
  avoid : Option Nat                -- a core under test after restarts (R462)
  moved : Option (Nat × Option W64 × W64)  -- a move to other silicon: the group, the address, the time (R462)
  image : Option (Nat × Nat × W32) := none  -- its image in the save area: system address, bytes, CRC-32 (R455, R458)
  deriving DecidableEq, Repr

structure Task where
  ctx : Nat
  cmd : Nat
  parent : Option Nat               -- the enqueuing team
  launch : Launch
  deps : List Bool                  -- met dependences (R280)
  seedOnly : Bool                   -- the entry's TARGET bit was clear (R279)
  entryBad : Bool                   -- the fetch of the entry's line was refused (R279, R448)
  nextTeam : Nat
  groupsLive : Nat
  groupsTriggered : Nat
  groupsLeft : Nat                  -- groups not yet placed
  triggered : Bool
  completed : Bool
  placedOn : List Nat               -- cores on which it has placed a team (R427)
  images : Table Mem                -- saved cluster SRAM, by cluster (R455)
  held : List W64                   -- the words on whose missing mappings the front end holds it (R280)
  forwarded : Bool                  -- its far READ pages have been asked for (R425)
  deriving DecidableEq, Repr

structure Cmd where
  vq : Nat
  count : Nat
  placed : Bool
  edges : Nat
  completed : Bool
  remote : Option (Nat × Nat)       -- the anchor package and its number there, of a command of a guest context (R358)
  deriving DecidableEq, Repr

structure Edge where
  pred : Nat
  succ : Nat
  ranges : List (W64 × W64)         -- base and length of the runs of lines of the edge region (R423)
  deriving DecidableEq, Repr

/-- A distributor candidate (R304-R307): its source and waiting time. -/
inductive CandSource where
  | hostQueue (vq : Nat) | pending (team : Nat) | swapped (team : Nat)
  deriving DecidableEq, Repr

structure Candidate where
  ctx : Nat
  src : CandSource
  task : Nat
  team : Nat                        -- the team operand
  since : W64
  waitingSince : Option W64
  aged : Bool
  noRegion : Bool                   -- reported without a region (R307)
  deriving DecidableEq, Repr

/-! ### Cores, clusters, halves, dies -/

/-- A line of an L1 (R237): its bytes, which of them are dirty, the filling context, the time of its fill. -/
structure L1Line where
  line : Nat
  bytes : List Byte
  dirty : List Bool
  ctx : Nat
  filled : W64
  written : W64
  writers : List Nat                -- the groups whose stores its dirty bytes are (R131)
  deriving DecidableEq, Repr

inductive CoreState where | inService | underTest (since : W64) | retired deriving DecidableEq, Repr

/-- A start of an issue side: the fragment, its PC, the instructions it had issued, the engine unit that it took, and its
cycle. -/
structure Start where
  gid : Nat
  fid : Nat
  pc : Pc
  retired : Nat
  unit : Nat
  at_ : W64
  deriving DecidableEq, Repr

structure Core where
  slots : List (Option Nat)         -- 64 resident slots
  free : List Nat                   -- free pool blocks of each octet (R299)
  waiters : List (Nat × Nat × Nat)  -- octet, group, fragment: GROWs and TRYs in the order they began to wait
  urgentC : List (Nat × Nat)        -- urgent fragments, compute side (R220)
  urgentP : List (Nat × Nat)
  lastC : List Nat                  -- the cycle in which each engine unit last accepted a start, compute side (R310)
  lastP : List Nat
  startsC : List Start              -- the starts of the last issue cycle, compute side
  startsP : List Start
  l1 : List L1Line                  -- oldest fill first
  peers : Table Nat                 -- by SPA[14:7]: the cluster that last served the line or asked for it (R378)
  seen : Table W64                  -- by line: when the core last touched it at home, which bounds a peer's copy (R228)
  peersFrom : W64                   -- a peer's copy filled before this answers no probe of the core (R228, R236)
  tlb : List TlbEntry
  replays : List (Nat × List W64)   -- pipe, times of its replays (R463)
  state : CoreState
  deriving DecidableEq, Repr

/-- An open reduction generation (R258). -/
structure RedGen where
  task : Nat
  dest : Nat
  op : Nat
  count : Nat
  rows : List (Nat × Nat × Row)     -- contributing group, operation and entry
  mixed : Bool
  deriving DecidableEq, Repr

/-- A contribution that waits to join a generation on the cluster to which its group has moved: its parameters, and whether its own
generation was mixed (R258, R260). -/
structure RedEntry where
  task : Nat
  dest : Nat
  op : Nat
  count : Nat
  gid : Nat
  id : Nat
  row : Row
  mixed : Bool
  deriving DecidableEq, Repr

/-- Cluster SRAM and the cluster's units. -/
structure Cluster where
  sram : Table Mem                  -- one reservation per task (R374)
  taken : Table (Nat × Nat)         -- reserved per task in halves A and B, in 64-byte units (R299, R300)
  reds : List RedGen
  redWait : List RedEntry           -- contributions of groups moved here that have still to join a generation (R258, R260)
  tlb : List TlbEntry
  deriving DecidableEq, Repr

/-- A matrix half (R321, R335, R362). -/
structure Half where
  tiles : List (List (List W32))    -- a0-a3, 32 rows of 32; empty: all zero
  owner : Option Nat
  staging : Option (Nat × BsFn × List (List W32))  -- holder, format, rows
  steps : W64
  busy : W64
  wait : W64
  deriving DecidableEq, Repr

/-- The five market classes' values. -/
structure PerClass (α : Type) where
  clu : α
  bank : α
  way : α
  slot : α
  link : α
  deriving DecidableEq, Repr

/-- A stitch plan (R380): generation and its 2,112 bytes. -/
structure Plan where
  gen : Nat
  bytes : List Byte
  deriving DecidableEq, Repr

structure Die where
  reserve : PerClass W64            -- link unused
  px : PerClass W64
  banks : Table Mem                 -- the scratchpad banks' bytes
  nested : List TlbEntry
  retiredSlices : List Nat
  retiredChans : List (Nat × Nat)   -- stack, channel
  rebuilding : List (Nat × Nat)
  slotUnits : Nat                   -- SLOT units auctioned (R387)
  cluUnits : List Nat               -- half-clusters auctioned
  progressHalf : Nat                -- the progress half-cluster (R355)
  plan : Plan
  staged : List Byte                -- staged plan
  apply : Bool
  gated : Bool
  failed : List (Nat × Nat)         -- failed links: router, port
  deadRouters : List Nat
  physical : List Nat               -- the physical cluster of each logical one (R468)
  evicting : Bool                   -- the near tier is short of frames (R385)
  lostBytes : Nat                   -- near bytes taken out of the pool by a fifth retirement (R387)
  leaving : List Nat := []          -- retired slices that the next stitch plan maps out (R377)
  fixes : List (Nat × Nat × W64) := []  -- corrections of the last 30 minutes: stack, channel, time (R387)
  badRows : List (Nat × Nat × Nat) := []  -- rows with a failed device symbol: stack, channel, row (R387)
  decideAt : W64 := 0               -- when its distributor has ended its latest placement decision (R303)
  deriving DecidableEq, Repr

/-! ### Memory of the package (R374, R383, R459) -/

inductive PageState where | near | far | inFlight (toFar : Bool) (die frame : Nat) deriving DecidableEq, Repr

/-- A request to move a page (R384, R386): out by eviction, up to its home die, or to a die. -/
inductive PageMove where | evict | promote | migrate (die : Nat) deriving DecidableEq, Repr

/-- A page record (R383-R386): context, guest physical base, bytes, frame, home die, age. -/
structure Page where
  ctx : Nat
  gpa : Nat
  size : Nat
  frame : Nat
  die : Nat
  state : PageState
  age : Nat
  accessed : Bool
  farHits : Nat
  pinned : Bool
  queued : List PageMove            -- waiting requests, in order of arrival (R386)
  remote : Option Nat               -- the other package of the pod that homes it (R465)
  fromFar : Bool := false           -- in flight: its old frame is one of the far tier (R384)
  lost : Bool := false              -- that other package has been given up (R465)
  deriving DecidableEq, Repr

/-- A poisoned line (R459): its level and its number in that level's numbering of bytes, and the bytes written since. -/
structure Poison where
  level : Nat
  line : Nat
  mask : List Bool
  die : Nat
  deriving DecidableEq, Repr

/-- A line of an L2 slice (R375, R376): where it stands, whose it is, and whether memory behind the slice lacks its bytes. -/
structure L2Line where
  die : Nat
  slice : Nat
  set : Nat
  way : Nat
  line : Nat
  ctx : Nat
  dirty : Bool
  deriving DecidableEq, Repr

structure MemSys where
  sys : Mem                         -- by system physical address, at the points of coherence
  pages : List Page
  poison : List Poison
  priv : Table Mem                  -- lane-private slices, by 32 × group + lane
  backing : Table Mem               -- bank backing, by 1024 × context + slot (R348)
  l2 : List L2Line                  -- the lines of the slices, the least recently used first (R376)
  deriving DecidableEq, Repr

/-! ### Contexts and the market (R346-R358) -/

structure BidReg where
  price : W64
  units : Nat
  deriving DecidableEq, Repr

/-- Units held of each class: numbers and the price paid. -/
structure Holding where
  units : PerClass (List Nat)       -- unit numbers; BANK in window-slot order
  price : PerClass W64
  progress : Option (Nat × Nat)     -- die and half-cluster of a progress grant
  deriving DecidableEq, Repr

structure Ctx where
  purse : W64
  refill : W64
  spent : W64
  pkg : BitVec 6
  reach : BitVec 2
  mig : Bool
  home : BitVec 2
  purseWrite : Option W64
  bids : PerClass BidReg
  held : Holding
  next : Holding
  moveTo : Option Nat               -- the die chosen by the Shuttle (R357)
  offer : Option (Nat × Nat)        -- the package and die that it is offered to (R357)
  away : Option Nat                 -- the package that has accepted it, and runs it (R357, R358)
  awayNo : Nat := 0                 -- its number there
  coming : Bool := false            -- accepted back by its anchor; its images have not come yet (R358)
  trapvec : W64
  lpext : W64
  relcnt : W64
  root1 : W64
  root2 : W64
  saveArea : W64
  vlan : Nat
  hostAddr : Nat                    -- the bound host address (R297)
  ip4 : Nat                         -- the VI's address in each family (R296)
  ip6 : Nat
  vi : Option Nat                   -- the VI bound to it (R288, R296)
  windows : List (W64 × W64)        -- RDMA windows
  slotBase : List W64               -- the HBM behind each window slot of banks, as the operator assigns it (R348)
  anchor : Option (Nat × Nat)       -- the package and the number there of a context received from another one (R358)
  notify : W64
  qcb : List (Nat × W64)
  notes : W32                       -- notification count
  replies : List (W32 × W32 × W64)  -- SEQ, STAT, value, in order of arrival (R297)
  pendingSeqs : List W32 := []      -- those of them that wait, and have no reply yet (R297)
  born : W64                        -- the interval in which it was created
  deriving DecidableEq, Repr

/-- A trimmed bid of the snapshot (R349). -/
structure Snap where
  ctx : Nat
  home : Nat
  price : PerClass W64
  kept : PerClass Nat
  reach : Option Nat                -- the migratable mark (R339)
  deriving DecidableEq, Repr

inductive Stage where | bidding | snapshotted | published | released deriving DecidableEq, Repr

structure Market where
  t0 : W64
  interval : W64
  started : Bool
  stage : Stage
  snaps : List Snap
  reserveLink : W64
  pxLink : W64
  nextPx : List (PerClass W64)      -- clearing prices of the four dies
  nextPxLink : W64
  unsold : List (PerClass Nat)
  pkg : BitVec 6                    -- this package's number within its pod (R346)
  rotation : Nat                    -- the last context granted progress
  lanes : List Nat                  -- the scale-out lanes that the LINK auction offers (R468)
  tables : List (Nat × Nat × List W64 × List Nat)  -- package, interval, prices, units unsold
  deriving DecidableEq, Repr

/-! ### Queues, the command processor, hosts (R285-R297) -/

structure Queue where
  en : Bool
  stop : Bool
  err : BitVec 8
  base : W64
  size : W64
  tail : W64
  head : W64
  compl : W64
  latch : Option W64
  lane : Option (Nat × W64)         -- lane and the time it was mapped
  held : Option W64                 -- the address on whose missing mapping it holds (R286)
  deriving DecidableEq, Repr

structure Message where
  kind : Nat                        -- TYPE of R297
  vq : Nat
  seq : W32
  stat : W32
  value : W64
  data : List Byte
  deriving DecidableEq, Repr

structure FrontEnd where
  queues : Table Queue
  waiting : List Nat                -- vqids waiting for a lane
  replay : List Instr               -- the Selvedge's replay buffer
  resuming : Bool                   -- the request that acts next is the held one that goes on (R246, R297)
  hostHeld : List (Nat × W64 × Instr)  -- host requests held at the hub, with the time of their arrival (R383)
  out : List Message
  cpGated : Bool
  cands : List Candidate
  deriving DecidableEq, Repr

/-! ### Management (R449, R467-R474) -/

inductive RecKind where | replayable | fatal | information deriving DecidableEq, Repr

inductive RecOwner where | operator | guest | none deriving DecidableEq, Repr

structure TrapRec where
  code : Nat
  kind : RecKind
  owner : RecOwner
  ctx : Nat
  count : Nat
  id : Nat
  gva : W64
  gpa : W64
  core : Nat
  slot : Nat
  data : W32
  fault : Bool := false             -- a translation fault, whose page a resolution concerns (R448)
  deriving DecidableEq, Repr

inductive Mode where | bringUp | up | safe deriving DecidableEq, Repr

inductive Thermal where | none | half | sevenEighths deriving DecidableEq, Repr

structure Mgmt where
  traps : List TrapRec              -- entries 0-503
  fatals : List TrapRec             -- entries 504-511
  nextRec : Nat
  lost : Nat
  droppedFatal : Table Nat
  log : List Byte
  staging : List Byte
  running : Nat                     -- security version of the running image (R470)
  image : List Byte                 -- the running image
  committed : Option (List Byte)    -- the image committed for the next reset
  fusedMin : Nat
  boots : Nat                       -- bring-ups so far
  report : List Byte
  corrections : Table Nat           -- by 3 × die + class: HBM, far tier, in place for a group (R472)
  poisonings : Table Nat            -- these and the next, by die
  replays : Table Nat
  retirements : Table Nat
  wornPipes : List (Nat × Nat)      -- the self-test log's retired pipes: core by its physical cluster, pipe (R463)
  wornCores : List Nat              -- its retired cores, by their physical clusters
  flags : Table Nat                 -- flagged rows with their clean visits in a row (R388)
  visited : Table W64 := []         -- when a flagged row was visited last (R388)
  sweep : Nat := 0                  -- the next row of the scrubbing pass (R388)
  sweptAt : W64 := 0                -- when the pass visited its latest row
  mgmtReplies : List (W32 × W32 × List Byte)
  heldInv : List Instr              -- invalidations that wait for open regions (R432)
  thermal : Thermal
  heatNoted : Bool := false         -- the record of the level from 105 °C has been made in this interval (R474)
  gateCount : Nat
  deriving DecidableEq, Repr

/-- The arrival of a rank: its group, operation and destination, and its source words with their poison (R262). -/
structure Arrival where
  rank : Nat
  gid : Nat
  op : Nat
  dst : W64
  words : List (W32 × Bool)
  deriving DecidableEq, Repr

/-- An open generation of a collective record (R262). -/
structure CollGen where
  record : Nat × Nat                -- the level and number of its first byte
  npart : Nat
  root : Nat
  fn : CollFn
  count : Nat
  arrivals : List Arrival
  mixed : Bool
  deriving DecidableEq, Repr

/-- A request that waits at the ring unit (R265, R266): producer or consumer, the system address of the control block, and the
operands of its instruction as they stood when it arrived: control block, buffer, bytes. -/
structure RingWait where
  push : Bool
  ctl : Nat
  gid : Nat
  fid : Nat
  x : Args
  block : W64
  buf : W64
  len : Nat
  deriving DecidableEq, Repr

/-- What wires the dies beside their stitch plans: failed links of the hub's mesh by router and port, failed die-to-die ports by the two
dies, and the resend timeouts in a row of each route (R379, R382). -/
structure Fabric where
  hubFailed : List (Nat × Nat)
  portsFailed : List (Nat × Nat)
  timeouts : Table Nat
  deriving DecidableEq, Repr

/-- What ISSUE_START chose (R309). -/
structure Issuer where
  gid : Nat
  fid : Nat
  deriving DecidableEq, Repr

/-- The machine: one package. -/
structure State where
  clock : W64
  mode : Mode
  cur : Option Issuer               -- model: the fragment chosen to issue
  second : Option Start             -- model: the second start of the cycle (R309)
  due : List Instr                  -- model: events that follow from the last step
  cycle : List Instr                -- model: what is still to happen in this cycle
  agenda : List Instr               -- model: inputs and choices still to come
  nextId : Nat                      -- model: the next number for a record of the model
  free : Nat                        -- model: how many free values have been taken
  mem : MemSys
  groups : Table Group
  teams : Table Team
  tasks : Table Task
  cmds : Table Cmd
  edges : Table Edge
  ops : List MemOp                  -- operand logs and side logs, oldest first
  colls : Table CollGen
  rings : List RingWait             -- in order of arrival
  cores : Table Core
  clusters : Table Cluster
  halves : Table Half
  dies : Table Die
  ctxs : Table Ctx
  market : Market
  fe : FrontEnd
  mgmt : Mgmt
  fabric : Fabric
  deriving DecidableEq, Repr

/-! ### Reset (R14, R467) -/

def PerClass.all {α : Type} (x : α) : PerClass α := ⟨x, x, x, x, x⟩

def Market.reset : Market where
  t0 := 0
  interval := 0
  started := false
  stage := .bidding
  snaps := []
  reserveLink := 0
  pxLink := 0
  nextPx := []
  nextPxLink := 0
  unsold := []
  pkg := 0
  rotation := 255
  lanes := []
  tables := []

def FrontEnd.reset : FrontEnd where
  queues := []
  waiting := []
  replay := []
  resuming := false
  hostHeld := []
  out := []
  cpGated := false
  cands := []

def Mgmt.reset : Mgmt where
  traps := []
  fatals := []
  nextRec := 0
  lost := 0
  droppedFatal := []
  log := []
  staging := []
  running := 0
  image := []
  committed := none
  fusedMin := 0
  boots := 0
  report := []
  corrections := []
  poisonings := []
  replays := []
  retirements := []
  wornPipes := []
  wornCores := []
  flags := []
  mgmtReplies := []
  heldInv := []
  thermal := .none
  gateCount := 0

def Fabric.reset : Fabric := { hubFailed := [], portsFailed := [], timeouts := [] }

def MemSys.reset : MemSys := { sys := [], pages := [], poison := [], priv := [], backing := [], l2 := [] }

/-- The package at power-on or package reset, before bring-up (R467): no context, no task, no group, every memory with
nothing listed. Cores, clusters, halves and dies come into the tables when bring-up puts them into service. -/
def State.reset : State where
  clock := 0
  mode := .bringUp
  cur := none
  second := none
  due := []
  cycle := []
  agenda := []
  nextId := 0
  free := 0
  mem := MemSys.reset
  groups := []
  teams := []
  tasks := []
  cmds := []
  edges := []
  ops := []
  colls := []
  rings := []
  cores := []
  clusters := []
  halves := []
  dies := []
  ctxs := []
  market := Market.reset
  fe := FrontEnd.reset
  mgmt := Mgmt.reset
  fabric := Fabric.reset

end Sys2Proof.Machine
end

