-- ==== Sys2Proof/Machine/Mem.lean ====
section
/-! DEFINITION. Tables, and memory as listed bytes in one canonical form: addresses strictly rising and no listed byte
equal to 0, which is what an unlisted address reads as (log 6). -/

namespace Sys2Proof.Machine

open Sys2Proof

/-! ### Tables -/

def Table.get {α : Type} : Table α → Nat → Option α
  | [], _ => none
  | (j, x) :: t, k => if k = j then some x else Table.get t k

/-- Keys stay rising where they rose before. -/
def Table.set {α : Type} : Table α → Nat → α → Table α
  | [], k, v => [(k, v)]
  | (j, x) :: t, k, v =>
    if k < j then (k, v) :: (j, x) :: t else if k = j then (k, v) :: t else (j, x) :: Table.set t k v

def Table.del {α : Type} : Table α → Nat → Table α
  | [], _ => []
  | (j, x) :: t, k => if k = j then t else (j, x) :: Table.del t k

/-- The entry changed, where there is one. -/
def Table.upd {α : Type} (t : Table α) (k : Nat) (f : α → α) : Table α :=
  match t.get k with
  | some x => t.set k (f x)
  | none => t

/-- A count raised by 1. -/
def countUp (t : Table Nat) (k : Nat) : Table Nat := t.set k ((t.get k).getD 0 + 1)

/-! ### Bytes -/

/-- What an unlisted address reads as (log 6). -/
def Mem.unlisted : Byte := 0

def Mem.read : Mem → Nat → Byte
  | [], _ => Mem.unlisted
  | (a, b) :: t, k => if k = a then b else Mem.read t k

/-- The byte `b` at `k`; a byte equal to what an unlisted address reads as is not listed. -/
def Mem.write : Mem → Nat → Byte → Mem
  | [], k, b => if b = Mem.unlisted then [] else [(k, b)]
  | (a, x) :: t, k, b =>
    if k < a then (if b = Mem.unlisted then (a, x) :: t else (k, b) :: (a, x) :: t)
    else if k = a then (if b = Mem.unlisted then t else (k, b) :: t)
    else (a, x) :: Mem.write t k b

/-- Addresses rise strictly from `lo`, and no listed byte is 0. -/
def Mem.wfFrom : Nat → Mem → Bool
  | _, [] => true
  | lo, (a, b) :: t => lo ≤ a && b != Mem.unlisted && Mem.wfFrom (a + 1) t

/-- The canonical form. -/
def Mem.wf (m : Mem) : Bool := Mem.wfFrom 0 m

/-- n bytes from k up. -/
def Mem.readN (m : Mem) (k : Nat) : Nat → List Byte
  | 0 => []
  | n + 1 => m.read k :: Mem.readN m (k + 1) n

def Mem.writeL (m : Mem) (k : Nat) : List Byte → Mem
  | [] => m
  | b :: t => Mem.writeL (m.write k b) (k + 1) t

/-- A little-endian number of bytes (R12). -/
def bytesNat : List Byte → Nat
  | [] => 0
  | b :: t => b.toNat + 256 * bytesNat t

/-- The n low bytes of a number, least significant first (R12). -/
def natBytes : Nat → Nat → List Byte
  | 0, _ => []
  | n + 1, x => BitVec.ofNat 8 x :: natBytes n (x / 256)

def Mem.readNat (m : Mem) (k n : Nat) : Nat := bytesNat (m.readN k n)

def Mem.writeNat (m : Mem) (k n x : Nat) : Mem := m.writeL k (natBytes n x)

def sumNat (l : List Nat) : Nat := l.foldl (· + ·) 0

/-- n bytes from a list that zeros continue. -/
def fit (n : Nat) (l : List Byte) : List Byte := l.take n ++ List.replicate (n - l.length) 0

/-- One bit of the CRC-32 with the polynomial 0x04C1_1DB7, least significant bit first as IEEE 802.3 sends it (PRESUMED, log 175). -/
def crc32Step (c : W32) : W32 := if c.getLsbD 0 then (c >>> 1) ^^^ 0xEDB88320 else c >>> 1

/-- The CRC-32 of a byte string (R458, R464). -/
def crc32 (b : List Byte) : W32 :=
  ~~~(b.foldl (fun c x => Nat.repeat crc32Step 8 (c ^^^ x.setWidth 32)) 0xFFFFFFFF)

/-- The list with its k-th element replaced; a short list is padded. -/
def setAt {α : Type} (pad : α) : List α → Nat → α → List α
  | [], 0, x => [x]
  | [], k + 1, x => pad :: setAt pad [] k x
  | _ :: t, 0, x => x :: t
  | y :: t, k + 1, x => y :: setAt pad t k x

end Sys2Proof.Machine
end

