-- ==== Sys2Proof/Machine/Translate.lean ====
section
/-! DEFINITION. Translation in two stages over tables in memory, the TLBs, and the reading of a fetch line (spec/25
R443-R447; spec/01 R19). -/

namespace Sys2Proof.Machine

open Sys2Proof

/-! ### Where things are (R10) -/

def coreDie (core : Nat) : Nat := core / 176
def coreCluster (core : Nat) : Nat := core % 176 / 8
def coreIn (core : Nat) : Nat := core % 8
def clusterNo (core : Nat) : Nat := core / 8
def halfNo (core : Nat) : Nat := core / 4

/-! ### Walks (R443-R445) -/

/-- What an access needs of a leaf (R444). -/
inductive Need where | fetch | load | store | atomic deriving DecidableEq, Repr

/-- A level of a walk: its index bits, its table's alignment, and whether it may hold a leaf (R443). -/
structure Level where
  lo : Nat
  bits : Nat
  align : Nat
  leafOk : Bool
  deriving DecidableEq, Repr

def level0 : Level := ⟨48, 8, 4096, false⟩

/-- Levels 1 to 4 of R443. -/
def levelsBelow : List Level := [⟨39, 9, 4096, false⟩, ⟨30, 9, 4096, true⟩, ⟨21, 9, 4096, true⟩, ⟨16, 5, 256, true⟩]

/-- A mapping found by a walk: bytes of the page, its output address, permissions of the leaf, the address of the leaf's
entry. -/
structure Leaf where
  size : Nat
  out : Nat
  x : Bool
  w : Bool
  r : Bool
  entry : Nat
  deriving DecidableEq, Repr

def Leaf.allows (l : Leaf) : Need → Bool
  | .fetch => l.x
  | .load => l.r
  | .store => l.w
  | .atomic => l.r && l.w

/-- Why a walk stops (R445, R447). -/
inductive WalkFail where
  | stage1 (entry : Nat)      -- no mapping or permission in stage 1: the GPA of the failing entry
  | malformed1 (entry : Nat)  -- a malformed stage-1 entry
  | stage2 (gpa : Nat)        -- no mapping or permission in stage 2, for this GPA
  | malformed2 (gpa : Nat)
  | inFlight                  -- the page is being moved (R383)
  deriving DecidableEq, Repr

/-- What one entry says (R444, R445). -/
inductive EntryKind where
  | invalid
  | malformed
  | table (at_ : Nat)
  | leaf (l : Leaf)
  deriving DecidableEq, Repr

/-- An entry read at a level; `next` is the level below, where there is one. -/
def entryKind (e : Nat) (entryAddr : Nat) (lv : Level) (next : Option Level) : EntryKind :=
  if e % 2 = 0 then .invalid
  else
    let out := e % 2 ^ 52 / 256 * 256
    let isLeaf := e / 32 % 2 = 1
    if e / 2 % 2 = 1 ∨ e / 64 % 4 ≠ 0 ∨ e / 2 ^ 52 % 2 ^ 12 ≠ 0 then .malformed
    else if isLeaf then
      if !lv.leafOk ∨ out % 2 ^ lv.lo ≠ 0 then .malformed
      else .leaf ⟨2 ^ lv.lo, out, e / 16 % 2 = 1, e / 8 % 2 = 1, e / 4 % 2 = 1, entryAddr⟩
    else
      match next with
      | none => .malformed
      | some n => if out % n.align ≠ 0 then .malformed else .table out

/-- Stage 2 from one level on: the tables stand at system addresses. -/
def walk2 (m : Mem) (gpa table : Nat) (lv : Level) : List Level → Except WalkFail Leaf
  | [] =>
    let at_ := table + 8 * (gpa / 2 ^ lv.lo % 2 ^ lv.bits)
    match entryKind (m.readNat at_ 8) at_ lv none with
    | .invalid => .error (.stage2 gpa)
    | .malformed => .error (.malformed2 gpa)
    | .table _ => .error (.malformed2 gpa)
    | .leaf l => .ok l
  | next :: rest =>
    let at_ := table + 8 * (gpa / 2 ^ lv.lo % 2 ^ lv.bits)
    match entryKind (m.readNat at_ 8) at_ lv (some next) with
    | .invalid => .error (.stage2 gpa)
    | .malformed => .error (.malformed2 gpa)
    | .table t => walk2 m gpa t next rest
    | .leaf l => .ok l

/-- A whole stage-2 walk of a GPA: bits [55:52] must be zero (R443). -/
def stage2 (m : Mem) (root gpa : Nat) : Except WalkFail Leaf :=
  if gpa / 2 ^ 52 ≠ 0 then .error (.stage2 gpa) else walk2 m gpa root level0 levelsBelow

/-- The output address of an address that a leaf maps. -/
def Leaf.apply (l : Leaf) (a : Nat) : Nat := l.out + a % l.size

/-- No frame of the page serves accesses: it is being moved, or its package has been given up (R383, R465). -/
def Page.unserved (p : Page) : Bool := p.lost || (match p.state with | .inFlight _ _ _ => true | _ => false)

/-- A page of this context that holds the GPA serves no access. -/
def inFlightAt (pages : List Page) (ctx gpa : Nat) : Bool :=
  pages.any (fun p => p.ctx == ctx && p.gpa ≤ gpa && gpa < p.gpa + p.size && p.unserved)

/-- The system addresses of the stage-2 entries that the walk of a GPA reads, first level first (R443). -/
def tableSpas (m : Mem) (gpa table : Nat) (lv : Level) : List Level → List Nat
  | [] => [table + 8 * (gpa / 2 ^ lv.lo % 2 ^ lv.bits)]
  | next :: rest =>
    let at_ := table + 8 * (gpa / 2 ^ lv.lo % 2 ^ lv.bits)
    at_ :: (match entryKind (m.readNat at_ 8) at_ lv (some next) with
      | .table t => tableSpas m gpa t next rest
      | _ => [])

/-- A GPA to a system address, with the permission needed, past every nested TLB entry that covers it (R446). -/
def gpaToSpa (ms : MemSys) (nested : List TlbEntry) (ctx root2 gpa : Nat) (need : Need) : Except WalkFail Leaf :=
  if inFlightAt ms.pages ctx gpa then .error .inFlight
  else
    match nested.find? (fun e => e.ctx == ctx && e.base ≤ gpa && gpa < e.base + e.size) with
    | some e =>
      let l : Leaf := ⟨e.size, e.frame, e.x, e.w, e.r, 0⟩
      if l.allows need then .ok l
      else
        match stage2 ms.sys root2 gpa with
        | .error f => .error f
        | .ok l => if l.allows need then .ok l else .error (.stage2 gpa)
    | none =>
      match stage2 ms.sys root2 gpa with
      | .error f => .error f
      | .ok l => if l.allows need then .ok l else .error (.stage2 gpa)

/-- Stage 1 from one level on: every entry is read at the system address of its GPA (R445). -/
def walk1 (ms : MemSys) (nested : List TlbEntry) (ctx root2 gva table : Nat) (lv : Level) :
    List Level → Except WalkFail Leaf
  | [] =>
    let at_ := table + 8 * (gva / 2 ^ lv.lo % 2 ^ lv.bits)
    match gpaToSpa ms nested ctx root2 at_ .load with
    | .error f => .error f
    | .ok l2 =>
      match entryKind (ms.sys.readNat (l2.apply at_) 8) at_ lv none with
      | .invalid => .error (.stage1 at_)
      | .malformed => .error (.malformed1 at_)
      | .table _ => .error (.malformed1 at_)
      | .leaf l => .ok l
  | next :: rest =>
    let at_ := table + 8 * (gva / 2 ^ lv.lo % 2 ^ lv.bits)
    match gpaToSpa ms nested ctx root2 at_ .load with
    | .error f => .error f
    | .ok l2 =>
      match entryKind (ms.sys.readNat (l2.apply at_) 8) at_ lv (some next) with
      | .invalid => .error (.stage1 at_)
      | .malformed => .error (.malformed1 at_)
      | .table t => walk1 ms nested ctx root2 gva t next rest
      | .leaf l => .ok l

/-- The GPAs of the stage-1 entries that a walk reads, first level first (R443, R446). -/
def tableGpas (ms : MemSys) (nested : List TlbEntry) (ctx root2 gva table : Nat) (lv : Level) : List Level → List Nat
  | [] => [table + 8 * (gva / 2 ^ lv.lo % 2 ^ lv.bits)]
  | next :: rest =>
    let at_ := table + 8 * (gva / 2 ^ lv.lo % 2 ^ lv.bits)
    at_ :: (match gpaToSpa ms nested ctx root2 at_ .load with
      | .error _ => []
      | .ok l2 =>
        match entryKind (ms.sys.readNat (l2.apply at_) 8) at_ lv (some next) with
        | .table t => tableGpas ms nested ctx root2 gva t next rest
        | _ => [])

/-- A translation of a whole global access: a TLB entry's content (R446). -/
def walkBoth (ms : MemSys) (nested : List TlbEntry) (ctx : Nat) (c : Ctx) (gva : Nat) (need : Need) :
    Except WalkFail TlbEntry :=
  match walk1 ms nested ctx c.root2.toNat gva c.root1.toNat level0 levelsBelow with
  | .error f => .error f
  | .ok l1 =>
    if !l1.allows need then .error (.stage1 l1.entry)
    else
      let gpa := l1.apply gva
      match gpaToSpa ms nested ctx c.root2.toNat gpa need with
      | .error f => .error f
      | .ok l2 =>
        let size := min l1.size l2.size
        .ok ⟨ctx, gva / size * size, size, l2.apply gpa / size * size, l1.x && l2.x, l1.w && l2.w, l1.r && l2.r⟩

def TlbEntry.allows (e : TlbEntry) : Need → Bool
  | .fetch => e.x
  | .load => e.r
  | .store => e.w
  | .atomic => e.r && e.w

def TlbEntry.covers (e : TlbEntry) (ctx a : Nat) : Bool := e.ctx == ctx && e.base ≤ a && a < e.base + e.size

def TlbEntry.apply (e : TlbEntry) (a : Nat) : Nat := e.frame + a % e.size

/-- The TLB entry that answers an access, if a TLB holds one with the permission needed. -/
def tlbHit (l : List TlbEntry) (ctx a : Nat) (need : Need) : Option TlbEntry :=
  l.find? (fun e => e.covers ctx a && e.allows need)

/-- The core and cluster TLBs that serve a core (R446). -/
def State.tlbs (s : State) (core : Nat) : List TlbEntry :=
  ((s.cores.get core).map (·.tlb)).getD [] ++ ((s.clusters.get (clusterNo core)).map (·.tlb)).getD []

/-- The nested TLB of a die. -/
def State.nestedTlb (s : State) (die : Nat) : List TlbEntry := ((s.dies.get die).map (·.nested)).getD []

/-- The frame of a page that is in flight, or out of reach, serves no access (R383, R384, R465). -/
def frameInFlight (pages : List Page) (spa : Nat) : Bool :=
  pages.any (fun p => p.unserved && p.frame ≤ spa && spa < p.frame + p.size)

/-- A global virtual address of a context to its entry, from one core (R443-R447). -/
def State.translate (s : State) (ctx core gva : Nat) (need : Need) : Except WalkFail TlbEntry :=
  match tlbHit (s.tlbs core) ctx gva need with
  | some e => if frameInFlight s.mem.pages (e.apply gva) then .error .inFlight else .ok e
  | none =>
    match s.ctxs.get ctx with
    | none => .error (.stage2 gva)
    | some c => walkBoth s.mem (s.nestedTlb (coreDie core)) ctx c gva need

/-- A system address of a global byte; none while the translation is missing or in flight. -/
def State.spa (s : State) (ctx core gva : Nat) (need : Need) : Except WalkFail Nat :=
  (s.translate ctx core gva need).map (·.apply gva)

/-! ### Fetching a line (R19, R447) -/

/-- The 64 bytes of a line: a line never crosses a page. Instructions are read at the point of coherence. -/
def State.fetchLine (s : State) (ctx core : Nat) (line : W64) : Except WalkFail (List Byte) :=
  match s.spa ctx core line.toNat .fetch with
  | .error f => .error f
  | .ok a => .ok (s.mem.sys.readN a 64)

/-- Lines lie in the global window, 0 to 2^56 - 64 (R75). -/
def lineOk (line : W64) : Bool := line.toNat % 64 == 0 && line.toNat ≤ 2 ^ 56 - 64

def Pc.addr (p : Pc) : W64 := p.line + BitVec.ofNat 64 (12 * p.slot)

/-- The PC of a byte address; none where the offset is no slot's (R20). -/
def Pc.ofAddr (a : W64) : Option Pc :=
  let o := a.toNat % 64
  if o % 12 = 0 ∧ o / 12 ≤ 4 then some ⟨a - BitVec.ofNat 64 o, o / 12⟩ else none

/-- Sequential flow (R20). -/
def Pc.next (p : Pc) : Pc := if p.slot < 4 then { p with slot := p.slot + 1 } else ⟨p.line + 64, 0⟩

/-- The PC k slots further (R192). -/
def Pc.skip (p : Pc) : Nat → Pc
  | 0 => p
  | k + 1 => Pc.skip p.next k

end Sys2Proof.Machine
end

