-- ==== Sys2Proof/Machine/Ops.lean ====
section
/-! DEFINITION. The named operations over groups, fragments and registers; trap-queue records; taking a cause and
returning from one; the whole-group abort; and the one frame in which every instruction form runs (spec/03 R65-R82,
spec/22 R397-R411, spec/25 R436-R450). -/

namespace Sys2Proof.Machine

open Sys2Proof

/-! ### Setting parts of the state -/

def State.setGroup (s : State) (gid : Nat) (g : Group) : State := { s with groups := s.groups.set gid g }

def State.updGroup (s : State) (gid : Nat) (f : Group → Group) : State := { s with groups := s.groups.upd gid f }

def State.updTeam (s : State) (t : Nat) (f : Team → Team) : State := { s with teams := s.teams.upd t f }

def State.updTask (s : State) (t : Nat) (f : Task → Task) : State := { s with tasks := s.tasks.upd t f }

def State.updCtx (s : State) (c : Nat) (f : Ctx → Ctx) : State := { s with ctxs := s.ctxs.upd c f }

def State.updCore (s : State) (c : Nat) (f : Core → Core) : State := { s with cores := s.cores.upd c f }

def State.updCluster (s : State) (c : Nat) (f : Cluster → Cluster) : State := { s with clusters := s.clusters.upd c f }

def State.updHalf (s : State) (h : Nat) (f : Half → Half) : State := { s with halves := s.halves.upd h f }

def State.updDie (s : State) (d : Nat) (f : Die → Die) : State := { s with dies := s.dies.upd d f }

/-- The release counter of a context (R458). -/
def State.relcntUp (s : State) (ctx : Nat) : State := s.updCtx ctx (fun c => { c with relcnt := c.relcnt + 1 })

/-- An event that follows from this step. -/
def State.push (s : State) (i : Instr) : State := { s with due := s.due ++ [i] }

/-- The next free value (log 2). -/
def State.freeValue (s : State) : W64 := Config.freeWord s.free

def State.takeFree (s : State) : State := { s with free := s.free + 1 }

/-- A value the spec states, or else a free one. -/
def State.orFree (s : State) (v : Option W64) : W64 × State :=
  match v with
  | some x => (x, s)
  | none => (s.freeValue, s.takeFree)

/-! ### Registers (R29, R66, R160) -/

def Group.s? (g : Group) (n : Nat) : W64 := g.s.getD n 0

/-- The written bit of a scalar register (R461): 2048 + n; a vector register n of slice j is 8 n + j. -/
def sMark (n : Nat) : Nat := 2048 + n

def addMark (l : List Nat) (k : Nat) : List Nat := if l.contains k then l else k :: l

def Group.setS (g : Group) (n : Nat) (x : W64) : Group :=
  { g with s := setAt 0 g.s n x, written := addMark g.written (sMark n) }

def Group.row (g : Group) (n : Nat) : Row := g.v.getD n []

def Group.lane (g : Group) (n l : Nat) : W32 := (g.row n).getD l 0

/-- A value per lane as a row of 32. -/
def rowOf (f : Nat → W32) : Row := (List.range 32).map f

/-- Which lanes of the 32 are in a mask. -/
def laneIn (m : W32) (l : Nat) : Bool := m.getLsbD l

/-- The slices with a lane in the mask. -/
def slicesOf (m : W32) : List Nat := (List.range 8).filter (fun j => (m.toNat >>> (4 * j)) % 16 != 0)

/-- The first write of a protected lane inside a TRY region saves its old value (R393). -/
def TryRegion.save (t : TryRegion) (n : Nat) (m : W32) (old : Nat → W32) : TryRegion :=
  if t.protected_.contains n then
    let new := (List.range 32).filter (fun l => laneIn m l && !(t.saved.any (fun e => e.1 == n && e.2.1 == l)))
    { t with saved := t.saved ++ new.map (fun l => (n, l, old l)) }
  else t

/-- The lanes of `m` of vn written (R68, R97); a region keeps the old values. -/
def Group.setLanes (g : Group) (n : Nat) (m : W32) (x : Nat → W32) : Group :=
  { g with
    v := setAt [] g.v n (rowOf (fun l => if laneIn m l then x l else g.lane n l)),
    written := (slicesOf m).foldl (fun a j => addMark a (8 * n + j)) g.written,
    tryR := g.tryR.map (fun t => t.save n m (g.lane n)) }

/-- A write of vn that R70 forbids: a region is open and does not protect vn. -/
def Group.unprotected (g : Group) (n : Nat) : Bool :=
  match g.tryR with
  | none => false
  | some t => !t.protected_.contains n

/-! ### Fragments -/

/-- The issuing fragment with its group, as they stand before the instruction. -/
structure Who where
  gid : Nat
  fid : Nat
  g : Group
  f : Frag
  deriving DecidableEq, Repr

def Group.frag? (g : Group) (fid : Nat) : Option Frag := g.frags.find? (fun f => f.id == fid)

def Group.updFrag (g : Group) (fid : Nat) (h : Frag → Frag) : Group :=
  { g with frags := g.frags.map (fun f => if f.id == fid then h f else f) }

def State.who? (s : State) (gid fid : Nat) : Option Who :=
  match s.groups.get gid with
  | none => none
  | some g =>
    match g.frag? fid with
    | none => none
    | some f => some ⟨gid, fid, g, f⟩

def State.updFrag (s : State) (gid fid : Nat) (h : Frag → Frag) : State := s.updGroup gid (fun g => g.updFrag fid h)

def State.setStatus (s : State) (gid fid : Nat) (st : Status) : State :=
  s.updFrag gid fid (fun f => { f with status := st })

/-- The fragment takes part in issue again. -/
def State.wake (s : State) (gid fid : Nat) : State := s.setStatus gid fid .ready

def Frag.dormantSlice (f : Frag) (j : Nat) : Bool := f.dormant.any (fun d => d.1 == j)

/-- A slice of the fragment that is not dormant (R192). -/
def Frag.runs (f : Frag) (j : Nat) : Bool := f.slices.getLsbD j && !f.dormantSlice j

def bits32 (p : Nat → Bool) : W32 :=
  BitVec.ofNat 32 ((List.range 32).foldl (fun a l => if p l then a + 2 ^ l else a) 0)

/-- The lanes of the executing slices: not dormant (R192), not rolled back by ALIAS (R397). -/
def Who.lanes (w : Who) : W32 :=
  bits32 (fun l => w.f.runs (l / 4) && !(match w.g.tryR with | some t => laneIn t.aborted l | none => false))

/-- The active lanes of a form with mask field MSK (R32). -/
def Who.active (w : Who) (msk : BitVec 6) : W32 :=
  if msk = 0 then w.lanes else w.lanes &&& (w.g.s? msk.toNat).setWidth 32

/-- The fragment holds every slice of its group that has not exited (R198, R392). -/
def Who.holdsAll (w : Who) : Bool := w.f.slices == ~~~w.g.exited

/-- The earlier of two block ends (R192). -/
def earlierPc (a b : Pc) : Pc := if a.addr.toNat ≤ b.addr.toNat then a else b

/-- A fragment arrives at a PC: slices whose block ends there wake; when every slice is dormant the PC goes on to the
earliest block end (R192). -/
def Frag.arrive (f : Frag) (pc : Pc) : Frag :=
  let d := f.dormant.filter (fun e => e.2 != pc)
  if (List.range 8).any (fun j => f.slices.getLsbD j && !d.any (fun e => e.1 == j)) then
    { f with pc := pc, dormant := d }
  else
    match d with
    | [] => { f with pc := pc, dormant := d }
    | e :: t =>
      let p := t.foldl (fun a x => earlierPc a x.2) e.2
      { f with pc := p, dormant := d.filter (fun x => x.2 != p) }

/-- Younger instructions count against every open lookahead window of the fragment (R33). -/
def tickWindows (ops : List MemOp) (gid fid : Nat) : List MemOp :=
  ops.map (fun o => if o.gid == gid && o.fid == fid && o.stage != .sideLogged then
    { o with left := o.left - 1, younger := o.younger + 1 } else o)

/-- An instruction of the fragment issues: it counts against the windows of what is in flight, and is younger than what is to be
issued again (R33, R439). -/
def State.ticked (s : State) (gid fid : Nat) : State :=
  { s.updGroup gid (fun g => { g with stalled := tickWindows g.stalled gid fid }) with ops := tickWindows s.ops gid fid }

/-- The fragment has issued an instruction and goes on from it (R81, R219). -/
def Frag.issued (f : Frag) : Frag :=
  { f with status := .ready, age := 0, byTransfer := false, crcTries := 0, landTries := 0, retiredHere := f.retiredHere + 1,
           waitFrom := none, begun := false }

/-- The fragment's instruction is complete: it goes on at `pc`; `jump` says that R24 checks the slot. -/
def State.goto (s : State) (w : Who) (pc : Pc) (jump : Bool) : State :=
  { s.updGroup w.gid (fun g =>
      { g.updFrag w.fid (fun f => { (f.arrive pc).issued with byTransfer := jump })
        with retired := g.retired + 1, stalled := tickWindows g.stalled w.gid w.fid })
    with ops := tickWindows s.ops w.gid w.fid }

/-- The next PC in sequential flow. -/
def State.advance (s : State) (w : Who) : State := s.goto w w.f.pc.next false

/-- Issue of a form of R460's list disarms the group. -/
def State.disarm (s : State) (w : Who) : State := s.updGroup w.gid (fun g => { g with idem := false })

/-- A form after which R453 no longer takes the team for idempotent, and which R460 lists: it disarms the group. -/
def State.spoil (s : State) (w : Who) : State := (s.disarm w).updTeam w.g.team (fun t => { t with spoiled := true })

/-! ### The trap queue (R449, R450) -/

/-- The record of one group's event. -/
def Who.record (w : Who) (code : Nat) (kind : RecKind) (owner : RecOwner) (gva gpa : W64) (data : W32) : TrapRec :=
  { code := code, kind := kind, owner := owner, ctx := w.g.ctx, count := 1, id := 0, gva := gva, gpa := gpa,
    core := w.g.core, slot := w.g.slot, data := data }

def Mgmt.stamp (m : Mgmt) (r : TrapRec) : TrapRec := { r with id := m.nextRec }

/-- A replayable record; none while entries 0-503 are in use (R450). -/
def Mgmt.addReplayable (m : Mgmt) (r : TrapRec) : Option Mgmt :=
  if m.traps.length < 504 then
    some { m with traps := m.traps ++ [m.stamp r], nextRec := (m.nextRec + 1) % 2 ^ 32 }
  else none

/-- An information record is counted and dropped where no entry is free (R450). -/
def Mgmt.addInformation (m : Mgmt) (r : TrapRec) : Mgmt :=
  match m.addReplayable r with
  | some m' => m'
  | none => { m with lost := m.lost + 1 }

/-- The overflow record counts the fatal records dropped after it (R450). -/
def countDropped : List TrapRec → List TrapRec
  | [] => []
  | [r] => [{ r with count := min 255 (r.count + 1) }]
  | r :: t => r :: countDropped t

/-- A fatal record takes any free entry; the eighth of entries 504-511 is the overflow record (R450). -/
def Mgmt.addFatal (m : Mgmt) (r : TrapRec) : Mgmt :=
  match m.addReplayable r with
  | some m' => m'
  | none =>
    if m.fatals.length < 7 then
      { m with fatals := m.fatals ++ [m.stamp r], nextRec := (m.nextRec + 1) % 2 ^ 32 }
    else if m.fatals.length < 8 then
      { m with fatals := m.fatals ++ [{ m.stamp r with count := 0 }], nextRec := (m.nextRec + 1) % 2 ^ 32 }
    else
      { m with fatals := countDropped m.fatals,
               droppedFatal := m.droppedFatal.set r.ctx ((m.droppedFatal.get r.ctx).getD 0 + 1) }

def State.fatal (s : State) (r : TrapRec) : State := { s with mgmt := s.mgmt.addFatal r }

/-! ### Fetch targets (R24) -/

/-- The TARGET bit of a slot; none where its line cannot be read or fails its check. -/
def State.targetBit (s : State) (ctx core : Nat) (pc : Pc) : Option Bool :=
  match s.fetchLine ctx core pc.line with
  | .error _ => none
  | .ok l => if lineCheckOk l then some ((lineWord l).target.getLsbD pc.slot) else none

/-- What becomes of a transfer to a byte address (R20, R24, R75, R77). -/
inductive Landing where
  | ok (pc : Pc)
  | unread (pc : Pc)                    -- its line fails its check (R22)
  | blocked (pc : Pc) (f : WalkFail)    -- its line has no translation (R447, R448)
  | illegal
  deriving DecidableEq, Repr

/-- The check of a transfer's destination (R22, R24, R75). It reads the slot's TARGET bit and the line's CRC alone: where the line's
reserved bits are set too, the transfer raises 0x03, and not 0x02 at the slot (R36; DESIGN CHOICE, log 166). -/
def State.landing (s : State) (w : Who) (a : W64) : Landing :=
  match Pc.ofAddr a with
  | none => .illegal
  | some pc =>
    if !lineOk pc.line then .illegal
    else
      match s.fetchLine w.g.ctx w.g.core pc.line with
      | .error f => .blocked pc f
      | .ok l =>
        if !lineCheckOk l then .unread pc
        else if (lineWord l).target.getLsbD pc.slot then .ok pc else .illegal

/-! ### Taking a cause (R437-R440) -/

/-- CR.CAUSE with the bit of a code, and its CR.TVAL kept; the first value of a pending code stands (R439). -/
def Group.pend (g : Group) (code : Nat) (tval : W64) : Group :=
  if g.cause.getLsbD code then g
  else { g with cause := g.cause ||| oneBit 64 code, pendTval := g.pendTval ++ [(code, tval)] }

/-- CR.TRAPVEC of the group's context. -/
def State.trapvec (s : State) (g : Group) : W64 := ((s.ctxs.get g.ctx).map (·.trapvec)).getD 0

/-- The handler's PC, or none where the entry fails (R24, R440); with it, whether its line is still to come, and its TARGET bit
to be checked then. -/
def State.handlerPc (s : State) (g : Group) : Option (Pc × Bool) :=
  let a := s.trapvec g
  if a = 0 then none
  else
    match Pc.ofAddr a with
    | none => none
    | some pc =>
      if !lineOk pc.line then none
      else
        match s.targetBit g.ctx g.core pc with
        | some false => none
        | some true => some (pc, false)
        | none => some (pc, true)

/-- Handler mode begins: the shadow, CR.EPC, CR.TVAL, CODE and HM are written, and the fragment continues at CR.TRAPVEC
(R437). The other fragments issue nothing while HM is 1. A replay point is that of the latest cause (R442). -/
def Group.enter (g : Group) (fid : Nat) (bobbin : Bool) (code : BitVec 8) (epc tval : W64) (pc : Pc × Bool) : Group :=
  { g.updFrag fid (fun f =>
      { f with pc := pc.1, status := .ready, byTransfer := pc.2, crcTries := 0, landTries := 0,
               retiredHere := f.retiredHere + 1, waitFrom := none, begun := false })
    with shadow := g.s.drop 56, epc := epc, tval := tval, code := code, hm := true,
         handling := some ⟨fid, bobbin⟩, replay := none }

/-- A delivery that fails: the group stops whole with its cause and 0x2D pending (R440). -/
def Group.failEntry (g : Group) (fid : Nat) (code : Nat) (epc tval : W64) : Group :=
  { ({ g with epc := epc, tval := tval }.pend code tval).pend 0x2D 0 with stopped := some fid }

/-- Handler mode ends without a return: s56 to s63 as they were (R409, R440). -/
def Group.endHandling (g : Group) : Group :=
  { g with s := g.s.take 56 ++ g.shadow, hm := false, handling := none }

/-- The fatal record of a handler entry that failed, with the pending bitmap (R440). -/
def Group.entryRecord (g : Group) : TrapRec :=
  { code := 0x2D, kind := .fatal, owner := .none, ctx := g.ctx, count := 1, id := 0, gva := 0, gpa := 0, core := g.core,
    slot := g.slot, data := g.cause.setWidth 32 }

/-- Fragments of a group leave the lists in which they wait in turn; what stood behind them on an octet is looked at again
(R203, R265, R267). -/
def State.leaveWaits (s : State) (gid : Nat) (p : Nat → Bool) : State :=
  match s.groups.get gid with
  | none => s
  | some g =>
    let mine (x : Nat × Nat × Nat) : Bool := x.2.1 == gid && p x.2.2
    let gone := s.rings.filter (fun r => r.gid == gid && p r.fid)
    let left := s.rings.filter (fun r => !(r.gid == gid && p r.fid))
    let behind := left.filter (fun r => gone.any (fun x => x.ctl == r.ctl))
    let s1 := State.updTeam
      (State.updCore (behind.foldl (fun s r => s.push (.ringWaitWake r.gid r.fid)) { s with rings := left }) g.core
        (fun c => { c with waiters := c.waiters.filter (fun x => !mine x) }))
      g.team (fun t => { t with waitingEnqs := t.waitingEnqs.filter (fun x => !(x.1 == gid && p x.2)) })
    if (match s.cores.get g.core with | some c => c.waiters.any mine | none => false) then
      s1.push (.growGrant g.core g.octet)
    else s1

/-- Fragments of a group that stop being ready leave the urgent lists (R220). -/
def State.dropUrgent (s : State) (gid : Nat) (p : Nat → Bool) : State :=
  match s.groups.get gid with
  | none => s
  | some g =>
    let keep (k : Nat × Nat) : Bool := !(k.1 == gid && p k.2)
    s.updCore g.core (fun c => { c with urgentC := c.urgentC.filter keep, urgentP := c.urgentP.filter keep })

/-- The copies of a group, batch by batch. -/
def Engines.copies (e : Engines) : List CopyOp := e.openBatch ++ e.closed.flatMap (·.2)

/-- The copies, gathers, scatters and collectives of a group are done; a refused one has stopped. -/
def Engines.quiet (e : Engines) : Bool :=
  e.copies.all (fun c => c.done || c.refused.isSome) && e.gth == 0 && e.coll == 0

/-- What a TRIG waits for: the group's accesses, its operations and those of its partner (R269). -/
def State.trigMet (s : State) (gid : Nat) (g : Group) : Bool :=
  s.ops.all (fun o => o.gid != gid) && g.eng.quiet &&
    (((g.partner.bind s.groups.get).map (fun p => p.eng.quiet)).getD true)

/-- A logged instruction of the group is done: what waited on it is looked at again. -/
def State.opGone (s : State) (core gid : Nat) : State :=
  let waits (k : Nat) (g : Group) (f : Frag) : Bool :=
    match f.status with
    | .waiting .hold => true
    | .waiting .fence => k == gid && s.ops.all (fun o => o.gid != gid)
    | .waiting .trig => s.trigMet k g
    | _ => false
  let hit := (s.groups.filter (fun e => e.2.core == core)).flatMap (fun e =>
    (e.2.frags.filter (waits e.1 e.2)).map (fun f => (e.1, f.id)))
  let s1 := hit.foldl (fun s x => s.wake x.1 x.2) s
  match s1.groups.get gid with
  | some g => if g.frags.any (fun f => f.status == .waiting .exit) then s1.push (.groupLeavesCore gid) else s1
  | none => s1

/-- The consumer registers of a group: CR.CPQ, CR.RED, CR.NET. -/
def Engines.withRegs (e : Engines) (r : EngineRegs) : Engines := { e with cpq := r.cpq, red := r.red, netAddr := r.net }

def Engines.regs (e : Engines) : EngineRegs := ⟨e.cpq, e.red, e.netAddr⟩

/-- A held load that will be issued again gives back the entries that it took, where they are the latest (R257, R259). -/
def State.giveBack (s : State) (o : MemOp) : State :=
  match o.owe with
  | none => s
  | some (before, after) =>
    s.updGroup o.gid (fun g => if g.eng.regs = after then { g with eng := g.eng.withRegs before } else g)

/-- The access at which a fragment waits is given up: the instruction is issued again where the handler returns
to it. -/
def State.dropWaiting (s : State) (gid fid : Nat) : State :=
  let mine (o : MemOp) : Bool := o.gid == gid && o.fid == fid && (o.whole || o.waits)
  match s.ops.find? mine with
  | none => s
  | some o => State.opGone { s.giveBack o with ops := s.ops.filter (fun o => !mine o) } o.core gid

/-- A cause raised in a fragment of a group that is not in handler mode, and in handler mode one that waits (R437, R439,
R440). `bobbin` adds 0x40 to CODE (R438). -/
def State.deliver (s : State) (gid fid : Nat) (code : Nat) (bobbin : Bool) (epc tval : W64) : State :=
  match s.groups.get gid with
  | none => s
  | some g =>
    if g.hm || g.stopped.isSome then s.setGroup gid (g.pend code tval)
    else
      match s.handlerPc g with
      | some pc =>
        (((s.setGroup gid (g.enter fid bobbin (BitVec.ofNat 8 (if bobbin then code + 0x40 else code)) epc tval pc)).leaveWaits
          gid (fun f => f == fid)).dropUrgent gid (fun _ => true)).dropWaiting gid fid
      | none =>
        let g' := (g.failEntry fid code epc tval).updFrag fid (fun f =>
          { f with status := .ready, waitFrom := none, begun := false })
        ((((s.setGroup gid g').leaveWaits gid (fun f => f == fid)).dropUrgent gid (fun _ => true)).dropWaiting gid fid).fatal
          g'.entryRecord

/-- The lowest slice of a set, 8 when empty. -/
def lowSlice (x : BitVec 8) : Nat := lowestOne x 0 8

/-- The fragment that holds the group's lowest-numbered slice among those that a fragment holds (R436, R438). -/
def Group.lowFrag : List Frag → Option Frag
  | [] => none
  | f :: t =>
    match Group.lowFrag t with
    | none => some f
    | some h => if lowSlice f.slices ≤ lowSlice h.slices then some f else some h

/-- A bobbin's cause: the bobbin stops whole, and its partner handles the cause or holds it pending (R438). -/
def State.deliverBobbin (s : State) (gid : Nat) (g : Group) (code : Nat) (tval : W64) : State :=
  match g.partner with
  | none => s
  | some pid =>
    match s.groups.get pid with
    | none => s
    | some p =>
      if p.hm || p.stopped.isSome then (s.setGroup gid { g.pend code tval with bobCause := some (code, tval) }).dropUrgent gid (fun _ => true)
      else
        match Group.lowFrag p.frags with
        | none => s
        | some f =>
          ((s.setGroup gid { g with bobCause := some (code, tval) }).dropUrgent gid (fun _ => true)).deliver pid f.id code
            true f.pc.addr tval

/-- A cause of one fragment, late or precise, by role (R437, R438). -/
def State.raiseIn (s : State) (gid fid : Nat) (code : Nat) (epc tval : W64) : State :=
  match s.groups.get gid with
  | none => s
  | some g => if g.access then s.deliverBobbin gid g code tval else s.deliver gid fid code false epc tval

/-! ### The whole-group abort (R399, R433) -/

/-- The execution causes, which abort an open region (R108). -/
def isExecutionCause (code : Nat) : Bool :=
  [0x07, 0x08, 0x0D, 0x10, 0x11, 0x12, 0x13, 0x17, 0x1A, 0x1B].contains code || (0x30 ≤ code && code ≤ 0x37)

/-- The registers of the checkpoint put back. -/
def restoreSaved (v : List Row) : List (Nat × Nat × W32) → List Row
  | [] => v
  | (n, l, x) :: t => restoreSaved (setAt [] v n (setAt 0 (v.getD n []) l x)) t

def Group.freshFrag (g : Group) (id : Nat) (pc : Pc) (fmt : W32) (stack : List Rec) : Frag :=
  { id := id, slices := ~~~g.exited, pc := pc, fmt := fmt, stack := stack, dormant := [], age := 0, status := .ready,
    byTransfer := false, crcTries := 0, landTries := 0, retiredHere := 0, waitFrom := none, begun := false,
    afterJoin := g.frags.any (·.afterJoin) }

/-- Pool blocks come free in an octet; waiting requests are looked at again (R159, R203). -/
def State.freeBlocks (s : State) (core octet n : Nat) : State :=
  (s.updCore core (fun c => { c with free := setAt 0 c.free octet (c.free.getD octet 0 + n) })).push (.growGrant core octet)

/-- The code and user byte in the outermost code register (R399). A handler that was entered in the region ends with it, and so
does the wait at a BAR (R403, R433); one in which the region was opened goes on at the abort label. DEDUCED (log 140). -/
def Group.aborted (g : Group) (t : TryRegion) (id code user : Nat) : Group :=
  { g with
    v := restoreSaved g.v t.saved,
    s := setAt 0 t.sregs t.codeReg (BitVec.ofNat 64 (code + 256 * user)),
    frags := [g.freshFrag id t.label t.fmt t.stack],
    tryR := none, hm := g.hm && t.hm,
    handling := if t.hm then g.handling.map (fun h => { h with fid := id }) else none,
    replay := if t.hm then g.replay else none,
    barWait := if t.hm then g.barWait else [] }

/-- The lowest pending cause of a group with its CR.TVAL, and the group without it (R439). -/
def Group.firstPending (g : Group) : Option (Nat × W64 × Group) :=
  if g.cause = 0 then none
  else
    let c := lowestOne g.cause 0 64
    some (c, ((g.pendTval.find? (fun e => e.1 == c)).map (·.2)).getD 0,
      { g with cause := g.cause &&& ~~~oneBit 64 c, pendTval := g.pendTval.filter (fun e => e.1 != c) })

/-- The cause that a compute group takes next: its own lowest, then its bobbin's (R439). -/
def State.takePending (s : State) (gid : Nat) : Option (Nat × W64 × Bool × State) :=
  match s.groups.get gid with
  | none => none
  | some g =>
    match g.firstPending with
    | some (c, tv, g') => some (c, tv, false, s.setGroup gid g')
    | none =>
      match g.partner with
      | none => none
      | some bid =>
        match s.groups.get bid with
        | none => none
        | some b =>
          if !b.access then none
          else
            match b.firstPending with
            | none => none
            | some (c, tv, b') => some (c, tv, true, s.setGroup bid { b' with bobCause := some (c, tv) })

/-- After an abort, causes left pending are delivered at the abort label, lowest first (R433). -/
def State.deliverPending (s : State) (gid fid : Nat) (epc : W64) : State :=
  match s.takePending gid with
  | none => s
  | some (c, tv, bobbin, s1) => s1.deliver gid fid c bobbin epc tv

/-- A handling has ended without HRET: what is pending, of the group or its bobbin, is delivered now (R438, R439). -/
def State.deliverHeld (s : State) (gid : Nat) : State :=
  match s.groups.get gid with
  | none => s
  | some g =>
    if g.hm || g.stopped.isSome || g.access then s
    else
      match Group.lowFrag g.frags with
      | none => s
      | some f => s.deliverPending gid f.id f.pc.addr

/-- Logged instructions that a refusal stalled are issued again (R438, R439). -/
def State.unstall (s : State) (gid : Nat) : State :=
  match s.groups.get gid with
  | none => s
  | some g => { s.updGroup gid (fun x => { x with stalled := [] }) with ops := s.ops ++ g.stalled }

/-- A bobbin whose cause its partner was handling resumes at its stopped instruction, once no cause of it is pending
(R438, R439). -/
def State.resumeBobbin (s : State) (g : Group) : State :=
  match g.partner with
  | none => s
  | some b =>
    if (match s.groups.get b with | some x => x.cause != 0 | none => true) then s
    else (s.updGroup b (fun x => { x with bobCause := none })).unstall b

/-- The group is back at its TRY with the registers, PCs and records of its checkpoint; its window shrinks to what it was, and a
pending cause is taken (R399, R433). -/
def State.abortGroup (s : State) (gid code user : Nat) (tval : Option W64) : State :=
  match s.groups.get gid with
  | none => s
  | some g =>
    match g.tryR with
    | none => s
    | some t =>
      let g' := g.aborted t s.nextId code user
      let g'' := { (match tval with | some x => { g' with tval := x } | none => g') with closed := some (t, code, s.clock) }
      let s1 := { (s.setGroup gid g'') with nextId := s.nextId + 1, ops := s.ops.filter (fun o => !(o.gid == gid && (o.whole || o.waits))) }
      let s1 := if s.ops.any (fun o => o.gid == gid && (o.whole || o.waits)) then s1.opGone g.core gid else s1
      let s2 := (s1.leaveWaits gid (fun _ => true)).freeBlocks g.core g.octet t.blocks
      let s3 := match g.handling with | some h => if h.bobbin && !t.hm then s2.resumeBobbin g else s2 | none => s2
      if g.hm && t.hm then s3 else (s3.unstall gid).deliverPending gid s.nextId t.label.addr

/-! ### The frame of every instruction form -/

/-- How an instruction form ends when it does not complete. -/
inductive Stop where
  /-- A precise cause (R17) with its CR.TVAL; none where the spec states no value. -/
  | cause (code : Nat) (tval : Option W64)
  /-- TRAP: as a precise cause, with CR.EPC at the next PC (R408). -/
  | trapNext (code : Nat) (tval : W64)
  /-- A whole-group abort of the open region (R399). -/
  | abort (code user : Nat) (tval : Option W64)
  /-- The fragment waits; the state holds what stands while it waits (R183). -/
  | wait (w : Wait) (s : State)
  /-- The engine is occupied: the fragment stays ready and starts later (R134, R137, R217). -/
  | busy
  deriving Repr

/-- The fragment waits at an instruction that has issued; the others are waits for its issue (R217). -/
def Wait.issued : Wait → Bool
  | .hold | .queue | .engine _ | .third _ _ _ | .fetch _ | .trapQueue => false
  | _ => true

/-- The instruction at a fragment's PC. -/
def State.instrAt (s : State) (gid fid : Nat) : Option Instr :=
  match s.who? gid fid with
  | none => none
  | some w =>
    match s.fetchLine w.g.ctx w.g.core w.f.pc.line with
    | .error _ => none
    | .ok l => (decode (lineSlot l w.f.pc.slot)).toOption

/-- A fragment waits; a held one does not begin to wait (R217), and an instruction that issues resets the ageing counter
(R219). -/
def State.setWaiting (s : State) (gid fid : Nat) (x : Wait) : State :=
  let i := if x.issued then s.instrAt gid fid else none
  s.updFrag gid fid (fun f =>
    { f with status := .waiting x, waitFrom := if x = .hold then f.waitFrom else f.waitFrom.orElse (fun _ => some s.clock),
             age := if x.issued then 0 else f.age, begun := f.begun || x.issued,
             pend := if x.issued && !f.begun then i else f.pend,
             retiredHere := if x.issued then f.retiredHere + 1 else f.retiredHere })

/-- The issue slot is used up: no fragment is chosen (R309). -/
def State.endIssue (s : State) : State := { s with cur := none }

/-- The fragment is its group's handler. -/
def Who.inHandler (w : Who) : Bool :=
  w.g.hm && !w.g.access && (match w.g.handling with | some h => h.fid == w.fid | none => true)

/-- A precise cause at the instruction at `epc` (R17, R108, R437-R439). In handler mode the handler continues at its next
instruction with the cause pending. -/
def State.raisePrecise (s : State) (w : Who) (code : Nat) (tval : Option W64) (epc : W64) : State :=
  let (tv, s1) := s.orFree tval
  if w.g.tryR.isSome && isExecutionCause code then s1.abortGroup w.gid 0x06 0 (some tv)
  else if w.inHandler then
    ((s1.leaveWaits w.gid (fun f => f == w.fid)).raiseIn w.gid w.fid code epc tv).advance w
  else (s1.updFrag w.gid w.fid (fun f => { f with age := 0 })).raiseIn w.gid w.fid code epc tv

/-- TRAP has issued (R33, R408, R453). -/
def State.trapIssued (s : State) (w : Who) : State :=
  if w.inHandler then s else (s.ticked w.gid w.fid).updGroup w.gid (fun g => { g with retired := g.retired + 1 })

/-- The state after an instruction form of the fragment `w`, from the state before it. -/
def settle (s : State) (w : Who) : Except Stop State → State
  | .ok s' => s'.endIssue
  | .error (.cause c tv) => (s.raisePrecise w c tv w.f.pc.addr).endIssue
  | .error (.trapNext c tv) => ((s.trapIssued w).raisePrecise w c (some tv) w.f.pc.next.addr).endIssue
  | .error (.abort c u tv) => (s.abortGroup w.gid c u tv).endIssue
  | .error (.wait x s') => (s'.setWaiting w.gid w.fid x).endIssue
  | .error .busy => s.endIssue

/-- An instruction form runs for the fragment that ISSUE_START chose. -/
def run (s : State) (body : Who → Except Stop State) : Host.Outcome State Fault Refusal :=
  match s.cur with
  | none => .fault .noIssuer
  | some i =>
    match s.who? i.gid i.fid with
    | none => .fault .noIssuer
    | some w => .next (settle s w (body w))

/-! ### Returning from a cause (R409, R439, R442) -/

/-- Where a return from a cause continues: at CR.EPC, or, where CR.EPC names the replay point, behind it, its instruction issued
again from its log entry (R409, R440, R442). Slices whose block ends there wake (R192). -/
def State.resumeAtEpc (s : State) (gid fid : Nat) : State :=
  match s.groups.get gid with
  | none => s
  | some g =>
    let back (pc : Frag → Pc) : Group :=
      { g.updFrag fid (fun f => (f.arrive (pc f)).issued) with replay := none }
    let plain : State := s.setGroup gid (back (fun f => (Pc.ofAddr g.epc).getD f.pc))
    match g.replay with
    | some (op, follow) =>
      if op.pc.addr = g.epc then
        let s1 := s.setGroup gid (back (fun _ => follow))
        { s1 with ops := s1.ops ++ [{ op with stage := .issued }] }
      else plain
    | none => plain

/-- HRET is younger than what its fragment has in flight, and the stopped fragments and the resumed instruction go on (R33, R439).
Only a return that names a BAR resumes it (R197). -/
def State.leaveHandler (s : State) (w : Who) (g : Group) : State :=
  let pc := (Pc.ofAddr g.epc).getD w.f.pc
  let bob := match g.handling with | some h => h.bobbin | none => false
  let s1 := if bob then s.resumeBobbin g else s
  let s2 : State := (s1.setGroup w.gid { g.endHandling with
      barWait := g.barWait.filter (fun b => b.pc == pc && !b.hm), retired := g.retired + 1 }).ticked w.gid w.fid
  (s2.unstall w.gid).resumeAtEpc w.gid w.fid

/-- The handler restarts at CR.TRAPVEC for one more pending cause (R439); where that fails handler mode ends and the group stops
(R440). A bobbin whose cause has been handled resumes (R438). -/
def State.redeliver (s : State) (w : Who) (g : Group) (code : BitVec 8) (bobbin : Bool) (tval : W64) : State :=
  let bob := match g.handling with | some h => h.bobbin | none => false
  match s.handlerPc g with
  | some pc =>
    let s1 := (s.setGroup w.gid
        { g.updFrag w.fid (fun f => { f.issued with pc := pc.1, byTransfer := pc.2 })
          with code := code, tval := tval, handling := some ⟨w.fid, bobbin⟩, retired := g.retired + 1 }).ticked w.gid w.fid
    if bob && !bobbin then s1.resumeBobbin g else s1
  | none =>
    let g' := g.endHandling.failEntry w.fid (code.toNat % 64) g.epc tval
    let s1 := ((s.setGroup w.gid g').dropUrgent w.gid (fun _ => true)).fatal g'.entryRecord
    if bob && !bobbin then s1.resumeBobbin g else s1

/-- HRET in handler mode with no region open: the lowest pending cause of the group, then of its bobbin, else the end of
handler mode (R409, R439). -/
def State.hret (s : State) (w : Who) : State :=
  match s.takePending w.gid with
  | none => s.leaveHandler w w.g
  | some (c, tv, bobbin, s1) =>
    s1.redeliver w ((s1.groups.get w.gid).getD w.g) (BitVec.ofNat 8 (if bobbin then c + 0x40 else c)) bobbin tv

/-- The line at CR.TRAPVEC has come and fails R24, or cannot come: the entry fails after all (R440). -/
def State.entryFails (s : State) (w : Who) : State :=
  let g' := w.g.endHandling.failEntry w.fid (w.g.code.toNat % 64) w.g.epc w.g.tval
  ((s.setGroup w.gid g').dropUrgent w.gid (fun _ => true)).fatal g'.entryRecord

/-- The fragment stands at its handler's entry, whose line has not been seen yet. -/
def Who.entering (w : Who) : Bool :=
  w.f.byTransfer && w.g.hm && (match w.g.handling with | some h => h.fid == w.fid | none => false)

end Sys2Proof.Machine
end

