-- ==== Sys2Proof/Machine/Space.lean ====
section
/-! DEFINITION. The generic address space: apertures and bounds, the region check, and the place of every byte (spec/21
R374; spec/04 R122, R124; spec/06 R162, R163; spec/24 R420). -/

namespace Sys2Proof.Machine

open Sys2Proof

/-- The aperture of an address, by bits [63:52] (R374). -/
inductive Aperture where | global | priv | core | cluster | chip | none deriving DecidableEq, Repr

def apertureOf (a : W64) : Aperture :=
  let n := a.toNat
  if n < 2 ^ 56 then .global
  else if n / 2 ^ 52 = 0xFF0 then .priv
  else if n / 2 ^ 52 = 0xFF1 then .core
  else if n / 2 ^ 52 = 0xFF2 then .cluster
  else if n / 2 ^ 52 = 0xFF3 then .chip
  else .none

/-- Where one byte lives (R227). -/
inductive Loc where
  | gva (a : Nat)                       -- a global byte, still to be translated
  | spa (a : Nat)                       -- a global byte by its system address
  | priv (slice off : Nat)              -- slice 32 × group + lane
  | vreg (gid n lane byte : Nat)
  | sreg (gid n byte : Nat)
  | sram (cluster task off : Nat)
  | bank (die bank off : Nat)
  deriving DecidableEq, Repr

/-- The group that accesses: what its addresses depend on. -/
structure Seat where
  gid : Nat
  lane : Nat
  g : Group
  launch : Launch
  deriving DecidableEq, Repr

def Launch.empty : Launch :=
  { entry := 0, gridX := 0, gridY := 0, gridZ := 0, ncomp := 0, nacc := 0, spread := 0, vregc := 0, vrega := 0,
    csram := 0, banks := 0, prio := 0, idem := false, hint := 0, done := 0, deps := [], reads := [], writes := [] }

def State.launchOf (s : State) (task : Nat) : Launch := ((s.tasks.get task).map (·.launch)).getD Launch.empty

def State.seat (s : State) (gid : Nat) (g : Group) (lane : Nat) : Seat := ⟨gid, lane, g, s.launchOf g.task⟩

/-- The group that WHO names, resident on the same core (R163). -/
def State.whoGroup (s : State) (seat : Seat) (who : Nat) : Option (Nat × Group) :=
  if who = 127 then some (seat.gid, seat.g)
  else if 64 ≤ who then none
  else
    match s.teams.get seat.g.team with
    | none => none
    | some t =>
      (t.groups.filterMap (fun k => (s.groups.get k).map (fun g => (k, g)))).find? (fun e =>
        e.2.index == who % 32 && e.2.access == decide (32 ≤ who) && e.2.core == seat.g.core && !e.2.dead)

/-- A byte of a group's window (R162). -/
def windowByte (gid : Nat) (g : Group) (off : Nat) : Option Loc :=
  if off < 1024 * g.blocks then some (.vreg gid (off / 128) (off % 128 / 4) (off % 4))
  else if 0x8000 ≤ off ∧ off < 0x8200 then some (.sreg gid ((off - 0x8000) / 8) (off % 8))
  else none

/-- An access of n bytes at `off` lies in one area of the window (R162). -/
def windowOk (g : Group) (off n : Nat) : Bool :=
  off + n ≤ 1024 * g.blocks || (0x8000 ≤ off && off + n ≤ 0x8200)

/-- Where the area of the window that holds an offset ends; the offset itself where none holds it (R162). -/
def windowEnd (g : Group) (off : Nat) : Nat :=
  if off < 1024 * g.blocks then 1024 * g.blocks else if 0x8000 ≤ off ∧ off < 0x8200 then 0x8200 else off

/-- WHO of a group for its team (R163). -/
def Group.who (g : Group) : Nat := if g.access then g.index + 32 else g.index

/-- The address reaches the window of the group itself, under either of its names (R163). -/
def Group.ownWindow (g : Group) (a : W64) : Bool :=
  apertureOf a == .core && (a.toNat / 2 ^ 16 % 128 == 127 || a.toNat / 2 ^ 16 % 128 == g.who)

/-- Registers that n bytes from a window address touch: vn as n, sn as 256 + n (R162). -/
def windowRegs (a : W64) (n : Nat) : List Nat :=
  let off := a.toNat % 2 ^ 16
  let touched (first width : Nat) : List Nat := ((List.range 256).filter (fun k =>
    first + width * k < off + n && off < first + width * (k + 1)))
  if off < 0x8000 then touched 0 128 else (touched 0x8000 8).map (256 + ·)

/-- The team of a group is resident, or draining. -/
def State.onCore (s : State) (g : Group) : Bool :=
  !g.dead && (match s.teams.get g.team with
    | some t => (match t.state with | .resident => true | .draining _ => true | _ => false)
    | none => false)

/-- The banks that a context holds on a die, in window-slot order (R348, R351). -/
def Ctx.banksOn (c : Ctx) (die : Nat) : List Nat := if c.home.toNat = die then c.held.units.bank else []

/-- The chip-scratchpad byte of an address (R374). -/
def State.chipByte (s : State) (seat : Seat) (a : Nat) : Option Loc :=
  if a / 2 ^ 42 % 2 ^ 10 ≠ 0 ∨ a / 2 ^ 26 % 2 ^ 14 ≠ 0 then none
  else
    let die := a / 2 ^ 40 % 4
    let slot := a / 2 ^ 18 % 256
    if seat.launch.banks ≤ slot then none
    else
      match s.ctxs.get seat.g.ctx with
      | none => none
      | some c => ((c.banksOn die)[slot]?).map (fun b => .bank die b (a % 2 ^ 18))

/-- The n consecutive numbers from a. -/
def range (a : Nat) : Nat → List Nat
  | 0 => []
  | n + 1 => a :: range (a + 1) n

/-- All of a list of options, or none. -/
def allSome {α : Type} : List (Option α) → Option (List α)
  | [] => some []
  | none :: _ => none
  | some x :: t => (allSome t).map (x :: ·)

/-- CR.LPEXT of a context. -/
def State.lpext (s : State) (ctx : Nat) : W64 :=
  match s.ctxs.get ctx with
  | some c => c.lpext
  | none => 0

/-- The bytes of an access of n bytes, after the aperture and bound checks of R122; else the cause. 0x12 comes before the region
check and before 0x0D where an access meets both. DEDUCED (log 122, 125). -/
def State.place (s : State) (seat : Seat) (addr : W64) (n : Nat) : Except Nat (List Loc) :=
  let a := addr.toNat
  match apertureOf addr with
  | .none => .error 0x12
  | .global => if 2 ^ 56 < a + n then .error 0x12 else .ok ((range a n).map .gva)
  | .priv =>
    let off := a % 2 ^ 52
    if 2 ^ 32 < off + n then .error 0x12
    else if (s.lpext seat.g.ctx).toNat < off + n then .error 0x0D
    else .ok ((range off n).map (.priv (32 * seat.gid + seat.lane)))
  | .core =>
    if a / 2 ^ 23 % 2 ^ 29 ≠ 0 then .error 0x13
    else
      match s.whoGroup seat (a / 2 ^ 16 % 128) with
      | none => .error 0x13
      | some (k, g) =>
        let off := a % 2 ^ 16
        if !windowOk g off n then .error 0x13
        else
          match allSome ((range off n).map (windowByte k g)) with
          | some l => .ok l
          | none => .error 0x13
  | .cluster =>
    let off := a % 2 ^ 52
    if 2 ^ 22 ≤ off ∨ seat.launch.csram < off + n then .error 0x13
    else .ok ((range off n).map (.sram (clusterNo seat.g.core) seat.g.task))
  | .chip =>
    match allSome ((range a n).map (s.chipByte seat)) with
    | some l => .ok l
    | none => .error 0x13

/-! ### Regions (R62, R63, R124, R420) -/

/-- The furthest end among the records that cover a byte; the byte itself where none does. -/
def coverEnd (l : List (W64 × W64)) (a : Nat) : Nat :=
  l.foldl (fun e r => if r.1.toNat ≤ a ∧ a < r.1.toNat + r.2.toNat then max e (r.1.toNat + r.2.toNat) else e) a

/-- Coverage followed from record to record, each used at most once. -/
def uncoveredFrom (l : List (W64 × W64)) (stop : Nat) : Nat → Nat → Option Nat
  | 0, a => if stop ≤ a then none else some a
  | k + 1, a =>
    if stop ≤ a then none
    else
      let e := coverEnd l a
      if e = a then some a else uncoveredFrom l stop k e

/-- The first of n bytes from a that no record covers. -/
def firstUncovered (l : List (W64 × W64)) (a n : Nat) : Option Nat := uncoveredFrom l (a + n) (l.length + 1) a

/-- The region check of an access of n global bytes (R124): 0x07 before 0x08, by the byte list. -/
def regionCause (l : Launch) (a n : Nat) (write : Bool) : Option Nat :=
  match firstUncovered (l.reads ++ l.writes) a n with
  | some _ => some 0x07
  | none => if write then (firstUncovered l.writes a n).map (fun _ => 0x08) else none

/-- What a checked access needs beyond its aperture. -/
structure AccessKind where
  bytes : Nat
  write : Bool
  atomic : Bool
  deriving DecidableEq, Repr

/-- The checks of R124 and R142 for one lane: the place of each byte, or the cause. -/
def State.checkLane (s : State) (seat : Seat) (addr : W64) (k : AccessKind) : Except Nat (List Loc) :=
  match s.place seat addr k.bytes with
  | .error c => .error c
  | .ok l =>
    if k.atomic && addr.toNat % k.bytes != 0 then .error 0x10
    else if k.atomic && apertureOf addr == .priv then .error 0x11
    else if apertureOf addr == .global then
      match regionCause seat.launch addr.toNat k.bytes k.write with
      | some c => .error c
      | none => .ok l
    else .ok l

/-- Every lane's check, lowest lane first; a failure carries the lane's address (R124). -/
def State.checkLanes (s : State) (gid : Nat) (g : Group) (k : AccessKind) : List LaneAccess → Except (Nat × W64) Unit
  | [] => .ok ()
  | x :: t =>
    match s.checkLane (s.seat gid g x.lane) x.addr k with
    | .error c => .error (c, x.addr)
    | .ok _ => State.checkLanes s gid g k t

/-! ### The checks of an engine operation (R249) -/

/-- The bytes of the chip-scratchpad window of the seat on a die (R374). -/
def State.chipBytes (s : State) (seat : Seat) (die : Nat) : Nat :=
  match s.ctxs.get seat.g.ctx with
  | some c => 2 ^ 18 * min seat.launch.banks (c.banksOn die).length
  | none => 0

/-- Aperture and bound of a range: the cause and the first failing byte (R249, step 1). -/
def State.rangeBound (s : State) (seat : Seat) (a : W64) (len : Nat) : Option (Nat × W64) :=
  let n := a.toNat
  match apertureOf a with
  | .none => some (0x12, a)
  | .global => if 2 ^ 56 < n + len then some (0x12, BitVec.ofNat 64 (2 ^ 56)) else none
  | .priv =>
    let off := n % 2 ^ 52
    if 2 ^ 32 ≤ off then some (0x12, a)
    else if 2 ^ 32 < off + len then some (0x12, a + BitVec.ofNat 64 (2 ^ 32 - off))
    else none
  | .core =>
    if n / 2 ^ 23 % 2 ^ 29 ≠ 0 then some (0x13, a)
    else
      match s.whoGroup seat (n / 2 ^ 16 % 128) with
      | none => some (0x13, a)
      | some (_, g) =>
        let off := n % 2 ^ 16
        let stop := windowEnd g off
        if stop ≤ off then some (0x13, a)
        else if stop < off + len then some (0x13, a + BitVec.ofNat 64 (stop - off))
        else none
  | .cluster =>
    let off := n % 2 ^ 52
    if seat.launch.csram ≤ off then some (0x13, a)
    else if seat.launch.csram < off + len then some (0x13, a + BitVec.ofNat 64 (seat.launch.csram - off))
    else none
  | .chip =>
    if n / 2 ^ 42 % 2 ^ 10 ≠ 0 ∨ n / 2 ^ 26 % 2 ^ 14 ≠ 0 then some (0x13, a)
    else
      let off := n % 2 ^ 26
      let bound := s.chipBytes seat (n / 2 ^ 40 % 4)
      if bound ≤ off then some (0x13, a)
      else if bound < off + len then some (0x13, a + BitVec.ofNat 64 (bound - off))
      else none

/-- The region check of a range of global bytes with its first failing byte (R249, step 4). -/
def regionFail (l : Launch) (a : W64) (len : Nat) (write : Bool) : Option (Nat × W64) :=
  match firstUncovered (l.reads ++ l.writes) a.toNat len with
  | some k => some (0x07, BitVec.ofNat 64 k)
  | none => if write then (firstUncovered l.writes a.toNat len).map (fun k => (0x08, BitVec.ofNat 64 k)) else none

/-- R249: the checks of one range, in order. -/
def State.engineCheck (s : State) (gid : Nat) (g : Group) (a : W64) (len : Nat) (write : Bool) : Option (Nat × W64) :=
  let seat := s.seat gid g 0
  match s.rangeBound seat a len with
  | some e => some e
  | none =>
    if apertureOf a = .priv ∨ apertureOf a = .core then some (0x14, a)
    else if 2 ^ 40 < len then some (0x14, a)
    else if apertureOf a = .global then regionFail seat.launch a len write
    else none

/-- The first failure among several. -/
def firstFail : List (Option (Nat × W64)) → Option (Nat × W64)
  | [] => none
  | none :: t => firstFail t
  | some e :: _ => some e

end Sys2Proof.Machine
end

