-- ==== Sys2Proof/Machine/Cache.lean ====
section
/-! DEFINITION. System memory with its poison, the L1s with dirty bytes, write-back and invalidation, and the reading and
writing of bytes at every level (spec/11 R227-R239; spec/06 R162; spec/26 R459). -/

namespace Sys2Proof.Machine

open Sys2Proof

/-! ### Homes and poison (R375, R459) -/

/-- The home die of a line: that of its page's record; where no record names the frame, the die of the context (log 13). -/
def State.homeDie (s : State) (ctx line : Nat) : Nat :=
  match s.mem.pages.find? (fun p => p.frame ≤ 128 * line && 128 * line < p.frame + p.size) with
  | some p => p.die
  | none => ((s.ctxs.get ctx).map (fun c => c.home.toNat)).getD 0

/-! ### The L2 slices (R348, R375-R377) -/

/-- The slice of a system address (R375). -/
def sliceOf (spa : Nat) : Nat :=
  (List.range 9).foldl (fun x k => x ^^^ (spa / 2 ^ (7 + 5 * k) % 32)) 0

/-- The set of a system address in its slice (R375). -/
def setOf (spa : Nat) : Nat := spa / 2 ^ 12 % 1024

/-- The slice that serves a slice number once slices have retired (R377). -/
def Die.serves (d : Die) (n : Nat) : Nat := if d.retiredSlices.contains n then n ^^^ 1 else n

/-- The ways of a die's slices that a context holds (R348). -/
def Ctx.waysOn (c : Ctx) (die : Nat) : List Nat := if c.home.toNat = die then c.held.units.way else []

/-- The ways in which a context allocates on a die: those it holds, but for those that it gives up in the release window; where it has
none, those that nobody holds (R348, R353). -/
def State.waysFor (s : State) (die ctx : Nat) : List Nat :=
  let kept (c : Ctx) (k : Nat) : Bool :=
    s.market.stage != .released || (c.moveTo.isNone && c.offer.isNone && c.next.units.way.contains k)
  let own := match s.ctxs.get ctx with | some c => (c.waysOn die).filter (kept c) | none => []
  if own.isEmpty then (range 0 16).filter (fun k => s.ctxs.all (fun e => !(e.2.waysOn die).contains k)) else own

/-- The way that a new line takes among the lines of its set, the least recently used first: a free one, else that of the
context's own oldest line, else that of the oldest line there (R376, log 19). -/
def freeWay (here : List L2Line) (ways : List Nat) (ctx : Nat) : Option Nat :=
  match ways.find? (fun k => here.all (fun x => x.way != k)) with
  | some k => some k
  | none =>
    match here.find? (fun x => ways.contains x.way && x.ctx == ctx) with
    | some x => some x.way
    | none => (here.find? (fun x => ways.contains x.way)).map (·.way)

/-- A slice of the home die reads a line, or writes it: a hit makes it the most recently used; a miss allocates it where the
context may allocate (R376). -/
def State.l2Use (s : State) (ctx : Nat) (dirty : Bool) (line : Nat) : State :=
  let die := s.homeDie ctx line
  match s.mem.l2.find? (fun x => x.die == die && x.line == line) with
  | some x => { s with mem := { s.mem with
      l2 := s.mem.l2.filter (fun y => !(y.die == die && y.line == line)) ++ [{ x with dirty := x.dirty || dirty }] } }
  | none =>
    let slice := match s.dies.get die with | some d => d.serves (sliceOf (128 * line)) | none => 0
    let at_ (x : L2Line) : Bool := x.die == die && x.slice == slice && x.set == setOf (128 * line)
    match freeWay (s.mem.l2.filter at_) (s.waysFor die ctx) ctx with
    | none => s
    | some k => { s with mem := { s.mem with
        l2 := s.mem.l2.filter (fun x => !(at_ x && x.way == k)) ++ [⟨die, slice, setOf (128 * line), k, line, ctx, dirty⟩] } }

def State.l2Lines (s : State) (ctx : Nat) (dirty : Bool) (lines : List Nat) : State :=
  lines.foldl (fun s k => s.l2Use ctx dirty k) s

/-- Lines leave the slices, written back (R353, R376). -/
def State.l2Drop (s : State) (p : L2Line → Bool) : State :=
  { s with mem := { s.mem with l2 := s.mem.l2.filter (fun x => !p x) } }

/-- A key that names a byte in one numbering of all levels: level tag and number. -/
def Loc.key : Loc → Nat × Nat
  | .gva a => (9, a)
  | .spa a => (0, a)
  | .priv k off => (1, k * 2 ^ 32 + off)
  | .vreg g n l b => (2, g * 2 ^ 16 + 128 * n + 4 * l + b)
  | .sreg g n b => (2, g * 2 ^ 16 + 0x8000 + 8 * n + b)
  | .sram c t off => (3, (c * 2 ^ 32 + t) * 2 ^ 22 + off)
  | .bank d b off => (4, (d * 256 + b) * 2 ^ 18 + off)

def Poison.holds (p : Poison) (l : Loc) : Bool := p.level == l.key.1 && p.line == l.key.2 / 128

/-- A written byte sets its bit in its line's mask; a full mask ends the poison. -/
def markWritten (ps : List Poison) (l : Loc) : List Poison :=
  (ps.map (fun p => if p.holds l then { p with mask := setAt false p.mask (l.key.2 % 128) true } else p)).filter
    (fun p => !p.mask.all id)

def isPoisoned (ps : List Poison) (l : Loc) : Bool := ps.any (fun p => p.holds l && !(p.mask.getD (l.key.2 % 128) false))

/-- A write at its point of coherence ends the poison of a byte. -/
def MemSys.mark (m : MemSys) (l : Loc) : MemSys :=
  { m with poison := if m.poison.isEmpty then [] else markWritten m.poison l }

/-- One byte performed at its point of coherence. -/
def MemSys.put (m : MemSys) (spa : Nat) (b : Byte) : MemSys :=
  MemSys.mark { m with sys := m.sys.write spa b } (.spa spa)

def MemSys.putL (m : MemSys) (spa : Nat) : List Byte → MemSys
  | [] => m
  | b :: t => MemSys.putL (m.put spa b) (spa + 1) t

/-- The dirty bytes of a copy performed at home. -/
def MemSys.putDirty (m : MemSys) (spa : Nat) : List Byte → List Bool → MemSys
  | b :: t, d :: u => MemSys.putDirty (if d then m.put spa b else m) (spa + 1) t u
  | _, _ => m

def MemSys.flush (m : MemSys) (l : L1Line) : MemSys := m.putDirty (128 * l.line) l.bytes l.dirty

/-! ### L1 lines (R237) -/

def Core.copy? (c : Core) (line : Nat) : Option L1Line := c.l1.find? (fun l => l.line == line)

/-- The core has touched the line at home (R228); entries too old to bound a peer's copy go. -/
def Core.touchHome (c : Core) (line : Nat) (now : W64) : Core :=
  { c with seen := Table.set (c.seen.filter (fun e => now.toNat - e.2.toNat < 115200)) line now }

def State.noteSeen (s : State) (core : Nat) (lines : List Nat) : State :=
  lines.foldl (fun s k => s.updCore core (fun c => c.touchHome k s.clock)) s

def Core.drop (c : Core) (line : Nat) : Core := { c with l1 := c.l1.filter (fun l => l.line != line) }

def L1Line.isDirty (l : L1Line) : Bool := l.dirty.any id

def L1Line.cleaned (l : L1Line) : L1Line := { l with dirty := List.replicate 128 false, writers := [] }

/-- The granules of a region's load tables; one that ALIAS dropped in this cycle still meets a CONFLICT (R396, R403). -/
def TryRegion.watched (t : TryRegion) (now : W64) : List (Nat × W64) :=
  t.loads.map (·.2) ++ (t.aliased.filter (fun x => x.2.2 == now)).map (fun x => (x.1, x.2.1))

/-- The granules that a group's region watches, or one that an abort of a higher code than CONFLICT's has closed in this cycle: of the
codes of a cycle the lowest is written (R403). -/
def Group.watched (g : Group) (now : W64) : List (Nat × W64) :=
  match g.tryR, g.closed with
  | some t, _ => t.watched now
  | none, some (t, code, at_) => if at_ = now ∧ 3 < code then t.watched now else []
  | none, none => []

/-- Groups of a core whose load tables hold a granule of the line (R396, R431). -/
def State.conflictsAt (s : State) (core line : Nat) : List Nat :=
  (s.groups.filter (fun e => e.2.core == core && !e.2.dead &&
    (e.2.watched s.clock).any (fun x => x.1 == 0 && x.2.toNat / 16 == line))).map (·.1)

def State.pushConflicts (s : State) (gids : List Nat) : State :=
  gids.foldl (fun s g => s.push (.conflict g)) s

/-- The dirty bytes of a copy performed at home, in its slice. -/
def State.flushCopy (s : State) (l : L1Line) : State :=
  let s1 := { s with mem := s.mem.flush l }
  if l.isDirty then s1.l2Use l.ctx true l.line else s1

/-- A copy leaves one L1; its dirty bytes are performed at home, so that no store is lost (log 35). -/
def State.leaveL1 (s : State) (core line : Nat) : State :=
  match s.cores.get core with
  | none => s
  | some c =>
    match c.copy? line with
    | none => s
    | some l =>
      (s.flushCopy l).updCore core (fun c => (if l.isDirty then c.touchHome line s.clock else c).drop line)

/-- A copy is invalidated, which a region that has loaded from it learns (R396). -/
def State.dropCopy (s : State) (core line : Nat) : State :=
  if (match s.cores.get core with | some c => (c.copy? line).isSome | none => false) then
    (s.leaveL1 core line).pushConflicts (s.conflictsAt core line)
  else s

/-- The cores of a die. -/
def State.coresOf (s : State) (die : Nat) : List Nat := (s.cores.map (·.1)).filter (fun k => coreDie k == die)

/-- Every copy of a line in the L1s of its home die goes, but one core's (R237). -/
def State.invalidateHome (s : State) (ctx line : Nat) (except : Option Nat) : State :=
  ((s.coresOf (s.homeDie ctx line)).filter (fun k => some k != except)).foldl (fun s k => s.dropCopy k line) s

/-- Another core of the line's home die holds dirty bytes of it. -/
def State.dirtyElsewhere (s : State) (ctx line core : Nat) : Bool :=
  (s.coresOf (s.homeDie ctx line)).any (fun k => k != core &&
    (match (s.cores.get k).bind (fun c => c.copy? line) with | some l => l.isDirty | none => false))

/-- A write-back of one line: every copy in the other L1s of its home die goes (R237). The copy stays, clean, unless another
core's dirty bytes were performed with it: each of those write-backs takes this copy. -/
def State.writeBack (s : State) (core line : Nat) : State :=
  match s.cores.get core with
  | none => s
  | some c =>
    match c.copy? line with
    | none => s
    | some l =>
      if l.isDirty then
        let s1 := s.invalidateHome l.ctx line (some core)
        if s.dirtyElsewhere l.ctx line core then s1.dropCopy core line
        else
          (s1.flushCopy l).updCore core (fun c =>
            { c.touchHome line s.clock with l1 := c.l1.map (fun x => if x.line == line then x.cleaned else x) })
      else s

/-- A copy leaves an L1, written back first. -/
def State.evictCopy (s : State) (core line : Nat) : State := (s.writeBack core line).dropCopy core line

/-- The bytes of an L1: its reserve of 64 KiB and every pool block not granted (R158). -/
def Core.l1Capacity (c : Core) : Nat := 512 + 8 * c.free.foldl (· + ·) 0

/-- Lines over an L1's capacity leave it, oldest fill first (R159): no invalidation of R237, and no CONFLICT (R396). -/
def State.shrinkL1 (s : State) (core : Nat) : Nat → State
  | 0 => s
  | k + 1 =>
    match s.cores.get core with
    | none => s
    | some c =>
      if c.l1.length ≤ c.l1Capacity then s
      else
        match c.l1 with
        | [] => s
        | l :: _ => State.shrinkL1 ((s.writeBack core l.line).leaveL1 core l.line) core k

/-- The bytes of a line as its point of coherence holds them. -/
def State.homeLine (s : State) (line : Nat) : List Byte := s.mem.sys.readN (128 * line) 128

/-- The index of a line in the table that predicts its peer: SPA[14:7] (R378). -/
def peerIndex (line : Nat) : Nat := line % 256

/-- The cluster that the core's table predicts for a line, none where that is its own (R378); an entry not filled yet names the
die's cluster 0 (log 141). -/
def State.peerOf (s : State) (core line : Nat) : Option Nat :=
  match s.cores.get core with
  | none => none
  | some c =>
    let k := (c.peers.get (peerIndex line)).getD (22 * coreDie core)
    if k = clusterNo core then none else some k

/-- The probed cluster's cores note who asked for the line (R378). -/
def State.notePeer (s : State) (core line : Nat) : State :=
  match s.peerOf core line with
  | none => s
  | some k => { s with cores := s.cores.map (fun (e : Nat × Core) =>
      if clusterNo e.1 = k then (e.1, { e.2 with peers := Table.set e.2.peers (peerIndex line) (clusterNo core) }) else e) }

/-- A clean copy of the same context in the L1 of the predicted cluster of the die, filled less than 64 µs ago (R378), and no
older than what this core has seen of the line (R228). -/
def State.peerCopy (s : State) (core ctx line : Nat) : Option L1Line :=
  match s.cores.get core with
  | none => none
  | some me =>
    (s.cores.filter (fun e => coreDie e.1 == coreDie core && some (clusterNo e.1) == s.peerOf core line)).findSome? (fun e =>
      e.2.l1.find? (fun l => l.line == line && l.ctx == ctx && !l.isDirty &&
        s.clock.toNat - l.filled.toNat < 115200 && me.peersFrom.toNat ≤ l.filled.toNat &&
        (match me.seen.get line with | some t => t.toNat < l.filled.toNat | none => true)))

/-- The line is present in the L1 after a fill, from a peer for .ro or from home (R237, R378). A forwarded line keeps the time
of the peer's fill. -/
def State.ensure (s : State) (core ctx line : Nat) (ro : Bool) : State :=
  match s.cores.get core with
  | none => s
  | some c =>
    match c.copy? line with
    | some _ => s
    | none =>
      let (new, s1) : L1Line × State :=
        match (if ro then s.peerCopy core ctx line else none) with
        | some l => ({ l with written := s.clock }, s)
        | none => (⟨line, s.homeLine line, List.replicate 128 false, ctx, s.clock, s.clock, []⟩, s.l2Use ctx false line)
      ((if ro then s1.notePeer core line else s1).updCore core (fun c => { c.touchHome line new.filled with l1 := c.l1 ++ [new] })).shrinkL1 core 1

/-- A byte as the core sees it: its L1's copy, else home. -/
def State.sysByte (s : State) (core spa : Nat) : Byte :=
  match (s.cores.get core).bind (fun c => c.copy? (spa / 128)) with
  | some l => l.bytes.getD (spa % 128) 0
  | none => s.mem.sys.read spa

/-- The byte is poison for this core: poisoned at home and not overlaid by a dirty byte of its L1 (R459). -/
def State.poisonFor (s : State) (core : Nat) (x : Loc) : Bool :=
  isPoisoned s.mem.poison x &&
    (match x with
     | .spa spa =>
       match (s.cores.get core).bind (fun c => c.copy? (spa / 128)) with
       | some l => !(l.dirty.getD (spa % 128) false)
       | none => true
     | _ => true)

/-- A dirty byte in the L1. -/
def State.l1Put (s : State) (core spa : Nat) (b : Byte) : State :=
  s.updCore core (fun c =>
    { c with l1 := c.l1.map (fun l =>
        if l.line == spa / 128 then
          { l with bytes := setAt 0 l.bytes (spa % 128) b, dirty := setAt false l.dirty (spa % 128) true,
                   written := if l.isDirty then l.written else s.clock }
        else l) })

/-! ### Bytes at every level (R227) -/

def byteOf {n : Nat} (x : BitVec n) (k : Nat) : Byte := BitVec.ofNat 8 (x.toNat >>> (8 * k))

/-- The value with byte k replaced. -/
def withByte {n : Nat} (x : BitVec n) (k : Nat) (b : Byte) : BitVec n :=
  (x &&& ~~~(BitVec.ofNat n (255 <<< (8 * k)))) ||| BitVec.ofNat n (b.toNat <<< (8 * k))

def memOf (t : Table Mem) (k : Nat) : Mem := (t.get k).getD []

/-- A byte read at its level. -/
def State.readLoc (s : State) (core : Nat) : Loc → Byte
  | .gva _ => 0
  | .spa a => s.sysByte core a
  | .priv k off => (memOf s.mem.priv k).read off
  | .vreg g n l b => match s.groups.get g with | some x => byteOf (x.lane n l) b | none => 0
  | .sreg g n b => match s.groups.get g with | some x => byteOf (x.s? n) b | none => 0
  | .sram c t off => match s.clusters.get c with | some x => (memOf x.sram t).read off | none => 0
  | .bank d b off => match s.dies.get d with | some x => (memOf x.banks b).read off | none => 0

/-- A byte written at its level; a global byte goes to the L1 when `cached`, and to its home otherwise. -/
def State.writeLoc (s : State) (core : Nat) (cached : Bool) (l : Loc) (b : Byte) : State :=
  match l with
  | .gva _ => s
  | .spa a => if cached then s.l1Put core a b else { s with mem := s.mem.put a b }
  | .priv k off => { s with mem := { s.mem with priv := s.mem.priv.set k ((memOf s.mem.priv k).write off b) } }
  | .vreg g n ln k =>
    s.updGroup g (fun x =>
      { x with v := setAt [] x.v n (setAt 0 (x.row n) ln (withByte (x.lane n ln) k b)),
               written := addMark x.written (8 * n + ln / 4) })
  | .sreg g n k => s.updGroup g (fun x => x.setS n (withByte (x.s? n) k b))
  | .sram c t off =>
    State.updCluster { s with mem := s.mem.mark l } c (fun x => { x with sram := x.sram.set t ((memOf x.sram t).write off b) })
  | .bank d k off =>
    State.updDie { s with mem := s.mem.mark l } d (fun x => { x with banks := x.banks.set k ((memOf x.banks k).write off b) })

/-- The distinct lines among system bytes. -/
def linesOf (l : List Loc) : List Nat :=
  l.foldl (fun a x => match x with
    | .spa p => if a.contains (p / 128) then a else a ++ [p / 128]
    | _ => a) []

def State.ensureAll (s : State) (core ctx : Nat) (ro : Bool) (lines : List Nat) : State :=
  lines.foldl (fun s k => s.ensure core ctx k ro) s

/-- Bytes read by a core's plain access: lines are filled, unless the hint passes the L1 by (R28). -/
def State.readBytes (s : State) (core ctx : Nat) (hint : Hint) (ro : Bool) (l : List Loc) : List Byte × State :=
  let s1 := if hint = .bypass then (s.noteSeen core (linesOf l)).l2Lines ctx false (linesOf l) else s.ensureAll core ctx ro (linesOf l)
  (l.map (s1.readLoc core), s1)

def State.writeList (s : State) (core : Nat) (cached : Bool) : List Loc → List Byte → State
  | l :: t, b :: u => State.writeList (s.writeLoc core cached l b) core cached t u
  | _, _ => s

/-- Regions of other groups of the core that hold one of these bytes' granules (R396). -/
def State.storeConflicts (s : State) (core gid : Nat) (l : List Loc) : List Nat :=
  (s.groups.filter (fun e => e.1 != gid && e.2.core == core && !e.2.dead &&
    (e.2.watched s.clock).any (fun x => l.any (fun y => x.1 == y.key.1 && x.2.toNat == y.key.2 / 8)))).map (·.1)

/-- A line that a write at home touches: copies of the home die, and the writer's own, go first (R237). -/
def State.prepareHome (s : State) (core ctx : Nat) (own : Bool) (lines : List Nat) : State :=
  lines.foldl (fun s k =>
    let s1 := if own then (s.evictCopy core k).noteSeen core [k] else s
    (s1.invalidateHome ctx k none).l2Use ctx true k) s

/-- The group's stores are among the dirty bytes of these lines of its core's L1 (R131). -/
def State.noteWriter (s : State) (core gid : Nat) (lines : List Nat) : State :=
  s.updCore core (fun c => { c with l1 := c.l1.map (fun x =>
    if lines.contains x.line then { x with writers := addMark x.writers gid } else x) })

/-- Bytes written by a core's plain store: into the L1, or at home where the hint passes it by and no copy is held. -/
def State.writeBytes (s : State) (core ctx gid : Nat) (hint : Hint) (l : List Loc) (b : List Byte) : State :=
  let s0 := s.pushConflicts (s.storeConflicts core gid l)
  if hint = .bypass then
    (s0.prepareHome core ctx true (linesOf l)).writeList core false l b
  else
    ((s0.ensureAll core ctx false (linesOf l)).writeList core true l b).noteWriter core gid (linesOf l)

/-- Bytes performed at their point of coherence: a group's atomics (`own`), engines, hosts, the front end (R237, R241). A write of
the latter meets a region only where it takes a line from its core's L1 (R239, R396). -/
def State.writeHome (s : State) (core ctx gid : Nat) (own : Bool) (l : List Loc) (b : List Byte) : State :=
  ((s.pushConflicts (if own then s.storeConflicts core gid l else [])).prepareHome core ctx own (linesOf l)).writeList core false l b

/-- A line becomes poisoned: no byte has been written since; a new poisoning places an information record (R459). -/
def State.poisonLine (s : State) (ctx : Nat) (x : Loc) : State :=
  let old := s.mem.poison.any (fun p => p.holds x)
  let die := match x with
    | .spa a => s.homeDie ctx (a / 128)
    | .sram c _ _ => c / 22
    | .bank d _ _ => d
    | _ => 0
  let s1 := { s with mem := { s.mem with
    poison := s.mem.poison.filter (fun p => !p.holds x) ++ [⟨x.key.1, x.key.2 / 128, List.replicate 128 false, die⟩] } }
  if old then s1
  else
    let gpa : Nat := match x with | .spa a => a / 128 * 128 | _ => 0
    let r : TrapRec :=
      { code := 0, kind := .information, owner := .none, ctx := ctx, count := 1, id := 0, gva := 0,
        gpa := BitVec.ofNat 64 gpa, core := 0, slot := 0, data := BitVec.ofNat 32 die }
    { s1 with mgmt := { s1.mgmt.addInformation r with poisonings := countUp s1.mgmt.poisonings die } }

/-- A byte read at its point of coherence (R241). -/
def State.homeByte (s : State) (l : Loc) : Byte :=
  match l with
  | .spa a => s.mem.sys.read a
  | _ => s.readLoc 0 l

/-- One step at home that adds to an 8-byte counter: the value it reads is the one just before its write (R237). -/
def State.addHome (s : State) (core ctx gid : Nat) (l : List Loc) (x : Nat) : State :=
  let s1 := s.prepareHome core ctx false (linesOf l)
  s1.writeHome core ctx gid false l (natBytes 8 (bytesNat (l.map s1.homeByte) + x))

/-! ### Cleaning and invalidation (R131, R237, R238) -/

/-- Every dirty line of a group in a core's L1 is written back (a release at die scope or wider, R131). -/
def State.cleanCore (s : State) (core gid : Nat) : State :=
  match s.cores.get core with
  | none => s
  | some c =>
    ((c.l1.filter (fun l => l.isDirty && l.writers.contains gid)).map (·.line)).foldl (fun s k => s.writeBack core k) s

/-- The same for the stores of the whole team, which a release at team scope has published to a group that shares its L1: an
operation that the group starts comes after them (R234, R238, R241). -/
def State.cleanTeam (s : State) (core gid : Nat) : State :=
  let mates := match (s.groups.get gid).bind (fun g => s.teams.get g.team) with | some t => t.groups | none => []
  mates.foldl (fun s k => s.cleanCore core k) (s.cleanCore core gid)

/-- A copy of another die's line leaves the L1. -/
def State.dropStale (s : State) (core line : Nat) : State :=
  match (s.cores.get core).bind (fun c => c.copy? line) with
  | some l => if s.homeDie l.ctx line != coreDie core then s.evictCopy core line else s
  | none => s

/-- Lines of other dies leave the L1, and no peer's older copy answers a probe (an acquire at die scope or wider, R131,
R236). -/
def State.dropForeign (s : State) (core : Nat) : State :=
  match s.cores.get core with
  | none => s
  | some c =>
    (((c.l1.filter (fun l => s.homeDie l.ctx l.line != coreDie core)).map (·.line)).foldl
      (fun s k => s.evictCopy core k) s).updCore core (fun c => { c with peersFrom := s.clock })

/-- A scope that reaches beyond one L1 on the global level (R238). -/
def State.wide (s : State) (g : Group) : Scope → Bool
  | .group => false
  | .team => decide ((s.launchOf g.task).spread ≠ 1)
  | _ => true

/-- The cleaning of a release (R131, R238). -/
def State.release (s : State) (gid : Nat) (g : Group) (sc : Scope) : State :=
  if s.wide g sc then s.cleanCore g.core gid else s

/-- The invalidation of an acquire (R131, R238). -/
def State.acquire (s : State) (g : Group) (sc : Scope) : State :=
  if s.wide g sc then s.dropForeign g.core else s

/-! ### Resolution of global bytes -/

/-- Global bytes to system bytes, one TLB entry serving as many as it covers. -/
def State.resolve (s : State) (ctx core : Nat) (need : Need) : List Loc → Option TlbEntry →
    Except (Nat × WalkFail) (List Loc)
  | [], _ => .ok []
  | .gva a :: t, e =>
    match (match e with | some x => if x.covers ctx a then Except.ok x else s.translate ctx core a need
                        | none => s.translate ctx core a need) with
    | .error f => .error (a, f)
    | .ok x =>
      match State.resolve s ctx core need t (some x) with
      | .error f => .error f
      | .ok r => .ok (.spa (x.apply a) :: r)
  | l :: t, e =>
    match State.resolve s ctx core need t e with
    | .error f => .error f
    | .ok r => .ok (l :: r)

/-! ### Pages that are accessed (R384, R385) -/

def Page.has (p : Page) (spa : Nat) : Bool := p.frame ≤ spa && spa < p.frame + p.size

/-- The page records of the bytes count as accessed in the interval (R385); a far page is counted where some of its bytes come
from the far tier (R384). -/
def touchPages (pages : List Page) (spas missing : List Nat) : List Page :=
  pages.map (fun p =>
    if spas.any p.has then
      { p with accessed := true,
               farHits := if p.state = .far && missing.any p.has then p.farHits + 1 else p.farHits }
    else p)

/-- Neither the core's L1 nor a slice holds the line of the byte. -/
def State.missesAll (s : State) (core spa : Nat) : Bool :=
  ((s.cores.get core).bind (fun c => c.copy? (spa / 128))).isNone && s.mem.l2.all (fun x => x.line != spa / 128)

def State.touch (s : State) (core : Nat) (l : List Loc) : State :=
  if s.mem.pages.isEmpty then s
  else
    let spas := l.filterMap (fun x => match x with | .spa a => some a | _ => none)
    let pages := touchPages s.mem.pages spas (spas.filter (s.missesAll core))
    let hot := ((range 0 pages.length).filter (fun k =>
      match pages[k]?, s.mem.pages[k]? with
      | some p, some q => p.state = .far && p.farHits = 64 && q.farHits < 64
      | _, _ => false))
    hot.foldl (fun s k => s.push (.farAccessPromotion k)) { s with mem := { s.mem with pages := pages } }

/-- The number of no core: engines, hosts, walks and the front end read past every L1 (R241). -/
def noCore : Nat := 704

/-- A line read for a fetch or a walk: its page counts as accessed, on the far tier towards its promotion, and its slice reads it
(R376, R384, R385). -/
def State.fetchUse (s : State) (ctx spa : Nat) : State := (s.touch noCore [.spa spa]).l2Use ctx false (spa / 128)

/-- The guest physical address of a GVA. -/
def State.gpaOf (s : State) (ctx core gva : Nat) : Option Nat :=
  match s.ctxs.get ctx with
  | none => none
  | some c =>
    ((walk1 s.mem (s.nestedTlb (coreDie core)) ctx c.root2.toNat gva c.root1.toNat level0 levelsBelow).toOption).map
      (fun l => l.apply gva)

/-- The GPAs of the stage-1 entries that the walk of a GVA reads. -/
def State.walkGpas (s : State) (ctx core gva : Nat) : List Nat :=
  match s.ctxs.get ctx with
  | none => []
  | some c => tableGpas s.mem (s.nestedTlb (coreDie core)) ctx c.root2.toNat gva c.root1.toNat level0 levelsBelow

/-- The GPA to SPA translation that holds a GPA, whatever its permissions (R446). -/
def State.nestedEntry (s : State) (ctx core gpa : Nat) : Option TlbEntry :=
  match s.ctxs.get ctx with
  | none => none
  | some c =>
    ([Need.load, .store, .fetch].findSome? (fun need =>
      (gpaToSpa s.mem (s.nestedTlb (coreDie core)) ctx c.root2.toNat gpa need).toOption)).map (fun l2 =>
        ⟨ctx, gpa / l2.size * l2.size, l2.size, l2.apply gpa / l2.size * l2.size, l2.x, l2.w, l2.r⟩)

/-- A translation that an access used is cached in the core and cluster TLBs; the oldest entry gives way (R446). -/
def addTlb (l : List TlbEntry) (e : TlbEntry) (cap : Nat) : List TlbEntry :=
  if l.contains e then l else (if l.length < cap then l else l.drop 1) ++ [e]

/-- A frame that no page record names gets one: a near page of the context, at home on its home die (R375, log 13). -/
def State.notePage (s : State) (n : TlbEntry) : State :=
  if s.mem.pages.any (fun p => p.frame < n.frame + n.size && n.frame < p.frame + p.size) then s
  else { s with mem := { s.mem with pages := s.mem.pages ++
    [{ ctx := n.ctx, gpa := n.base, size := n.size, frame := n.frame, die := ((s.ctxs.get n.ctx).map (fun c => c.home.toNat)).getD 0,
       state := .near, age := 0, accessed := false, farHits := 0, pinned := false, queued := [], remote := none }] } }

/-- The page of a GPA is known, and the nested TLB of a die holds it if `walked` (R383, R446). -/
def State.noteGpa (s : State) (ctx core : Nat) (walked : Bool) (gpa : Nat) : State :=
  match s.nestedEntry ctx core gpa with
  | none => s
  | some n =>
    let s1 := s.notePage n
    if walked then s1.updDie (coreDie core) (fun d => { d with nested := addTlb d.nested n 4096 }) else s1

/-- The stage-2 reads of a GPA, where the nested TLB of the die does not hold it (R443, R446). -/
def State.walkUse2 (s : State) (ctx core gpa : Nat) : State :=
  match s.ctxs.get ctx with
  | none => s
  | some c =>
    if (s.nestedTlb (coreDie core)).any (fun e => e.covers ctx gpa) then s
    else (tableSpas s.mem.sys gpa c.root2.toNat level0 levelsBelow).foldl (fun s a => s.fetchUse ctx a) s

/-- A walk reads a stage-1 entry: at the end of its own stage-2 walk, through the slice of its home (R376, R385, R446). -/
def State.walkUse (s : State) (ctx core gpa : Nat) : State :=
  match s.nestedEntry ctx core gpa with
  | none => s
  | some n => (s.walkUse2 ctx core gpa).fetchUse ctx (n.frame + gpa % n.size)

/-- The reads of a whole walk: the stage-1 entries, then the stage-2 walk of the result. -/
def State.walkReads (s : State) (ctx core gva : Nat) : State :=
  (s.gpaOf ctx core gva).toList.foldl (fun s a => s.walkUse2 ctx core a)
    ((s.walkGpas ctx core gva).foldl (fun s a => s.walkUse ctx core a) s)

/-- The pages that an access of whatever agent to a GVA uses are known to the tiers (R375, R383); where no TLB answers it, its walk
reads their tables. -/
def State.noteGva (s : State) (ctx core gva : Nat) : State :=
  let s1 := ((s.gpaOf ctx core gva).toList ++ s.walkGpas ctx core gva).foldl (fun s a => s.noteGpa ctx core false a) s
  if (s.tlbs core).any (fun e => e.covers ctx gva) then s1 else s1.walkReads ctx core gva

/-- The pages of a range, one look for each 64 KiB. -/
def State.noteRange (s : State) (ctx core : Nat) : Nat → Nat → Nat → State
  | 0, _, _ => s
  | k + 1, a, stop =>
    if stop ≤ a then s else State.noteRange (s.noteGva ctx core a) ctx core k (a / 65536 * 65536 + 65536) stop

/-- What an access to a GVA leaves in the TLBs: where no TLB answered it, the walk fills the core's and the cluster's, and the
nested TLB of the die with every GPA of the walk (R446). -/
def State.cacheTlb (s : State) (ctx core gva : Nat) (need : Need) : State :=
  match s.translate ctx core gva need with
  | .error _ => s
  | .ok e =>
    if (tlbHit (s.tlbs core) ctx gva need).isSome then s.noteGva ctx core gva
    else
      let tables := s.walkGpas ctx core gva
      let s1 := (s.gpaOf ctx core gva).toList.foldl (fun s a => s.noteGpa ctx core false a) s
      let s2 := ((s1.gpaOf ctx core gva).toList ++ tables).foldl (fun s a => s.noteGpa ctx core true a) (s1.walkReads ctx core gva)
      (s2.updCore core (fun c => { c with tlb := addTlb c.tlb e 64 })).updCluster (clusterNo core)
        (fun c => { c with tlb := addTlb c.tlb e 1024 })

end Sys2Proof.Machine
end

