-- ==== Sys2Proof/Machine/Operands.lean ====
section
/-! DEFINITION. Operands and results: the special operands, sources of every kind, pops and pushes of the queue window,
the register, queue and engine consumers of a result, and the three frames in which operate forms run (spec/01 R29-R35;
spec/03 R65-R71; spec/06 R165-R167; spec/12 R257-R260; spec/17 R327). -/

namespace Sys2Proof.Machine

open Sys2Proof

/-! ### Special operands (R29) -/

def PerClass.at_ {α : Type} (p : PerClass α) : MktClass → α
  | .clu => p.clu
  | .bank => p.bank
  | .way => p.way
  | .slot => p.slot
  | .link => p.link

def PerClass.put {α : Type} (p : PerClass α) (c : MktClass) (x : α) : PerClass α :=
  match c with
  | .clu => { p with clu := x }
  | .bank => { p with bank := x }
  | .way => { p with way := x }
  | .slot => { p with slot := x }
  | .link => { p with link := x }

/-- The latest published price on the running die; LINK's is package-wide (R29, R352). -/
def State.price (s : State) (core : Nat) (c : MktClass) : W64 :=
  match c with
  | .link => s.market.pxLink
  | _ => match s.dies.get (coreDie core) with | some d => d.px.at_ c | none => 0

def State.ctxOf (s : State) (g : Group) : Option Ctx := s.ctxs.get g.ctx

/-- The value of a scalar special at issue (R29, R67, R151). -/
def State.special (s : State) (g : Group) (x : Special) : W64 :=
  let l := s.launchOf g.task
  let team := ((s.teams.get g.team).map (·.index)).getD 0
  match x with
  | .lane => 0
  | .slice => 0
  | .group => BitVec.ofNat 64 g.index
  | .team => BitVec.ofNat 64 team
  | .teamx => BitVec.ofNat 64 (team % l.gridX)
  | .teamy => BitVec.ofNat 64 (team / l.gridX % l.gridY)
  | .teamz => BitVec.ofNat 64 (team / l.gridX / l.gridY)
  | .role => if g.access then 1 else 0
  | .core => BitVec.ofNat 64 (coreIn g.core)
  | .cluster => BitVec.ofNat 64 (coreCluster g.core)
  | .die => BitVec.ofNat 64 (coreDie g.core)
  | .clock => s.clock
  | .interval => s.market.interval
  | .home => match s.ctxOf g with | some c => c.home.setWidth 64 | none => 0
  | .pxClu => s.price g.core .clu
  | .pxBank => s.price g.core .bank
  | .pxWay => s.price g.core .way
  | .pxSlot => s.price g.core .slot
  | .pxLink => s.price g.core .link
  | .purse => match s.ctxOf g with | some c => c.purse | none => 0

/-! ### The queue window (R165, R166) -/

/-- The group that holds the pair's window: the compute group. -/
def State.windowHolder (s : State) (w : Who) : Option (Nat × Group) :=
  match w.g.partner with
  | none => none
  | some p => if w.g.access then (s.groups.get p).map (fun g => (p, g)) else some (w.gid, w.g)

/-- The lists of queue q, one per lane. -/
def State.lists (s : State) (w : Who) (q : Nat) : List (List W32) :=
  match s.windowHolder w with
  | some (_, g) => g.queues.getD q []
  | none => []

/-- The entry at the head of one lane's list. -/
def State.head (s : State) (w : Who) (q l : Nat) : W32 := ((s.lists w q).getD l []).headD 0

/-- A group pops q0-q5 or q6-q7 by its role, and pushes the others (R165). -/
def canPop (access : Bool) (q : Nat) : Bool := if access then 6 ≤ q else q < 6

/-- The group has reached its last EXIT and waits there, or is gone (R80). -/
def Group.atExit (g : Group) : Bool :=
  g.dead || g.frags.all (fun f => f.status == .waiting .exit)

def State.partnerAtExit (s : State) (w : Who) : Bool :=
  match w.g.partner with
  | none => false
  | some p => match s.groups.get p with | some g => g.atExit | none => true

def activeList (act : W32) : List Nat := (List.range 32).filter (laneIn act)

/-- Every lane in the mask has an entry to pop. -/
def State.canTake (s : State) (w : Who) (act : W32) (q : Nat) : Bool :=
  (activeList act).all (fun l => !((s.lists w q).getD l []).isEmpty)

/-- Every lane in the mask has a free entry. -/
def State.canGive (s : State) (w : Who) (act : W32) (q : Nat) : Bool :=
  (activeList act).all (fun l => ((s.lists w q).getD l []).length < 8)

def State.setLists (s : State) (w : Who) (q : Nat) (f : Nat → List W32 → List W32) : State :=
  match s.windowHolder w with
  | none => s
  | some (k, _) =>
    s.updGroup k (fun g =>
      { g with queues := setAt [] g.queues q ((List.range 32).map (fun l => f l ((g.queues.getD q []).getD l []))) })

/-- Entries of queues wait no longer: fragments of the pair that wait on the window may run (R166). -/
def State.queueMoved (s : State) (w : Who) : State :=
  let ids := w.gid :: (match w.g.partner with | some p => [p] | none => [])
  let waits := (ids.filterMap (fun k => (s.groups.get k).map (fun g => (k, g)))).flatMap (fun e =>
    (e.2.frags.filter (fun f => f.status == .waiting .queue)).map (fun f => (e.1, f.id)))
  waits.foldl (fun s x => s.push (.queueWaitComplete x.1 x.2)) s

/-- One entry per active lane is removed (R31). -/
def State.pop (s : State) (w : Who) (act : W32) (q : Nat) : State :=
  s.setLists w q (fun l x => if laneIn act l then x.drop 1 else x)

def State.popAll (s : State) (w : Who) (act : W32) (qs : List Nat) : State := qs.foldl (fun s q => s.pop w act q) s

/-- One entry per active lane is appended; discarded where the partner waits at EXIT (R80). -/
def State.pushQ (s : State) (w : Who) (act : W32) (q : Nat) (x : Nat → W32) : State :=
  if s.partnerAtExit w then s
  else s.setLists w q (fun l e => if laneIn act l then e ++ [x l] else e)

/-! ### Sources (R30, R31, R67) -/

/-- The queues among the source fields, each once (R31). -/
def queuesIn (l : List Operand) : List Nat :=
  (l.filterMap (fun o => match o with | .q n => some n.toNat | _ => none)).eraseDups

/-- A scalar source: the immediate is sign-extended (R31). -/
def State.srcS (s : State) (w : Who) (imm : W32) : Operand → W64
  | .s n => w.g.s? n.toNat
  | .sp x => s.special w.g x
  | .imm => imm.signExtend 64
  | _ => 0

/-- A vector source in one lane (R31). -/
def State.srcV (s : State) (w : Who) (imm : W32) (o : Operand) (l : Nat) : W32 :=
  match o with
  | .v n => w.g.lane n.toNat l
  | .s n => (w.g.s? n.toNat).setWidth 32
  | .q n => s.head w n.toNat l
  | .sp .lane => BitVec.ofNat 32 l
  | .sp .slice => BitVec.ofNat 32 (l / 4)
  | .sp x => (s.special w.g x).setWidth 32
  | .zero => 0
  | .imm => imm

/-- A per-lane base address, every bit of its operand (R121). -/
def State.srcBase (s : State) (w : Who) (o : Operand) (l : Nat) : W64 :=
  match o with
  | .v n => (w.g.lane (n.toNat + 1) l ++ w.g.lane n.toNat l : BitVec 64)
  | .s n => w.g.s? n.toNat
  | .sp .lane => BitVec.ofNat 64 l
  | .sp .slice => BitVec.ofNat 64 (l / 4)
  | .sp x => s.special w.g x
  | _ => 0

/-! ### Consumers (R34, R35, R257-R260, R327) -/

/-- The queue that a result goes to (R34). -/
def destQueue (cm : Consumers) (d : Operand) (imm : W32) : Option Nat :=
  if !cm.queue then none
  else if cm.reg then some (imm.toNat % 8)
  else match d with | .q n => some n.toNat | _ => none

/-- The outstanding operations of a WAITC class (R199). -/
def Engines.count (e : Engines) : WaitcFn → Nat
  | .mx => e.mx
  | .gth => e.gth
  | .coll => e.coll
  | .net => e.net

def Engines.setCount (e : Engines) (c : WaitcFn) (n : Nat) : Engines :=
  match c with
  | .mx => { e with mx := n }
  | .gth => { e with gth := n }
  | .coll => { e with coll := n }
  | .net => { e with net := n }

def waitcIndex : WaitcFn → Nat
  | .mx => 0
  | .gth => 1
  | .coll => 2
  | .net => 3

/-- How many operations of a class have started. -/
def Engines.started (e : Engines) (c : WaitcFn) : Nat := e.starts.getD (waitcIndex c) 0

/-- Every earlier access of the group has been performed (R135, R196). -/
def State.settled (s : State) (gid : Nat) : Bool := s.ops.all (fun o => o.gid != gid)

/-- One more outstanding operation of a class. -/
def Engines.begin_ (e : Engines) (c : WaitcFn) : Engines :=
  { e.setCount c (e.count c + 1) with starts := setAt 0 e.starts (waitcIndex c) (e.started c + 1) }

/-- One fewer. -/
def Engines.finish (e : Engines) (c : WaitcFn) : Engines := e.setCount c (e.count c - 1)

/-- One more outstanding operation of class .coll, by its number. -/
def Engines.beginColl (e : Engines) (op : Nat) : Engines := { e.begin_ .coll with collOrder := e.collOrder ++ [(op, false)] }

/-- An operation of class .coll is done: those of the class complete in the order in which they were started (R199). -/
def Engines.doneColl (e : Engines) (op : Nat) : Engines :=
  let l := e.collOrder.map (fun x => if x.1 = op then (op, true) else x)
  let n := (l.takeWhile (·.2)).length
  { e with coll := e.coll - n, collOrder := l.drop n }

/-- The place of an outstanding operation of class .coll among all that the group has started. -/
def Engines.collPlace (e : Engines) (op : Nat) : Nat :=
  e.started .coll - e.collOrder.length + (e.collOrder.takeWhile (fun x => x.1 != op)).length

/-- Copy-engine queue entries of a group not yet copied (R257). -/
def Engines.entries (e : Engines) : Nat :=
  (((e.openBatch ++ (e.closed.flatMap (·.2))).filter (fun c =>
    !c.done && c.refused.isNone && (match c.work with | .entry _ _ => true | _ => false))).length)

/-- The lower-numbered of two causes (R439). -/
def lowerCause (a b : Option (Nat × Option W64)) : Option (Nat × Option W64) :=
  match a, b with
  | some x, some y => if y.1 < x.1 then some y else some x
  | some x, none => some x
  | none, y => y

/-- The checks of the engine consumers, on the values at issue; the lowest code first (R257-R260). -/
def State.consumerFail (s : State) (w : Who) (cm : Consumers) : Option (Nat × Option W64) :=
  let e := w.g.eng
  let seat := s.seat w.gid w.g 0
  let cpq := if cm.cpq then
      [(s.engineCheck w.gid w.g e.cpq 128 true).map (fun x => (x.1, some x.2)),
       if e.cpq.toNat % 4 ≠ 0 then some (0x10, some e.cpq) else none]
    else []
  let red := if cm.red then
      [if seat.launch.csram < (e.red.toNat % 2 ^ 32) + 128
        then some (0x13, none) else none,
       if e.red.toNat / 2 ^ 32 % 2 ^ 8 = 0 then some (0x25, none) else none]
    else []
  let net := if cm.net then
      [(s.engineCheck w.gid w.g e.netAddr 128 true).map (fun x => (x.1, some x.2)),
       if apertureOf e.netAddr ≠ .global then some (0x14, some e.netAddr) else none,
       if e.netAddr.toNat % 4 ≠ 0 then some (0x10, some e.netAddr) else none]
    else []
  (cpq ++ red ++ net).foldl lowerCause none

/-- An entry of this task and DEST can join its open generation, or open one: at most 16 are open (R258). -/
def redFits (l : List RedGen) (task dest : Nat) : Bool :=
  match l.find? (fun r => r.task == task && r.dest == dest) with
  | some r => r.rows.length < r.count
  | none => l.length < 16

/-- The reduction tree can take an entry with these parameters: it joins the open generation of its DEST, waits for one that is
complete to be written, or opens one (R258, R260). -/
def State.redReady (s : State) (g : Group) (red : W64) : Bool :=
  g.eng.coll < 255 &&
    (match s.clusters.get (clusterNo g.core) with
     | some c =>
       redFits c.reds g.task (red.toNat % 2 ^ 32)
     | none => false)

/-- Which of the engine consumers named can take one more entry now (R35, R253, R257-R260, R327). -/
def State.accepting (s : State) (gid : Nat) (g : Group) (cm : Consumers) (red : W64) : Consumers :=
  { reg := false, queue := false,
    mxq := cm.mxq && g.eng.matrix.stream.length < 32,
    cpq := cm.cpq && s.settled gid && g.eng.entries < 32,
    net := cm.net && s.settled gid && g.eng.sends.length < 32 && g.eng.net < 255,
    red := cm.red && s.redReady g red }

/-- The engine consumers of `cm` that are not in `done`. -/
def restOf (cm done : Consumers) : Consumers :=
  { reg := false, queue := false, mxq := cm.mxq && !done.mxq, cpq := cm.cpq && !done.cpq, net := cm.net && !done.net,
    red := cm.red && !done.red }

def anyEngine (cm : Consumers) : Bool := cm.mxq || cm.cpq || cm.net || cm.red

/-- An entry joins the open reduction generation of its DEST, or opens one (R258); the first entry's COUNT stands (DEDUCED,
log 131). -/
def joinEntry (l : List RedGen) (e : RedEntry) : List RedGen :=
  if l.any (fun r => r.task == e.task && r.dest == e.dest) then
    l.map (fun r => if r.task == e.task && r.dest == e.dest then
      { r with rows := r.rows ++ [(e.gid, e.id, e.row)], mixed := r.mixed || e.mixed || r.op != e.op || r.count != e.count } else r)
  else l ++ [⟨e.task, e.dest, e.op, e.count, [(e.gid, e.id, e.row)], e.mixed⟩]

/-- A push joins under its CR.RED. -/
def joinRed (l : List RedGen) (task gid op : Nat) (red : W64) (row : Row) : List RedGen :=
  joinEntry l ⟨task, red.toNat % 2 ^ 32, red.toNat / 2 ^ 40 % 4, red.toNat / 2 ^ 32 % 2 ^ 8, gid, op, row, false⟩

/-- The generation of this DEST has all its contributions. -/
def redFull (l : List RedGen) (task dest : Nat) : Bool :=
  l.any (fun r => r.task == task && r.dest == dest && r.count ≤ r.rows.length)

/-- The consumers of `cm`, which can, take the entry (R257-R259, R327). -/
def State.accept (s : State) (gid : Nat) (g : Group) (cm : Consumers) (o : Owing) : State :=
  let s1 := if cm.mxq then s.updGroup gid (fun g =>
      { g with eng := { g.eng with matrix := { g.eng.matrix with stream := g.eng.matrix.stream ++ [o.row] } } }) else s
  let s2 := if cm.cpq then
      { (s1.cleanTeam g.core gid).updGroup gid (fun g =>
          { g with eng := { g.eng with
              openBatch := g.eng.openBatch ++ [⟨s1.nextId, .entry o.cpq o.row, none, none, false⟩] } })
        with nextId := s1.nextId + 1 }
    else s1
  let dest := o.red.toNat % 2 ^ 32
  let s3 := if cm.red then
      let s2' := { (s2.updCluster (clusterNo g.core) (fun c =>
        { c with reds := joinRed c.reds g.task gid s2.nextId o.red o.row })).updGroup gid (fun x =>
          { x with eng := x.eng.beginColl s2.nextId }) with nextId := s2.nextId + 1 }
      if (match s2'.clusters.get (clusterNo g.core) with | some c => redFull c.reds g.task dest | none => false) then
        s2'.push (.reductionGenerationComplete (clusterNo g.core) g.task dest)
      else s2'
    else s2
  if cm.net then
    { (s3.cleanTeam g.core gid).updGroup gid (fun g =>
        { g with eng := { g.eng.begin_ .net with sends := g.eng.sends ++ [⟨s3.nextId, o.net, o.row, none⟩] } })
      with nextId := s3.nextId + 1 }
  else s3

/-- The consumers that can take the entry now; the rest stay owed (R35, R260). -/
def State.offer (s : State) (gid : Nat) (o : Owing) : State :=
  match s.groups.get gid with
  | none => s
  | some g =>
    let now := s.accepting gid g o.cm o.red
    let rest := restOf o.cm now
    let s1 := s.accept gid g now o
    if anyEngine rest then s1.updGroup gid (fun g => { g with owing := g.owing ++ [{ o with cm := rest }] }) else s1

/-- A result goes to its engine consumers: CR.CPQ and CR.NET advance at issue, and each consumer accepts when it can (R257,
R259, R260). -/
def State.consume (s : State) (w : Who) (cm : Consumers) (row : Row) : State :=
  if anyEngine cm then
    let o : Owing := ⟨w.fid, cm, row, w.g.eng.cpq, w.g.eng.red, w.g.eng.netAddr⟩
    (s.updGroup w.gid (fun g => { g with eng := { g.eng with
      cpq := if cm.cpq then g.eng.cpq + 128 else g.eng.cpq,
      netAddr := if cm.net then g.eng.netAddr + 128 else g.eng.netAddr } })).offer w.gid o
  else s

/-- What a group's results still owe is offered again, oldest first (R35). -/
def State.offerOwed (s : State) (gid : Nat) : State :=
  match s.groups.get gid with
  | none => s
  | some g => g.owing.foldl (fun s o => s.offer gid o) (s.updGroup gid (fun g => { g with owing := [] }))

/-- A logged instruction of the group is done: fragments that waited on it look again, and so do consumers that wait for the
group's stores (R35, R241). -/
def State.opDone (s : State) (core gid : Nat) : State := (s.opGone core gid).offerOwed gid

/-- A consumer that R460 counts as an effect that a second run would repeat. -/
def disarming (cm : Consumers) (pops : List Nat) : Bool := cm.queue || cm.cpq || cm.red || cm.net || !pops.isEmpty

/-! ### The checks before a result (R70, R107, R167, R260) -/

/-- What a form does with its operands, as far as the checks go. -/
structure Shape where
  cm : Consumers
  d : Operand
  imm : W32
  pops : List Nat
  act : W32
  deriving DecidableEq, Repr

/-- A queue operation that can never complete (R167): no partner, the wrong direction, or an empty list whose pusher waits at
EXIT. -/
def State.queueFail (s : State) (w : Who) (x : Shape) (pushes : List Nat) : Bool :=
  ((!x.pops.isEmpty || !pushes.isEmpty) && w.g.partner.isNone) ||
    x.pops.any (fun q => !canPop w.g.access q) || pushes.any (fun q => canPop w.g.access q) ||
    (!x.pops.all (s.canTake w x.act) && s.partnerAtExit w)

/-- Precise causes and waits that operands and consumers bring, before anything is taken or written; of several causes the
lowest (log 43). 0x0C does not depend on the mask (DEDUCED, log 120). -/
def State.pre (s : State) (w : Who) (x : Shape) : Except Stop Unit :=
  let pushes := match destQueue x.cm x.d x.imm with | some q => [q] | none => []
  let shut := x.cm.reg && (match x.d with | .v n => w.g.unprotected n.toNat | _ => false)
  if w.g.tryR.isSome && (x.cm.cpq || x.cm.red || x.cm.net) then .error (.abort 0x09 0 none)
  else
    match lowerCause (if shut then some (0x0C, none) else none)
        (lowerCause (s.consumerFail w x.cm) (if s.queueFail w x pushes then some (0x21, none) else none)) with
    | some (c, tv) => .error (.cause c tv)
    | none =>
      if !x.pops.all (s.canTake w x.act) then .error (.wait .queue s)
      else if !s.partnerAtExit w && !pushes.all (s.canGive w x.act) then .error (.wait .queue s)
      else .ok ()

/-! ### Results -/

/-- A 32-bit vector result to its consumers: register, queue, engines (R34). -/
def State.putLanes (s : State) (w : Who) (x : Shape) (val : Nat → W32) : State :=
  let s1 := s.popAll w x.act x.pops
  let s2 := if x.cm.reg then
      (match x.d with | .v n => s1.updGroup w.gid (fun g => g.setLanes n.toNat x.act val) | _ => s1) else s1
  let s3 := match destQueue x.cm x.d x.imm with | some q => s2.pushQ w x.act q val | none => s2
  let s4 := s3.consume w x.cm (rowOf (fun l => if laneIn x.act l then val l else 0))
  let s5 := if !x.pops.isEmpty || x.cm.queue then s4.queueMoved w else s4
  if disarming x.cm x.pops then s5.disarm w else s5

/-- A scalar result to its consumers: an s register, and bits [31:0] in every lane of an entry (R34). -/
def State.putScalar (s : State) (w : Who) (x : Shape) (val : W64) : State :=
  let s1 := s.popAll w x.act x.pops
  let s2 := if x.cm.reg then
      (match x.d with | .s n => s1.updGroup w.gid (fun g => g.setS n.toNat val) | _ => s1) else s1
  let s4 := s2.consume w x.cm (rowOf (fun _ => val.setWidth 32))
  let s5 := if !x.pops.isEmpty then s4.queueMoved w else s4
  if disarming x.cm x.pops then s5.disarm w else s5

/-- The value of D before the instruction, for results that keep part of it (R98, R103). -/
def Who.oldD (w : Who) (cm : Consumers) (d : Operand) : W64 :=
  if cm.reg then (match d with | .s n => w.g.s? n.toNat | _ => 0) else 0

/-- The flags of the active lanes together. -/
def orFlags (act : W32) (fl : Nat → FlagSet) : FlagSet := (activeList act).foldl (fun a l => a ||| fl l) 0

/-- An enabled flag raises its cause: the lowest code, with the mask of the lanes that raised an enabled flag (R110,
R372). -/
def flagStop (fmt : W32) (act : W32) (fl : Nat → FlagSet) : Option (Nat × W64) :=
  let en := fmtEnables fmt
  (flagCause (orFlags act fl &&& en)).map (fun c =>
    (c, (bits32 (fun l => laneIn act l && (fl l &&& en) != 0)).setWidth 64))

def State.raiseFlags (s : State) (w : Who) (fl : FlagSet) : State :=
  if fl = 0 then s else s.updFrag w.gid w.fid (fun f => { f with fmt := fmtRaise f.fmt fl })

/-! ### The frames of operate forms -/

/-- A vector form: a value and flags per lane (R68, R110). -/
def vecForm (s : State) (x : Args) (srcs : List Operand) (val : Who → Nat → W32 × FlagSet) :
    Host.Outcome State Fault Refusal :=
  run s (fun w =>
    let sh : Shape := ⟨x.cm, x.d, x.imm, queuesIn srcs, w.active x.msk⟩
    match s.pre w sh with
    | .error e => .error e
    | .ok () =>
      match flagStop w.f.fmt sh.act (fun l => (val w l).2) with
      | some (c, m) => .error (.cause c (some m))
      | none =>
        .ok (((s.putLanes w sh (fun l => (val w l).1)).raiseFlags w (orFlags sh.act (fun l => (val w l).2))).advance w))

/-- A scalar form: one value of 64 bits (R67, R83). -/
def scalForm (s : State) (x : Args) (val : Who → W64) : Host.Outcome State Fault Refusal :=
  run s (fun w =>
    let sh : Shape := ⟨x.cm, x.d, x.imm, [], 0⟩
    match s.pre w sh with
    | .error e => .error e
    | .ok () => .ok ((s.putScalar w sh (val w)).advance w))

/-- What a lane form with a scalar result does: the result of the active lanes, and flags per lane (R98, R103, R105). -/
def State.laneBody (s : State) (w : Who) (x : Args) (srcs : List Operand) (val : Who → W32 → W64)
    (fl : Who → W32 → Nat → FlagSet) : Except Stop State :=
  let sh : Shape := ⟨x.cm, x.d, x.imm, queuesIn srcs, w.active x.msk⟩
  match s.pre w sh with
  | .error e => .error e
  | .ok () =>
    match flagStop w.f.fmt sh.act (fl w sh.act) with
    | some (c, m) => .error (.cause c (some m))
    | none => .ok (((s.putScalar w sh (val w sh.act)).raiseFlags w (orFlags sh.act (fl w sh.act))).advance w)

/-- The form without its register: where no lane is active D keeps its value and is not written (R103, R105). What the engine
consumers get then is DEDUCED (log 121). -/
def keepD (x : Args) : Args := { x with cm := { x.cm with reg := false } }

/-- The frame of a lane form with a scalar result. -/
def laneForm (s : State) (x : Args) (srcs : List Operand) (val : Who → W32 → W64) (fl : Who → W32 → Nat → FlagSet) :
    Host.Outcome State Fault Refusal :=
  run s (fun w => s.laneBody w x srcs val fl)

end Sys2Proof.Machine
end

