-- ==== Sys2Proof/Machine/Access.lean ====
section
/-! DEFINITION. Plain and atomic accesses: splitting, the performing of a logged instruction on memory, the speculative
buffer and load tables of an open region, and what a missing translation does (spec/04 R120-R144; spec/22 R394-R397;
spec/25 R447). -/

namespace Sys2Proof.Machine

open Sys2Proof

/-! ### Splitting (R123) -/

/-- The widest naturally aligned size of 8, 4, 2 or 1 bytes at `a` that does not pass the end. -/
def pieceSize (a left : Nat) : Nat :=
  if a % 8 = 0 ∧ 8 ≤ left then 8 else if a % 4 = 0 ∧ 4 ≤ left then 4 else if a % 2 = 0 ∧ 2 ≤ left then 2 else 1

/-- The naturally aligned pieces of n bytes at `a`, in ascending order (R123). -/
def pieces : Nat → Nat → Nat → List (Nat × Nat)
  | 0, _, _ => []
  | _ + 1, _, 0 => []
  | fuel + 1, a, left => (a, pieceSize a left) :: pieces fuel (a + pieceSize a left) (left - pieceSize a left)

/-! ### What each form moves (R44, R125-R127) -/

def widthBytes : Width → Nat
  | .z8 => 1
  | .s8 => 1
  | .z16 => 2
  | .s16 => 2
  | .b32 => 4
  | .b64 => 8
  | .b128 => 16
  | .s32 => 4

def widthSigned : Width → Bool
  | .s8 => true
  | .s16 => true
  | .s32 => true
  | _ => false

/-- A loaded value extended to 64 bits (R125, R127). -/
def loadScalar (w : Width) (b : List Byte) : W64 :=
  let n := 8 * (widthBytes w)
  let x := bytesNat b
  if widthSigned w && 2 ^ (n - 1) ≤ x then BitVec.ofInt 64 ((x : Int) - (2 ^ n : Nat)) else BitVec.ofNat 64 x

/-- The registers of a loaded value, low half first (R125). -/
def loadRegs (w : Width) (b : List Byte) : List W32 :=
  match w with
  | .b64 => [BitVec.ofNat 32 (bytesNat b), BitVec.ofNat 32 (bytesNat (b.drop 4))]
  | .b128 => [BitVec.ofNat 32 (bytesNat b), BitVec.ofNat 32 (bytesNat (b.drop 4)),
              BitVec.ofNat 32 (bytesNat (b.drop 8)), BitVec.ofNat 32 (bytesNat (b.drop 12))]
  | _ => [(loadScalar w b).setWidth 32]

/-- The low n bytes of register data. -/
def dataBytes (n : Nat) (d : List W32) : List Byte := (d.flatMap (fun x => natBytes 4 x.toNat)).take n

/-- Store data of one lane (R126). -/
def State.storeData (s : State) (w : Who) (k : Nat) (o : Operand) (l : Nat) : List W32 :=
  match o with
  | .v n => (range n.toNat k).map (fun r => w.g.lane r l)
  | .s n => [(w.g.s? n.toNat).setWidth 32, ((w.g.s? n.toNat) >>> (32 : Nat)).setWidth 32]
  | .sp .lane => [BitVec.ofNat 32 l, 0]
  | .sp .slice => [BitVec.ofNat 32 (l / 4), 0]
  | .sp x => [(s.special w.g x).setWidth 32, ((s.special w.g x) >>> (32 : Nat)).setWidth 32]
  | .q n => [s.head w n.toNat l]
  | _ => [0, 0, 0, 0]

/-! ### The performing of one instruction -/

/-- What an instruction does at memory. -/
inductive Action where
  | load | store | atomic (ret : Bool)
  deriving DecidableEq, Repr

/-- An access form: bytes per lane, action, attributes, and whether it runs once per issue (R120, R140). -/
structure AccForm where
  bytes : Nat
  action : Action
  attrs : Attrs
  scalar : Bool
  deriving DecidableEq, Repr

/-- The access form of a memory or atomic instruction. -/
def accForm : Instr → Option AccForm
  | .ld w x => some ⟨(widthBytes w), .load, x.attrs, false⟩
  | .lds w x => some ⟨(widthBytes w), .load, x.attrs, false⟩
  | .ldu w x => some ⟨(widthBytes w), .load, x.attrs, true⟩
  | .st w x => some ⟨(widthBytes w), .store, x.attrs, false⟩
  | .sts w x => some ⟨(widthBytes w), .store, x.attrs, false⟩
  | .atom _ x => some ⟨4, .atomic true, x.attrs, false⟩
  | .xchg x => some ⟨4, .atomic true, x.attrs, false⟩
  | .cas x => some ⟨4, .atomic true, x.attrs, false⟩
  | .red _ x => some ⟨4, .atomic false, x.attrs, false⟩
  | .satom _ x => some ⟨8, .atomic true, x.attrs, true⟩
  | _ => none

def AccForm.isAcquire (a : AccForm) : Bool := a.attrs.order == .acquire || a.attrs.order == .acqRel
def AccForm.isRelease (a : AccForm) : Bool := a.attrs.order == .release || a.attrs.order == .acqRel
def AccForm.need (a : AccForm) : Need := match a.action with | .load => .load | .store => .store | .atomic _ => .atomic
def AccForm.kind (a : AccForm) : AccessKind :=
  ⟨a.bytes, a.action != .load, match a.action with | .atomic _ => true | _ => false⟩

/-- The outcome of an attempt to perform an instruction. -/
inductive Performed where
  | done (s : State) (old : List (Nat × List Byte))   -- the bytes each lane read
  | blocked (gva : Nat) (f : WalkFail)
  | poisoned (addr : W64) (atHome : Bool)
  deriving Repr

/-- The bytes of a lane whose access has passed its checks at issue: CR.LPEXT has been checked, and a later CTLW does not reach
it (R122, R406). -/
def State.placeAgain (s : State) (seat : Seat) (addr : W64) (n : Nat) : Except Nat (List Loc) :=
  match apertureOf addr with
  | .priv => .ok ((range (addr.toNat % 2 ^ 52) n).map (.priv (32 * seat.gid + seat.lane)))
  | _ => s.place seat addr n

/-- The bytes of each lane, resolved; or the first byte that has no translation (R124, R134). -/
def State.resolveLanes (s : State) (gid : Nat) (g : Group) (a : AccForm) :
    List LaneAccess → Except (Nat × WalkFail) (List (LaneAccess × List Loc))
  | [] => .ok []
  | x :: t =>
    match s.placeAgain (s.seat gid g x.lane) x.addr a.bytes with
    | .error _ => State.resolveLanes s gid g a t
    | .ok l =>
      match s.resolve g.ctx g.core a.need l none with
      | .error e => .error e
      | .ok r =>
        match State.resolveLanes s gid g a t with
        | .error e => .error e
        | .ok rest => .ok ((x, r) :: rest)

/-- Two accesses touch a common byte (R225). -/
def overlap (a b : List Loc) : Bool := a.any (fun x => b.any (fun y => x.key == y.key))

/-- Some lane's bytes are also another's. -/
def anyOverlap : List (LaneAccess × List Loc) → Bool
  | [] => false
  | x :: t => t.any (fun y => overlap x.2 y.2) || anyOverlap t

/-- Insertion by a key. -/
def insertKey {α : Type} (k : Nat) (x : α) : List (Nat × α) → List (Nat × α)
  | [] => [(k, x)]
  | (j, y) :: t => if k ≤ j then (k, x) :: (j, y) :: t else (j, y) :: insertKey k x t

/-- An unspecified order: each element takes a free value as its key (R2, R126, R143; log 14). -/
def freeOrderFrom {α : Type} (n : Nat) : List α → List (Nat × α)
  | [] => []
  | x :: t => insertKey (Config.freeWord n).toNat x (freeOrderFrom (n + 1) t)

def State.freeOrder {α : Type} (s : State) (l : List α) : List α := (freeOrderFrom s.free l).map (·.2)

/-- The units of a store: lane, the unit's bytes and their places (R123, R126, R240). -/
def storeUnits (bytes : Nat) (x : LaneAccess × List Loc) : List (Nat × List Loc × List Byte) :=
  let d := dataBytes bytes x.1.data
  let a := x.1.addr.toNat
  (pieces bytes a bytes).map (fun p => (x.1.lane, (x.2.drop (p.1 - a)).take p.2, (d.drop (p.1 - a)).take p.2))

/-- The new value of one atomic step on n bytes, for the integer steps, exchange and compare (R141, R142). -/
def atomNew (i : Instr) (x : LaneAccess) (old : W64) (fadd : W32 → W32 → W32) : W64 :=
  let o32 : W32 := old.setWidth 32
  let b32 : W32 := x.data.getD 0 0
  let b64 : W64 := (x.data.getD 1 0 ++ x.data.getD 0 0 : BitVec 64)
  let step32 (f : AtomStep) : W64 := (atomInt f o32 b32).setWidth 64
  let atomFn (fn : AtomFn) : W64 :=
    match fn with
    | .add => step32 .add
    | .and => step32 .and
    | .or => step32 .or
    | .xor => step32 .xor
    | .min => step32 .min
    | .max => step32 .max
    | .minu => step32 .minu
    | .maxu => step32 .maxu
    | .fadd => (fadd o32 b32).setWidth 64
  match i with
  | .atom fn _ => atomFn fn
  | .red fn _ => atomFn fn
  | .xchg _ => b32.setWidth 64
  | .cas _ => if o32 = x.expect.setWidth 32 then b32.setWidth 64 else o32.setWidth 64
  | .satom fn _ =>
    match fn with
    | .add => atomInt .add old b64
    | .and => atomInt .and old b64
    | .or => atomInt .or old b64
    | .xor => atomInt .xor old b64
    | .min => atomInt .min old b64
    | .max => atomInt .max old b64
    | .minu => atomInt .minu old b64
    | .maxu => atomInt .maxu old b64
    | .xchg => b64
    | .cas => if old = x.expect then b64 else old
  | _ => old

/-- The steps of one atomic instruction, lane after lane; each returns the value just before its own step (R143). -/
def State.atomSteps (s : State) (gid : Nat) (g : Group) (i : Instr) (bytes : Nat) (fadd : W32 → W32 → W32) :
    List (LaneAccess × List Loc) → State × List (Nat × List Byte)
  | [] => (s, [])
  | (x, l) :: t =>
    let s0 := s.prepareHome g.core g.ctx true (linesOf l)
    let old := l.map s0.homeByte
    let new := atomNew i x (BitVec.ofNat 64 (bytesNat old)) fadd
    let s1 := s0.writeHome g.core g.ctx gid true l (natBytes bytes new.toNat)
    let r := State.atomSteps s1 gid g i bytes fadd t
    (r.1, (x.lane, old) :: r.2)

/-- The first poisoned byte that a read touches, and whether it is read at its point of coherence (R459). -/
def State.findPoison (s : State) (core : Nat) (home : Bool) (l : List (LaneAccess × List Loc)) : Option (W64 × Bool) :=
  if s.mem.poison.isEmpty then none
  else
    l.findSome? (fun x =>
      if x.2.any (fun y => if home then isPoisoned s.mem.poison y else s.poisonFor core y)
      then some (x.1.addr, home || x.2.any (fun y => match y with
        | .spa a => ((s.cores.get core).bind (fun c => c.copy? (a / 128))).isNone
        | _ => true))
      else none)

/-- The loads of one instruction. -/
def State.loadLanes (s : State) (g : Group) (hint : Hint) (ro : Bool) :
    List (LaneAccess × List Loc) → State × List (Nat × List Byte)
  | [] => (s, [])
  | (x, l) :: t =>
    let (b, s1) := s.readBytes g.core g.ctx hint ro l
    let r := State.loadLanes s1 g hint ro t
    (r.1, (x.lane, b) :: r.2)

def State.writeUnits (s : State) (gid : Nat) (g : Group) (hint : Hint) : List (Nat × List Loc × List Byte) → State
  | [] => s
  | (_, l, b) :: t => State.writeUnits (s.writeBytes g.core g.ctx gid hint l b) gid g hint t

/-- The stores of one instruction; where lanes write the same bytes, each unit keeps those of one of them, which one
staying open (R126). -/
def State.storeLanes (s : State) (gid : Nat) (g : Group) (a : AccForm) (l : List (LaneAccess × List Loc)) : State :=
  let units := l.flatMap (storeUnits a.bytes)
  if anyOverlap l then
    { s.writeUnits gid g a.attrs.hint (s.freeOrder units) with free := s.free + units.length }
  else s.writeUnits gid g a.attrs.hint units

/-- A level that other groups share, so that its releases and acquires order the global accesses of their group (R131, R234): the
lane-private and register-window levels act at group scope. -/
def sharedLevel (a : W64) : Bool :=
  match apertureOf a with
  | .global => true
  | .cluster => true
  | .chip => true
  | _ => false

/-- The translations of a lane's first and last byte are cached (R446). -/
def State.cacheLane (s : State) (g : Group) (a : AccForm) (addr : Nat) : State :=
  let s1 := s.cacheTlb g.ctx g.core addr a.need
  let last := addr + a.bytes - 1
  if last / 65536 = addr / 65536 then s1 else s1.cacheTlb g.ctx g.core last a.need

/-- The bytes of each lane that are not the reader's own buffered ones (R394). -/
def unowned (own : Loc → Bool) (l : List (LaneAccess × List Loc)) : List (LaneAccess × List Loc) :=
  l.map (fun x => (x.1, x.2.filter (fun y => !own y)))

/-- The instruction performed on memory: the cleaning of a release before, the invalidation of an acquire after (R131), whatever
shared level it reaches: earlier stores are performed before a release in cluster SRAM or a bank (R234, R239). A load that is an
acquire reads past older copies of other dies' lines (R236). The reader's own buffered bytes come from no memory and carry no
poison (R394). All pieces and lanes in one step: DESIGN CHOICE (log 123). -/
def State.performPast (s : State) (own : Loc → Bool) (gid : Nat) (g : Group) (i : Instr) (a : AccForm) (fadd : W32 → W32 → W32)
    (lanes : List LaneAccess) : Performed :=
  match s.resolveLanes gid g a lanes with
  | .error (gva, f) => .blocked gva f
  | .ok l =>
    let s0 := (l.foldl (fun s x => if apertureOf x.1.addr = .global then s.cacheLane g a x.1.addr.toNat else s) s).touch
      g.core (l.flatMap (·.2))
    let wide := lanes.any (fun x => sharedLevel x.addr)
    let s1 := if a.isRelease && wide then s0.release gid g a.attrs.scope else s0
    let fin (s : State) : State := if a.isAcquire && wide then s.acquire g a.attrs.scope else s
    match a.action with
    | .load =>
      match s1.findPoison g.core false (unowned own l) with
      | some (x, h) => .poisoned x h
      | none =>
        let r := (fin s1).loadLanes g a.attrs.hint a.attrs.ro l
        .done (fin r.1) r.2
    | .store => .done (fin (s1.storeLanes gid g a l)) []
    | .atomic ret =>
      match (if ret then s1.findPoison g.core true l else none) with
      | some (x, h) => .poisoned x h
      | none =>
        if anyOverlap l then
          let r := { s1 with free := s1.free + l.length }.atomSteps gid g i a.bytes fadd (s1.freeOrder l)
          .done (fin r.1) r.2
        else
          let r := s1.atomSteps gid g i a.bytes fadd l
          .done (fin r.1) r.2

/-- The instruction performed on memory, with no byte of the reader's own. -/
def State.perform (s : State) (gid : Nat) (g : Group) (i : Instr) (a : AccForm) (fadd : W32 → W32 → W32)
    (lanes : List LaneAccess) : Performed := s.performPast (fun _ => false) gid g i a fadd lanes

/-- The core's TLB with the translations that a published store has pinned in front (R432). -/
def State.withPins (s : State) (core : Nat) (o : MemOp) : State := s.updCore core (fun c => { c with tlb := o.pins ++ c.tlb })

/-- A logged instruction performed: a published store under the translations that its region pinned (R432). -/
def State.performOp (s : State) (g : Group) (o : MemOp) (a : AccForm) (fadd : W32 → W32 → W32) : Performed :=
  if o.pins.isEmpty then s.perform o.gid g o.instr a fadd o.lanes
  else
    let own := ((s.cores.get g.core).map (·.tlb)).getD []
    match (s.withPins g.core o).perform o.gid g o.instr a fadd o.lanes with
    | .done s1 old =>
      .done (s1.updCore g.core (fun c => { c with tlb := c.tlb.filter (fun e => !o.pins.contains e || own.contains e) })) old
    | x => x

/-! ### Open regions (R139, R394, R395, R397) -/

/-- The distinct 64-byte lines of the bytes in the buffer (R394): an entry whose bytes ALIAS has all discarded is free again (DESIGN
CHOICE, log 163). -/
def bufferLines (b : List (Nat × Nat × Nat × Byte)) : List (Nat × Nat) := (b.map (fun e => (e.1, e.2.1 / 64))).eraseDups

/-- A byte as the group's own loads see it: the latest buffered byte, else memory (R394). -/
def bufferedByte (b : List (Nat × Nat × Nat × Byte)) (k : Nat × Nat) (mem : Byte) : Byte :=
  b.foldl (fun x e => if e.1 = k.1 ∧ e.2.1 = k.2 then e.2.2.2 else x) mem

/-- The group's open region holds the byte in its buffer. -/
def Group.buffers (g : Group) (x : Loc) : Bool :=
  match g.tryR with | some t => t.buffer.any (fun e => (e.1, e.2.1) == x.key) | none => false

/-- A byte read by a group: that of its own buffer over memory's (R394). -/
def Group.ownByte (g : Group) (x : Loc) (mem : Byte) : Byte :=
  match g.tryR with | some t => bufferedByte t.buffer x.key mem | none => mem

/-- The 8-byte granules that an access touches (R395). -/
def granules (l : List Loc) : List (Nat × Nat) := (l.map (fun x => (x.key.1, x.key.2 / 8))).eraseDups

/-- Granules entered in one lane's load table; none where a ninth entry would be needed (R395). -/
def enterGranules (loads : List (Nat × Nat × W64)) (lane : Nat) (gs : List (Nat × Nat)) :
    Option (List (Nat × Nat × W64)) :=
  let new := gs.filter (fun x => !loads.any (fun e => e.1 == lane && e.2.1 == x.1 && e.2.2.toNat == x.2))
  if 8 < (loads.filter (fun e => e.1 == lane)).length + new.length then none
  else some (loads ++ new.map (fun x => (lane, x.1, BitVec.ofNat 64 x.2)))

/-- A store by a lane hits that lane's load table (R395). -/
def aliasHit (t : TryRegion) (lane : Nat) (l : List Loc) : Option (Nat × Nat) :=
  (granules l).find? (fun x => t.loads.any (fun e => e.1 == lane && e.2.1 == x.1 && e.2.2.toNat == x.2))

/-- ALIAS: the lane's protected registers come back, its buffered bytes go, the triggering entry is dropped, and the
lane is inactive from now on (R397). A CONFLICT of the same cycle still meets the granule (R403). -/
def Group.alias_ (g : Group) (now : W64) (t : TryRegion) (lane : Nat) (hit : Nat × Nat) : Group :=
  { g with
    v := restoreSaved g.v (t.saved.filter (fun e => e.2.1 == lane)),
    tryR := some { t with
      buffer := t.buffer.filter (fun e => e.2.2.1 != lane),
      stores := t.stores.map (fun o => { o with lanes := o.lanes.filter (fun x => x.lane != lane) }),
      loads := t.loads.filter (fun e => !(e.1 == lane && e.2.1 == hit.1 && e.2.2.toNat == hit.2)),
      aborted := t.aborted ||| oneBit 32 lane,
      aliased := t.aliased.filter (fun x => x.2.2 == now) ++ [(hit.1, BitVec.ofNat 64 hit.2, now)] } }

/-- One lane's store enters the buffer, or raises ALIAS. -/
def Group.bufferLane (now : W64) (g : Group) (bytes : Nat) (x : LaneAccess × List Loc) : Group :=
  match g.tryR with
  | none => g
  | some t =>
    match aliasHit t x.1.lane x.2 with
    | some hit => g.alias_ now t x.1.lane hit
    | none =>
      let new := (x.2.zip (dataBytes bytes x.1.data)).map (fun e => (e.1.key.1, e.1.key.2, x.1.lane, e.2))
      { g with tryR := some { t with buffer := t.buffer ++ new } }

/-! ### What a form accesses -/

/-- The byte address of a lane (R121, R128). -/
def State.laneAddr (s : State) (w : Who) (i : Instr) (x : MArgs) (l : Nat) : W64 :=
  match i with
  | .lds _ _ => 0xFF00000000000000 + ((s.srcV w 0 x.a l + x.off).setWidth 64)
  | .sts _ _ => 0xFF00000000000000 + ((s.srcV w 0 x.a l + x.off).setWidth 64)
  | .ldu _ _ => s.srcS w 0 x.a + x.off.signExtend 64
  | .satom _ _ => s.srcS w 0 x.a + x.off.signExtend 64
  | _ => s.srcBase w x.a l + x.off.signExtend 64

/-- The registers of store data, low half first, and of atomic operands (R126, R140). -/
def State.laneData (s : State) (w : Who) (i : Instr) (x : MArgs) (l : Nat) : List W32 :=
  match i with
  | .st wd _ => s.storeData w wd.regs x.b l
  | .sts wd _ => s.storeData w wd.regs x.b l
  | .satom _ _ =>
    let b := s.srcS w 0 x.b
    [b.setWidth 32, (b >>> (32 : Nat)).setWidth 32]
  | .atom _ _ => s.storeData w 1 x.b l
  | .xchg _ => s.storeData w 1 x.b l
  | .cas _ => s.storeData w 1 x.b l
  | .red _ _ => s.storeData w 1 x.b l
  | _ => []

/-- The expected value of a CAS: D before (R141). -/
def Who.expected (w : Who) (d : Operand) (l : Nat) : W64 :=
  match d with
  | .v n => (w.g.lane n.toNat l).setWidth 64
  | .s n => w.g.s? n.toNat
  | _ => 0

/-- The lowest lane of a fragment, which a scalar access takes as its own (log 15). -/
def Frag.lowLane (f : Frag) : Nat := 4 * (lowSlice f.slices) % 32

/-- The accesses of an instruction, lowest lane first. -/
def State.lanesOf (s : State) (w : Who) (i : Instr) (x : MArgs) (scalar : Bool) : List LaneAccess :=
  let one (l : Nat) : LaneAccess := ⟨l, s.laneAddr w i x l, s.laneData w i x l, w.expected x.d l⟩
  if scalar then [one w.f.lowLane] else (activeList (w.active x.msk)).map one

/-- The operands of a memory or atomic form. -/
def opMArgs : Instr → Option MArgs
  | .ld _ x | .st _ x | .ldu _ x | .lds _ x | .sts _ x | .atom _ x | .xchg x | .cas x | .red _ x | .satom _ x => some x
  | _ => none

/-! ### Missing translations (R134, R447) -/

/-- The record of a translation fault of one access (R447, R449). -/
def faultRecord (w : Who) (gva : Nat) (f : WalkFail) (fetch : Bool) : Option TrapRec :=
  let a := BitVec.ofNat 64 gva
  match f with
  | .stage1 e => some (w.record (if fetch then 0x16 else 0x1A) .replayable .guest a (BitVec.ofNat 64 e) 0)
  | .stage2 g => some (w.record 0x1B .replayable .operator a (BitVec.ofNat 64 g) 0)
  | .malformed2 g => some (w.record 0x1B .replayable .operator a (BitVec.ofNat 64 g) 0)
  | .malformed1 _ => none
  | .inFlight => none

/-- A fault of the page that holds the address: the pages of 64 KiB (R448). -/
def samePage (r : TrapRec) (ctx gva : Nat) : Bool :=
  r.fault && r.ctx == ctx && r.gva.toNat / 65536 == gva / 65536

/-- A fault is reported, or merged with the unresolved record of its page (R448); an access that finds no free entry holds
all the same (R450). -/
def State.reportRec (s : State) (r : TrapRec) (gva : Nat) (f : WalkFail) : State :=
  let m := if s.mgmt.traps.any (fun x => samePage x r.ctx gva) then
      { s.mgmt with traps := s.mgmt.traps.map (fun x =>
          if samePage x r.ctx gva then { x with count := min 255 (x.count + 1) } else x) }
    else (s.mgmt.addReplayable { r with fault := true }).getD s.mgmt
  { s with mgmt := match f with
      | .malformed2 _ => m.addInformation { r with kind := .information, owner := .operator }
      | _ => m }

def State.reportFault (s : State) (w : Who) (gva : Nat) (f : WalkFail) (fetch : Bool) : State :=
  match faultRecord w gva f fetch with
  | none => s
  | some r => s.reportRec r gva f

/-- A fault can be reported now: its page has a record, or an entry is free (R448, R450). -/
def State.canReport (s : State) (ctx gva : Nat) (f : WalkFail) : Bool :=
  match f with
  | .inFlight => true
  | .malformed1 _ => true
  | _ => s.mgmt.traps.any (fun x => samePage x ctx gva) || s.mgmt.traps.length < 504

/-- The entry stands in this core's logs: its group is resident there (R138). -/
def State.opHere (s : State) (core : Nat) (o : MemOp) : Bool :=
  o.core == core && (match s.groups.get o.gid with | some g => s.onCore g | none => true)

/-- Held accesses of a core: each holds a load/store unit (R134). -/
def State.heldUnits (s : State) (core : Nat) : Nat :=
  (s.ops.filter (fun o => s.opHere core o && o.stage == .held)).length

/-- Entries of a core's operand log (R137). -/
def State.logged (s : State) (core : Nat) : Nat :=
  (s.ops.filter (fun o => s.opHere core o && o.stage == .issued)).length

/-- Entries of a core's side log (R134). -/
def State.sideLogged (s : State) (core : Nat) : Nat :=
  (s.ops.filter (fun o => s.opHere core o && o.stage == .sideLogged)).length

/-- An access of a path that has joined is still to be performed (R191). -/
def State.pathsPending (s : State) (gid : Nat) : Bool := s.ops.any (fun o => o.gid == gid && o.joined)

/-- The address with the group's own window under one name (R163). -/
def canonAddr (own : Nat) (a : W64) : Nat :=
  if apertureOf a == .core && a.toNat / 2 ^ 16 % 128 == 127 then a.toNat - 127 * 2 ^ 16 + own * 2 ^ 16 else a.toNat

/-- Some byte of two instructions' lanes of one group coincides, by generic address; `own` is the group's WHO. -/
def lanesOverlap (own : Nat) (a : List LaneAccess) (n : Nat) (b : List LaneAccess) (m : Nat) : Bool :=
  a.any (fun x => b.any (fun y =>
    (apertureOf x.addr != .priv || x.lane == y.lane) &&
      decide (canonAddr own x.addr < canonAddr own y.addr + m ∧ canonAddr own y.addr < canonAddr own x.addr + n)))

def opBytes (o : MemOp) : Nat := ((accForm o.instr).map (·.bytes)).getD 0

/-- A side-logged entry of the group that an access overlaps (R135). -/
def State.overlapsSide (s : State) (gid own : Nat) (lanes : List LaneAccess) (n : Nat) : Bool :=
  s.ops.any (fun o => o.gid == gid && o.stage == .sideLogged && lanesOverlap own o.lanes (opBytes o) lanes n)

def AccForm.writes (a : AccForm) : Bool := a.action != .load

/-- A store or RED, which a missing translation sends to the side log. -/
def AccForm.posted (a : AccForm) : Bool :=
  match a.action with
  | .store => true
  | .atomic r => !r
  | .load => false

/-- An earlier logged instruction of the group that must be performed first: one that overlaps, an acquire, or any where
this one is a release. A store passes behind a side-logged entry into the log instead (R135). -/
def orderedBehind (ops : List MemOp) (gid own : Nat) (a : AccForm) (lanes : List LaneAccess) : Bool :=
  ops.any (fun o => o.gid == gid &&
    (a.isRelease || (o.stage != .sideLogged && (match accForm o.instr with | some b => b.isAcquire | none => false)) ||
      (!(o.stage == .sideLogged && a.action == .store) && lanesOverlap own o.lanes (opBytes o) lanes a.bytes)))

end Sys2Proof.Machine
end

