-- ==== Sys2Proof/Machine/Ready.lean ====
section
/-! DEFINITION. What stands between a fragment and its next instruction: the word, its checks and decoding, the window and
pair checks, the holds of R33, R66 and R69, and readiness (spec/01 R19-R25, R33, R36; spec/03 R66, R69; spec/10 R217). -/

namespace Sys2Proof.Machine

open Sys2Proof

/-! ### Registers that a word names -/

/-- Registers of an operand that stands for k of them: vn is n, sn is 256 + n. -/
def regsOf (k : Nat) : Operand → List Nat
  | .v n => range n.toNat k
  | .s n => [256 + n.toNat]
  | _ => []

/-- Registers that a source field reads; of a base pair both (DEDUCED, log 127). -/
def srcRegs (k : SrcKind) (o : Operand) : List Nat :=
  match k with
  | .none => []
  | .vreg => regsOf 1 o
  | .base => regsOf 2 o
  | .data n => regsOf n o
  | _ => regsOf 1 o

/-- Registers that field D names as written. -/
def dstRegs (k : DKind) (cm : Consumers) (d : Operand) : List Nat :=
  match k with
  | .none => []
  | .link => regsOf 1 d
  | .wide n => if cm.reg then regsOf n d else []
  | .pair => if cm.reg then regsOf 2 d else []
  | _ => if cm.reg then regsOf 1 d else []

/-- The code by which the format register counts among registers (R183). -/
def fmtReg : Nat := 320

/-- The code of queue q as a register that a pair may share (R25). -/
def queueReg (q : Nat) : Nat := 321 + q

/-- Forms that read fmt (R99, R104, R110, R186, R195, R320, R332, R391, R407). -/
def readsFmt : Instr → Bool
  | .brs _ _ | .vfcmp _ _ | .vred .fadd _ | .vred .fmin _ | .vred .fmax _ => true
  | .vfadd _ _ | .vfsub _ _ | .vfmul _ _ | .vfma _ _ | .vfnma _ _ | .vfmin _ _ | .vfmax _ _ => true
  | .vfrsqe _ | .vfrcpe _ | .vfex2e _ | .vflg2e _ | .vfscl _ _ | .vfrnd _ _ => true
  | .vcvt _ _ | .vpack _ _ | .vunpk _ _ | .vhfma _ _ | .vdot4 _ _ | .vtsel _ | .getfmt _ _ => true
  | .mxloop _ | .mxstep _ | .mxzero _ _ | .mxld _ _ | .mxst _ _ | .mxepi _ _ => true
  | _ => false

/-- Forms that write fmt whole; a sticky flag is no such write (R183, R189, R194, R195). -/
def writesFmt : Instr → Bool
  | .setfmt _ _ => true
  | .getfmt .clr _ => true
  | .regang _ => true
  | _ => false

/-- The queue that a word pushes to. -/
def pushReg (cm : Consumers) (d : Operand) (imm : W32) : List Nat :=
  match destQueue cm d imm with
  | some q => [queueReg q]
  | none => []

/-- Registers and queues read, and those written. -/
structure Uses where
  reads : List Nat
  writes : List Nat
  deriving DecidableEq, Repr

def maskReg (m : BitVec 6) : List Nat := if m = 0 then [] else [256 + m.toNat]

def popRegs (l : List Operand) : List Nat := (queuesIn l).map queueReg

/-- TRY keeps every s register (R392). -/
def readsAll : Instr → List Nat
  | .tryOpen _ => range 256 64
  | _ => []

def Instr.uses (i : Instr) : Uses :=
  let fr := (if readsFmt i then [fmtReg] else []) ++ readsAll i
  let fw := if writesFmt i then [fmtReg] else []
  match i.form, i.payload with
  | some f, some (.v x) =>
    ⟨srcRegs f.a x.a ++ srcRegs f.b x.b ++ srcRegs f.c x.c ++ maskReg x.msk ++ popRegs [x.a, x.b, x.c] ++ fr,
     dstRegs f.d x.cm x.d ++ pushReg x.cm x.d x.imm ++ fw⟩
  | some f, some (.m x) =>
    ⟨srcRegs f.a x.a ++ srcRegs f.b x.b ++ maskReg x.msk ++ popRegs [x.a, x.b] ++ fr,
     dstRegs f.d x.cm x.d ++ pushReg x.cm x.d 0 ++ fw⟩
  | some f, some (.b x) =>
    ⟨srcRegs f.a x.a ++ fr, dstRegs f.d .none x.d ++ (match f.a with | .sreg => regsOf 1 x.a | _ => []) ++ fw⟩
  | _, _ => ⟨[], []⟩

/-- The v registers among them. -/
def Uses.vregs (u : Uses) : List Nat := (u.reads ++ u.writes).filter (· < 256)

/-- A v register beyond the window (R36, R160). -/
def Instr.beyond (i : Instr) (g : Group) : Bool := (Instr.uses i).vregs.any (fun n => 8 * g.blocks ≤ n)

/-- The group may run the form (R38). -/
def Instr.roleOk (i : Instr) (g : Group) : Bool :=
  !g.access || (match i.form with | some f => f.bobbin | none => false)

/-! ### Pairs (R25) -/

def isControl (op : Nat) : Bool := 1 ≤ op && op ≤ 0x0B

/-- LA of a word. -/
def laOf (i : Instr) : BitVec 4 :=
  match i.payload with
  | some (.v x) => x.la
  | some (.m x) => x.la
  | _ => 0

def shares (a b : List Nat) : Bool := a.any b.contains

/-- One word writes fmt and the other reads or writes it (R183). -/
def fmtMeets (a b : Uses) : Bool := (a.writes.contains fmtReg && (b.reads ++ b.writes).contains fmtReg)

/-- A pair of decoded words is valid: the second word may write what the first reads (R25), but for fmt, whose writer and
reader form no pair in either order (R183). A queue is one of the operand queues; two words that feed one engine queue may pair.
DEDUCED (log 25, 149). -/
def pairOk (a b : Instr) : Bool :=
  let opA := ((Instr.opFn a).map (·.1)).getD 0
  let opB := ((Instr.opFn b).map (·.1)).getD 0
  let ua := Instr.uses a
  let ub := Instr.uses b
  !(0xA0 ≤ opA || 0xA0 ≤ opB) && !isControl opA &&
    !((match a.form with | some f => f.long | none => false) && laOf a == 0) &&
    !shares ua.writes (ub.reads ++ ub.writes) && !fmtMeets ub ua

/-- The slot leads a pair of its line whose words both pass their own decoding and break R25. -/
def pairFails (line : List Byte) (slot : Nat) (g : Group) (i : Instr) : Bool :=
  (pairFirsts (lineWord line).pair).contains slot && !g.access &&
    (match decode (lineSlot line (slot + 1)) with
     | .error _ => false
     | .ok j => !Instr.beyond j g && !pairOk i j)

/-! ### Holds (R33, R66, R69) -/

/-- Destination registers that a logged instruction will still write. -/
def MemOp.dests (o : MemOp) : List Nat := (Instr.uses o.instr).writes.filter (· < 320)

/-- Registers of its own window that a store not yet performed will write through the core-scratchpad aperture (R69, R164). -/
def MemOp.windowDests (o : MemOp) (g : Group) : List Nat :=
  match accForm o.instr with
  | some a => if a.writes then (o.lanes.filter (fun x => g.ownWindow x.addr)).flatMap (fun x => windowRegs x.addr a.bytes) else []
  | none => []

/-- What a fragment's waiting instruction, which has issued, will still write (R66). -/
def Frag.begunWrites (f : Frag) : List Nat :=
  match (if f.begun then f.pend else none) with
  | some i => (Instr.uses i).writes.filter (· < 320)
  | none => []

/-- A window of the fragment is full, or a register that the word names is pending in its group: one that a logged instruction
will write, or another fragment's that waits. -/
def State.holds (s : State) (w : Who) (i : Instr) : Bool :=
  let u := Instr.uses i
  w.g.frags.any (fun f => f.id != w.fid && shares f.begunWrites (u.reads ++ u.writes)) ||
  s.ops.any (fun o => o.gid == w.gid &&
    ((o.stage != .sideLogged && ((o.fid == w.fid && o.left == 0) || shares o.dests (u.reads ++ u.writes))) ||
      shares (o.windowDests w.g) (u.reads ++ u.writes)))

/-- Registers of the group that logged instructions will still write. -/
def State.pendingRegs (s : State) (gid : Nat) : Bool :=
  s.ops.any (fun o => o.gid == gid && o.stage != .sideLogged &&
    (match accForm o.instr with | some b => !b.posted | none => false))

/-- A register window is reached behind registers that are pending there: in the group's own window behind all of them, in
another's behind those that a store would write (R69, R164). -/
def State.windowWaits (s : State) (w : Who) (a : AccForm) (lanes : List LaneAccess) : Bool :=
  lanes.any (fun y => apertureOf y.addr == .core &&
    (match s.whoGroup (s.seat w.gid w.g y.lane) (y.addr.toNat / 2 ^ 16 % 128) with
     | some (k, g) =>
       (a.writes && g.frags.any (fun f => !(k == w.gid && f.id == w.fid) && shares f.begunWrites (windowRegs y.addr a.bytes))) ||
       (if k = w.gid then s.pendingRegs w.gid
        else a.writes && s.ops.any (fun o => o.gid == k && o.stage != .sideLogged && shares o.dests (windowRegs y.addr a.bytes)))
     | none => false))

/-- A memory form waits for earlier accesses of its group: those that it must come behind, registers pending in a window that it
reaches, and accesses of paths that have joined (R69, R131, R135, R164, R191). An MWAIT and a JOIN read as acquire loads (R202,
R270). -/
def State.accessWaits (s : State) (w : Who) (i : Instr) : Bool :=
  let behind (a : AccForm) (l : List LaneAccess) : Bool :=
    orderedBehind s.ops w.gid w.g.who a l || s.windowWaits w a l || (w.f.afterJoin && s.pathsPending w.gid)
  match i with
  | .mwait _ x => behind ⟨4, .load, ⟨.group, .acquire, .normal, false, false⟩, true⟩ [⟨w.f.lowLane, s.srcS w 0 x.a, [], 0⟩]
  | .join _ x => behind ⟨8, .load, ⟨.device, .acquire, .normal, false, false⟩, true⟩ [⟨w.f.lowLane, s.srcS w 0 x.a, [], 0⟩]
  | _ =>
    match accForm i, opMArgs i with
    | some a, some x => !(s.ops.isEmpty && !w.f.afterJoin) && behind a (s.lanesOf w i x a.scalar)
    | _, _ => false

/-! ### The word at a PC -/

/-- Line and word checks of a slot: an instruction, or why it does not run. -/
def State.word (s : State) (w : Who) (line : List Byte) : Except Stop Instr :=
  if (lineWord line).reserved ≠ 0 then .error (.cause 0x02 (some w.f.pc.line))
  else if w.f.byTransfer && !((lineWord line).target.getLsbD w.f.pc.slot) then .error (.cause 0x03 (some w.f.pc.addr))
  else
    match decode (lineSlot line w.f.pc.slot) with
    | .error e => .error (.cause e.cause none)
    | .ok i =>
      if !Instr.roleOk i w.g then .error (.cause 0x0E none)
      else if Instr.beyond i w.g then .error (.cause 0x06 none)
      else if pairFails line w.f.pc.slot w.g i then .error (.cause 0x05 none)
      else if s.holds w i then .error (.wait .hold s)
      else .ok i

/-! ### Readiness (R217) -/

/-- What stands at the fragment's PC, where its line can be read and passes its check. -/
def State.nextWord (s : State) (w : Who) : Option (Except Stop Instr) :=
  match s.fetchLine w.g.ctx w.g.core w.f.pc.line with
  | .error _ => none
  | .ok l => if lineCheckOk l then some (s.word w l) else none

/-- What an instruction brings to the checks of queues and consumers. -/
def Instr.shape (i : Instr) (w : Who) : Option Shape :=
  match i.payload with
  | some (.v x) => some ⟨x.cm, x.d, x.imm, queuesIn [x.a, x.b, x.c], w.active x.msk⟩
  | some (.m x) => some ⟨x.cm, x.d, 0, queuesIn [x.a, x.b], w.active x.msk⟩
  | _ => none

/-- The fragment's next instruction is held by R33, R66 or R69, or waits for earlier accesses. -/
def State.heldNext (s : State) (w : Who) : Bool :=
  match s.nextWord w with
  | some (.error (.wait .hold _)) => true
  | some (.ok i) => s.accessWaits w i
  | _ => false

/-- The fragment's next instruction would wait at the queue window (R166). -/
def State.queueNext (s : State) (w : Who) : Bool :=
  match s.nextWord w with
  | some (.ok i) =>
    (match Instr.shape i w with
     | some x => (match s.pre w x with | .error (.wait .queue _) => true | _ => false)
     | none => false)
  | _ => false

/-- The group issues: it is on its core, not stopped, its bobbin cause, if any, is handled (R437-R440), and the side-log entries
with which it was restored have been replayed (R138). -/
def State.groupRuns (s : State) (gid : Nat) (g : Group) : Bool :=
  s.onCore g && g.stopped.isNone && g.bobCause.isNone && s.ops.all (fun o => o.gid != gid || !o.first)

/-- Nothing of the fragment waits, no result of it is still owed to a consumer (R35), and in handler mode it is the
handler's (R437). -/
def Group.mayIssue (g : Group) (f : Frag) : Bool :=
  f.status == .ready && !g.owing.any (fun o => o.fid == f.id) &&
    (!g.hm || (match g.handling with | some h => h.fid == f.id | none => true))

/-- The fragment is ready: its next instruction has passed every hold and every wait (R217). -/
def State.isReady (s : State) (w : Who) : Bool :=
  s.groupRuns w.gid w.g && w.g.mayIssue w.f && !s.heldNext w && !s.queueNext w

/-- The fragments of one issue side of a core that wait for nothing but what their next instruction may meet. -/
def State.candidates (s : State) (core : Nat) (access : Bool) : List Who :=
  (s.groups.filter (fun e => e.2.core == core && e.2.access == access && s.groupRuns e.1 e.2)).flatMap (fun e =>
    (e.2.frags.filter e.2.mayIssue).map (fun f => ⟨e.1, f.id, e.2, f⟩))

/-- The ready fragments of one issue side of a core (R217, R219). -/
def State.readySide (s : State) (core : Nat) (access : Bool) : List Who :=
  (s.candidates core access).filter (fun w => !s.heldNext w && !s.queueNext w)

end Sys2Proof.Machine
end

