-- ==== Sys2Proof/Machine/Control.lean ====
section
/-! DEFINITION. The control forms: transfers, CALL and its returns, DJNZ, EXIT, YIELD, the parting branch, REGANG and MSKIP
(spec/03 R73-R82; spec/08 R185-R193). -/

namespace Sys2Proof.Machine

open Sys2Proof

/-- A fragment waits before a fetch that has no translation; a malformed entry is a precise cause (R445, R447). -/
def State.fetchHold (s : State) (w : Who) (a : W64) (f : WalkFail) : Stop :=
  match f with
  | .malformed1 _ => .cause 0x17 (some a)
  | _ => .wait (.fetch a) (s.reportFault w a.toNat f true)

/-- The target's line fails its check: the fragment restarts at the transfer, and the failure after the third restart is a
precise cause there (R22, R75). DEDUCED (log 38). -/
def State.lineUnread (s : State) (w : Who) (pc : Pc) : Except Stop State :=
  if w.f.landTries < 3 then
    .ok ((s.updFrag w.gid w.fid (fun f =>
      { f with landTries := f.landTries + 1, retiredHere := f.retiredHere + 1, age := 0 })).relcntUp w.g.ctx)
  else .error (.cause 0x04 (some pc.line))

/-- A taken transfer to a byte address: its checks, then `upd` and the new PC (R24, R75, R77). -/
def State.transfer (s : State) (w : Who) (a : W64) (upd : State → State) : Except Stop State :=
  match s.landing w a with
  | .illegal => .error (.cause 0x03 (some a))
  | .blocked pc f => .error (s.fetchHold w pc.addr f)
  | .ok pc => .ok ((upd s).goto w pc false)
  | .unread pc => s.lineUnread w pc

/-- The target of a word of format B (R27). -/
def branchTarget (pc : Pc) (x : BArgs) : W64 :=
  pc.line + ((x.lineOff.signExtend 64) <<< (6 : Nat)) + BitVec.ofNat 64 (12 * x.slot.toNat)

/-- A control form is not reached with a dormant slice (R193). -/
def control (s : State) (body : Who → Except Stop State) : Host.Outcome State Fault Refusal :=
  run s (fun w => if w.f.dormant.isEmpty then body w else .error (.cause 0x0B none))

/-- NOP (R73). -/
def execNop (s : State) : Host.Outcome State Fault Refusal := run s (fun w => .ok (s.advance w))

/-- BRA (R74, R75). -/
def execBra (x : BArgs) (s : State) : Host.Outcome State Fault Refusal :=
  control s (fun w => s.transfer w (branchTarget w.f.pc x) id)

/-- BRC (R74, R75). -/
def execBrc (fn : BrcFn) (x : BArgs) (s : State) : Host.Outcome State Fault Refusal :=
  control s (fun w =>
    if brcHolds fn (s.srcS w 0 x.a) then s.transfer w (branchTarget w.f.pc x) id else .ok (s.advance w))

/-- The number of an s register operand. -/
def Operand.sNum : Operand → Nat
  | .s n => n.toNat
  | _ => 0

def State.setSreg (s : State) (w : Who) (n : Nat) (x : W64) : State := s.updGroup w.gid (fun g => g.setS n x)

/-- CALL (R76): the link is the byte address of the PC that follows. -/
def execCall (x : BArgs) (s : State) : Host.Outcome State Fault Refusal :=
  control s (fun w =>
    s.transfer w (branchTarget w.f.pc x) (fun s => s.setSreg w (Operand.sNum x.d) w.f.pc.next.addr))

/-- RET (R77). -/
def execRet (x : BArgs) (s : State) : Host.Outcome State Fault Refusal :=
  control s (fun w => s.transfer w (s.srcS w 0 x.a) id)

/-- JMPI (R77). -/
def execJmpi (x : BArgs) (s : State) : Host.Outcome State Fault Refusal :=
  control s (fun w => s.transfer w (s.srcS w 0 x.a) id)

/-- DJNZ (R78). -/
def execDjnz (x : BArgs) (s : State) : Host.Outcome State Fault Refusal :=
  control s (fun w =>
    let n := Operand.sNum x.a
    let v := w.g.s? n - 1
    if v = 0 then .ok ((s.setSreg w n v).advance w)
    else s.transfer w (branchTarget w.f.pc x) (fun s => s.setSreg w n v))

/-! ### EXIT (R79, R80, R190) -/

/-- What an EXIT finds on the fragment's stack: slices parked or waiting under it that go on. -/
inductive ExitGoesOn where
  | parked (r : List Rec) (slices : BitVec 8)
  | joined (r : List Rec) (id : Nat) (slices : BitVec 8) (saved : W32)
  | ended
  deriving DecidableEq, Repr

def exitStack : List Rec → ExitGoesOn
  | .park id saved parked resume waiting ran :: t =>
    if !ran && parked != 0 then .parked (.park id saved parked resume waiting ran :: t) parked
    else if ran && waiting != 0 then .joined t id waiting saved
    else exitStack t
  | _ => .ended

/-- The fork records that a stack holds. -/
def forkIds (l : List Rec) : List Nat := l.filterMap (fun r => match r with | .fork id _ => some id | _ => none)

/-- The PC that a record is bound to (R188). -/
def Group.bound (g : Group) (id : Nat) : Option (Nat × Pc) :=
  (g.bindings.find? (fun b => b.1 == id)).map (·.2)

def Group.unbind (g : Group) (id : Nat) : Group := { g with bindings := g.bindings.filter (fun b => b.1 != id) }

/-- The last fragment of a group at EXIT waits for the group's end (R79); its partner's pops may now fail (R80). -/
def State.lastExit (s : State) (w : Who) : State :=
  let s1 := (s.updFrag w.gid w.fid (fun f => { f.issued with status := .waiting .exit })).push (.groupLeavesCore w.gid)
  s1.queueMoved w

/-- Accesses of the paths that join at a REGANG come before those of the joined fragment (R191): every one of the group but
those of its other fragments. -/
def State.joinPaths (s : State) (gid : Nat) (others : List Nat) : State :=
  { s with ops := s.ops.map (fun o => if o.gid == gid && !others.contains o.fid then { o with joined := true } else o) }

/-- EXIT outside a region. -/
def State.exitFrag (s : State) (w : Who) : State :=
  let s1 := s.updGroup w.gid (fun g => { g with exited := g.exited ||| w.f.slices, retired := g.retired + 1 })
  -- the last fragment's slices are marked when its group leaves: a cause may still take it out of the wait (R80, R438)
  match exitStack w.f.stack with
  | .parked r p =>
    ((s1.ticked w.gid w.fid).updFrag w.gid w.fid (fun f =>
      { f.issued with slices := p, stack := r, status := .waiting .park })).push (.parkedSlicesResume w.gid w.fid)
  | .joined r id p saved =>
    ((s1.ticked w.gid w.fid).updGroup w.gid (fun g =>
      ((g.updFrag w.fid (fun f =>
        { f.issued with slices := p, stack := r, fmt := saved, afterJoin := true,
                        pc := ((g.bound id).map (fun b => b.2.next)).getD f.pc })).unbind id))).joinPaths w.gid
      ((w.g.frags.filter (fun f => f.id != w.fid)).map (·.id))
  | .ended =>
    if w.g.frags.length ≤ 1 then s.lastExit w
    else
      (forkIds w.f.stack).foldl (fun s id => s.push (.regangJoin w.gid id))
        (s1.updGroup w.gid (fun g => { g with frags := g.frags.filter (fun f => f.id != w.fid) }))

/-- EXIT (R79, R80, R82). -/
def execExit (_x : Args) (s : State) : Host.Outcome State Fault Refusal :=
  control s (fun w => if w.g.tryR.isSome then .error (.abort 0x01 0 none) else .ok (s.exitFrag w))

/-- The priority of a group's task (R81, R307). -/
def State.prio (s : State) (g : Group) : Nat := (s.launchOf g.task).prio

/-- Fragments of the core that are ready now at the same or a higher priority, with the instructions they have issued
(R81). -/
def State.yieldSet (s : State) (w : Who) : List (Nat × Nat) :=
  (s.groups.filter (fun e => e.2.core == w.g.core && s.prio w.g ≤ s.prio e.2)).flatMap (fun e =>
    (e.2.frags.filter (fun f => f.id != w.fid && s.isReady ⟨e.1, f.id, e.2, f⟩)).map (fun f => (f.id, f.retiredHere)))

/-- YIELD (R81). -/
def execYield (_x : Args) (s : State) : Host.Outcome State Fault Refusal :=
  control s (fun w =>
    .ok ((s.advance w).setStatus w.gid w.fid (.yielding (s.clock + 64) (s.yieldSet w))))

/-! ### Parting and joining (R185-R190) -/

/-- The running slices of a fragment for which the condition holds (R185). -/
def slicesWhere (f : Frag) (p : Nat → Bool) : BitVec 8 :=
  BitVec.ofNat 8 ((List.range 8).foldl (fun a j => if f.slices.getLsbD j && p j then a + 2 ^ j else a) 0)

def forkDepth (l : List Rec) : Nat := (forkIds l).length

def parkDepth (l : List Rec) : Nat := l.length - forkDepth l

/-- BRS below fork depth 8: the record, and the smaller part detached (R186). -/
def State.part (s : State) (w : Who) (taken : BitVec 8) (tpc : Pc) (jump : Bool) : State :=
  let rest := w.f.slices &&& ~~~taken
  let stack := Rec.fork s.nextId w.f.fmt :: w.f.stack
  let s1 := { s.updFrag w.gid w.fid (fun f => { f with stack := stack }) with nextId := s.nextId + 2 }
  if taken = 0 then s1.advance w
  else if rest = 0 then s1.goto w tpc jump
  else
    let takenLeaves := decide (popCount taken 8 ≤ popCount rest 8)
    let part := if takenLeaves then taken else rest
    let keep := if takenLeaves then rest else taken
    let new : Frag :=
      { w.f with id := s.nextId + 1, slices := part, pc := if takenLeaves then tpc else w.f.pc.next, stack := stack,
                 status := .ready, age := 0, byTransfer := takenLeaves && jump, crcTries := 0, landTries := 0,
                 retiredHere := 0, waitFrom := none, begun := false }
    let s2 := s1.updGroup w.gid (fun g =>
      { g with frags := (g.updFrag w.fid (fun f => { f with slices := keep })).frags ++ [new] })
    if takenLeaves then s2.advance w else s2.goto w tpc jump

/-- BRS at fork depth 8: a park entry (R187). -/
def State.parkPart (s : State) (w : Who) (taken : BitVec 8) (tpc : Pc) (jump : Bool) : State :=
  let rest := w.f.slices &&& ~~~taken
  let parked := if taken = 0 then 0 else rest
  let keep := if taken = 0 then w.f.slices else taken
  let r := Rec.park s.nextId w.f.fmt parked w.f.pc.next 0 false
  let s1 := { s.updFrag w.gid w.fid (fun f => { f with stack := r :: w.f.stack, slices := keep })
              with nextId := s.nextId + 1 }
  if taken = 0 then s1.advance w else s1.goto w tpc jump

/-- BRS (R185-R187). -/
def execBrs (fn : BrsFn) (x : BArgs) (s : State) : Host.Outcome State Fault Refusal :=
  control s (fun w =>
    let a := s.srcS w 0 x.a
    let taken := slicesWhere w.f (fun j => brsTaken fn ((a.toNat >>> (4 * j)) % 16))
    let go (tpc : Pc) (jump : Bool) : Except Stop State :=
      if forkDepth w.f.stack < 8 then .ok (s.part w taken tpc jump)
      else if 8 ≤ parkDepth w.f.stack then .error (.cause 0x0A none)
      else .ok (s.parkPart w taken tpc jump)
    if taken = 0 then go w.f.pc.next false
    else
      let t := branchTarget w.f.pc x
      match s.landing w t with
      | .illegal => .error (.cause 0x03 (some t))
      | .blocked pc f => .error (s.fetchHold w pc.addr f)
      | .ok pc => go pc false
      | .unread pc => s.lineUnread w pc)

/-- Other fragments of the group that hold a fork record. -/
def Group.otherHolders (g : Group) (id fid : Nat) : List Frag :=
  g.frags.filter (fun f => f.id != fid && (forkIds f.stack).contains id)

/-- A record popped at once: saved_fmt comes back (R189, R190). -/
def State.popRecord (s : State) (w : Who) (id : Nat) (saved : W32) (more : BitVec 8) : State :=
  ((s.updGroup w.gid (fun g =>
    (g.updFrag w.fid (fun f =>
      { f with stack := f.stack.drop 1, fmt := saved, slices := f.slices ||| more, afterJoin := true })).unbind id)).joinPaths
        w.gid ((w.g.frags.filter (fun f => f.id != w.fid)).map (·.id))).advance w

/-- The arrival binds an unbound record (R188). -/
def Group.bind_ (g : Group) (id token : Nat) (pc : Pc) : Group :=
  if (g.bound id).isSome then g else { g with bindings := (id, token, pc) :: g.bindings }

/-- REGANG (R188-R190). -/
def execRegang (x : Args) (s : State) : Host.Outcome State Fault Refusal :=
  control s (fun w =>
    let token := immField x.imm 0 16
    let fits (id : Nat) : Bool := match w.g.bound id with | none => true | some b => b == (token, w.f.pc)
    match w.f.stack with
    | [] => .error (.cause 0x09 none)
    | .fork id saved :: _ =>
      if !fits id then .error (.cause 0x09 none)
      else if (w.g.otherHolders id w.fid).isEmpty then .ok (s.popRecord w id saved 0)
      else .error (.wait (.join id)
        ((s.updGroup w.gid (fun g => g.bind_ id token w.f.pc)).push (.regangJoin w.gid id)))
    | .park id saved parked _ waiting ran :: _ =>
      if !fits id then .error (.cause 0x09 none)
      else if !ran && parked != 0 then
        .error (.wait .park
          ((s.updGroup w.gid (fun g => g.bind_ id token w.f.pc)).push (.parkedSlicesResume w.gid w.fid)))
      else .ok (s.popRecord w id saved waiting))

/-- MSKIP (R192): running slices with four mask bits of 0 become dormant until the block's end. -/
def execMskip (x : Args) (s : State) : Host.Outcome State Fault Refusal :=
  run s (fun w =>
    let m := w.g.s? x.msk.toNat
    let stop := w.f.pc.skip (immField x.imm 0 8 + 1)
    let sleep := (List.range 8).filter (fun j => w.f.runs j && (m.toNat >>> (4 * j)) % 16 == 0)
    .ok ((s.updFrag w.gid w.fid (fun f => { f with dormant := f.dormant ++ sleep.map (fun j => (j, stop)) })).advance w))

end Sys2Proof.Machine
end

