-- ==== Sys2Proof/Machine/Fp.lean ====
section
/-! DEFINITION. Floating-point values of every format, exact results and their one rounding, and the FP32 operations on
values alone (spec/07 R170-R181; spec/04 R110-R119; spec/20 R365-R367). -/

namespace Sys2Proof.Machine

open Sys2Proof

/-! ### Formats and values (R170, R365) -/

/-- A floating-point format: fraction bits, bias, the encodings of the largest finite value and of the canonical NaN, and
the exponent field of infinities and NaNs, where the format has infinities. -/
structure FloatFmt where
  width : Nat
  frac : Nat
  bias : Nat
  maxBits : Nat
  infBits : Option Nat
  nanBits : Nat
  deriving DecidableEq, Repr

def fp32 : FloatFmt := ⟨32, 23, 127, 0x7F7FFFFF, some 0x7F800000, 0x7FC00000⟩
def bf16 : FloatFmt := ⟨16, 7, 127, 0x7F7F, some 0x7F80, 0x7FC0⟩
def fp16 : FloatFmt := ⟨16, 10, 15, 0x7BFF, some 0x7C00, 0x7E00⟩
def e4m3 : FloatFmt := ⟨8, 3, 7, 0x7E, none, 0x7F⟩
def e5m2 : FloatFmt := ⟨8, 2, 15, 0x7B, some 0x7C, 0x7E⟩

/-- The value of an encoding: a finite one is m × 2^e with its sign. -/
inductive FVal where
  | nan (neg sig : Bool)
  | inf (neg : Bool)
  | fin (neg : Bool) (m : Nat) (e : Int)
  deriving DecidableEq, Repr

/-- The exponent of the last place of subnormals. -/
def FloatFmt.eSub (f : FloatFmt) : Int := 1 - (f.bias : Int) - f.frac

/-- The value of the low bits of a pattern (R170, R365). -/
def FloatFmt.read (f : FloatFmt) (x : Nat) : FVal :=
  let neg := x / 2 ^ (f.width - 1) % 2 = 1
  let mag := x % 2 ^ (f.width - 1)
  if mag ≤ f.maxBits then
    let ex := mag / 2 ^ f.frac
    let fr := mag % 2 ^ f.frac
    if ex = 0 then .fin neg fr f.eSub else .fin neg (2 ^ f.frac + fr) (f.eSub + ((ex : Int) - 1))
  else if f.infBits = some mag then .inf neg
  else .nan neg (f.infBits.isSome && mag / 2 ^ (f.frac - 1) % 2 = 0)

/-! ### Rounding (R171-R173) -/

/-- The four modes (R171). -/
inductive RMode where | rne | rtz | rdn | rup deriving DecidableEq, Repr

def rmodeOf : Nat → RMode
  | 0 => .rne
  | 1 => .rtz
  | 2 => .rdn
  | _ => .rup

/-- The mode of a form: its rounding suffix, else fmt's (R42, R171). -/
def formMode (fn : RndFn) (fmt : W32) : RMode :=
  match fn with
  | .fmt => rmodeOf (fmtRM fmt)
  | .rne => .rne
  | .rtz => .rtz
  | .rdn => .rdn
  | .rup => .rup

/-- m × 2^e in units of 2^grid, rounded, and whether that is inexact. -/
def roundAt (mode : RMode) (neg : Bool) (m : Nat) (e grid : Int) : Nat × Bool :=
  if grid ≤ e then (m * 2 ^ (e - grid).toNat, false)
  else
    let k := (grid - e).toNat
    let q := m / 2 ^ k
    let r := m % 2 ^ k
    let up := match mode with
      | .rne => decide (2 ^ k < 2 * r) || (decide (2 * r = 2 ^ k) && decide (q % 2 = 1))
      | .rtz => false
      | .rdn => neg && decide (r ≠ 0)
      | .rup => !neg && decide (r ≠ 0)
    (if up then q + 1 else q, decide (r ≠ 0))

/-- The exponent of the leading bit of m × 2^e. -/
def leadExp (m : Nat) (e : Int) : Int := (Nat.log2 m : Int) + e

/-- A rounded magnitude. -/
structure Rounded where
  bits : Nat          -- the encoding's magnitude, were there no largest finite value
  inexact : Bool
  tiny : Bool
  deriving DecidableEq, Repr

/-- A non-zero magnitude on the format's grid; tininess is judged after rounding with an unbounded exponent (R173). -/
def FloatFmt.round (f : FloatFmt) (mode : RMode) (neg : Bool) (m : Nat) (e : Int) : Rounded :=
  let free := leadExp m e - f.frac
  let grid := if free < f.eSub then f.eSub else free
  let r := roundAt mode neg m e grid
  let u := roundAt mode neg m e free
  { bits := r.1 + (grid - f.eSub).toNat * 2 ^ f.frac, inexact := r.2,
    tiny := decide (free < f.eSub) && !(decide (free = f.eSub - 1) && decide (u.1 = 2 ^ (f.frac + 1))) }

/-- The sign bit above a magnitude. -/
def FloatFmt.signed (f : FloatFmt) (neg : Bool) (mag : Nat) : Nat := if neg then mag + 2 ^ (f.width - 1) else mag

/-- What an overflow gives: the infinity, or the NaN of the sign where the format has none; else the largest finite value
(R172, R367). -/
def FloatFmt.overflow (f : FloatFmt) (mode : RMode) (neg : Bool) : Nat :=
  let toInf := match mode with
    | .rne => true
    | .rtz => false
    | .rdn => neg
    | .rup => !neg
  if toInf then f.infBits.getD f.nanBits else f.maxBits

/-- An exact non-zero finite value written in a format: its bits and flags (R171-R174, R367, R368). -/
def FloatFmt.write (f : FloatFmt) (mode : RMode) (flush clamp neg : Bool) (m : Nat) (e : Int) : Nat × FlagSet :=
  let r := f.round mode neg m e
  if f.maxBits < r.bits then
    if clamp then (f.signed neg f.maxBits, flagCLP ||| flagNX)
    else (f.signed neg (f.overflow mode neg), flagOF ||| flagNX)
  else if r.tiny && flush then (f.signed neg 0, flagUF ||| flagNX)
  else (f.signed neg r.bits, (if r.tiny && r.inexact then flagUF else 0) ||| (if r.inexact then flagNX else 0))

/-! ### Exact sums and products -/

/-- The exact value n × 2^e. -/
structure Exact where
  n : Int
  e : Int
  deriving DecidableEq, Repr

def Exact.add (a b : Exact) : Exact :=
  let e := if a.e < b.e then a.e else b.e
  ⟨a.n * 2 ^ (a.e - e).toNat + b.n * 2 ^ (b.e - e).toNat, e⟩

def Exact.mul (a b : Exact) : Exact := ⟨a.n * b.n, a.e + b.e⟩

def Exact.ofFin (neg : Bool) (m : Nat) (e : Int) : Exact := ⟨if neg then -(m : Int) else m, e⟩

/-- An exact value in FP32; `zneg` is the sign that an exact zero takes (R111). -/
def Exact.toF32 (x : Exact) (mode : RMode) (flush zneg : Bool) : W32 × FlagSet :=
  if x.n = 0 then (BitVec.ofNat 32 (fp32.signed zneg 0), 0)
  else
    let r := fp32.write mode flush false (decide (x.n < 0)) x.n.natAbs x.e
    (BitVec.ofNat 32 r.1, r.2)

/-! ### The FP32 forms -/

def nan32 : W32 := 0x7FC00000

def inf32 (neg : Bool) : W32 := if neg then 0xFF800000 else 0x7F800000

/-- A subnormal input counts as a zero of its sign under flush (R174). -/
def readF32 (fz : Bool) (x : W32) : FVal :=
  match fp32.read x.toNat with
  | .fin neg m e => if fz && decide (m < 2 ^ 23) then .fin neg 0 e else .fin neg m e
  | v => v

def FVal.isNan : FVal → Bool
  | .nan _ _ => true
  | _ => false

def FVal.isSig : FVal → Bool
  | .nan _ s => s
  | _ => false

def FVal.neg? : FVal → Bool
  | .nan s _ => s
  | .inf s => s
  | .fin s _ _ => s

def FVal.negate : FVal → FVal
  | .nan s g => .nan (!s) g
  | .inf s => .inf (!s)
  | .fin s m e => .fin (!s) m e

/-- The NaN result, invalid if an operand signals. -/
def nanResult (l : List FVal) : W32 × FlagSet := (nan32, if l.any FVal.isSig then flagNV else 0)

/-- A value that is moved as an FP32 result: a NaN becomes the canonical one, and a signalling one raises invalid (R175). -/
def canonNan (a : W32) : W32 × FlagSet := let x := readF32 false a; if x.isNan then nanResult [x] else (a, 0)

/-- The sign of an exact zero sum of two values (IEEE 754; R111). -/
def zeroSign (mode : RMode) (a b : Bool) : Bool := if a = b then a else decide (mode = .rdn)

/-- The sum of two values that are no NaN. -/
def sumF32 (mode : RMode) (fz : Bool) (a b : FVal) : W32 × FlagSet :=
  match a, b with
  | .inf s, .inf t => if s = t then (inf32 s, 0) else (nan32, flagNV)
  | .inf s, _ => (inf32 s, 0)
  | _, .inf t => (inf32 t, 0)
  | .fin s m e, .fin t n f =>
    let x := (Exact.ofFin s m e).add (Exact.ofFin t n f)
    x.toF32 mode fz (if m = 0 ∧ n = 0 then zeroSign mode s t else decide (mode = .rdn))
  | _, _ => (nan32, 0)

/-- VFADD (R111). -/
def addF32 (mode : RMode) (fz : Bool) (a b : W32) : W32 × FlagSet :=
  let x := readF32 fz a
  let y := readF32 fz b
  if x.isNan || y.isNan then nanResult [x, y] else sumF32 mode fz x y

/-- VFSUB (R111). -/
def subF32 (mode : RMode) (fz : Bool) (a b : W32) : W32 × FlagSet :=
  let x := readF32 fz a
  let y := readF32 fz b
  if x.isNan || y.isNan then nanResult [x, y] else sumF32 mode fz x y.negate

/-- A product of values that are no NaN: none for 0 × inf. -/
def mulVal (x y : FVal) : Option FVal :=
  match x, y with
  | .inf s, .inf t => some (.inf (s != t))
  | .inf s, .fin t n _ => if n = 0 then none else some (.inf (s != t))
  | .fin s m _, .inf t => if m = 0 then none else some (.inf (s != t))
  | .fin s m e, .fin t n f => some (.fin (s != t) (m * n) (e + f))
  | _, _ => none

/-- VFMUL (R111). -/
def mulF32 (mode : RMode) (fz : Bool) (a b : W32) : W32 × FlagSet :=
  let x := readF32 fz a
  let y := readF32 fz b
  if x.isNan || y.isNan then nanResult [x, y]
  else
    match mulVal x y with
    | none => (nan32, flagNV)
    | some (.inf s) => (inf32 s, 0)
    | some (.fin s m e) => (Exact.ofFin s m e).toF32 mode fz s
    | some (.nan _ _) => (nan32, 0)

/-- A × B + C of values: invalid for 0 × inf even where C is a quiet NaN (R111). -/
def fmaVal (mode : RMode) (fz : Bool) (x y z : FVal) : W32 × FlagSet :=
  if x.isNan || y.isNan then nanResult [x, y, z]
  else
    match mulVal x y with
    | none => (nan32, flagNV)
    | some p => if z.isNan then nanResult [z] else sumF32 mode fz p z

/-- VFMA (R111). -/
def fmaF32 (mode : RMode) (fz : Bool) (a b c : W32) : W32 × FlagSet :=
  fmaVal mode fz (readF32 fz a) (readF32 fz b) (readF32 fz c)

/-- VFNMA (R111): the product negated exactly. -/
def fnmaF32 (mode : RMode) (fz : Bool) (a b c : W32) : W32 × FlagSet :=
  fmaVal mode fz (readF32 fz a).negate (readF32 fz b) (readF32 fz c)

/-- The bits of an input after flush. -/
def flushed (fz : Bool) (x : W32) : W32 :=
  match readF32 fz x with
  | .fin neg 0 _ => if neg then 0x80000000 else 0
  | _ => x

/-- Signed magnitude in order: −0 below +0. -/
def orderKey (x : W32) : Int := if x.msb then -(x.toNat - 2 ^ 31 : Int) - 1 else x.toNat

/-- VFMIN and VFMAX (R112). -/
def minMaxF32 (isMax : Bool) (fn : NanFn) (fz : Bool) (a b : W32) : W32 × FlagSet :=
  let x := readF32 fz a
  let y := readF32 fz b
  let fl := if x.isSig || y.isSig then flagNV else 0
  let fa := flushed fz a
  let fb := flushed fz b
  if x.isNan && y.isNan then (nan32, fl)
  else if x.isNan || y.isNan then
    match fn with
    | .nan => (nan32, fl)
    | .num => (if x.isNan then fb else fa, fl)
  else if isMax then (if orderKey fa < orderKey fb then fb else fa, fl)
  else (if orderKey fb < orderKey fa then fb else fa, fl)

/-- VFSGN (R113). -/
def signF32 (fn : SgnFn) (a b : W32) : W32 :=
  let sign := match fn with
    | .cpy => b.msb
    | .neg => !b.msb
    | .xor => a.msb != b.msb
  (a &&& 0x7FFFFFFF) ||| (if sign then 0x80000000 else 0)

/-- VFSCL (R116). -/
def scaleF32 (mode : RMode) (fz : Bool) (a b : W32) : W32 × FlagSet :=
  match readF32 fz a with
  | .nan _ sig => (nan32, if sig then flagNV else 0)
  | .inf s => (inf32 s, 0)
  | .fin s m e => (Exact.ofFin s m (e + clampInt (-512) 512 b.toInt)).toF32 mode fz s

/-- VFXP (R117). -/
def splitF32 (fn : XpFn) (a : W32) : W32 :=
  match fp32.read a.toNat, fn with
  | .nan _ _, .exp => 0x7FFFFFFF
  | .nan _ _, .man => nan32
  | .inf _, .exp => 0x7FFFFFFF
  | .inf _, .man => a
  | .fin _ m e, .exp => if m = 0 then 0x80000000 else BitVec.ofInt 32 (leadExp m e)
  | .fin s m _, .man =>
    if m = 0 then a
    else BitVec.ofNat 32 (fp32.signed s (127 * 2 ^ 23 + (m * 2 ^ (23 - Nat.log2 m) - 2 ^ 23)))

/-- VFCLS (R118). -/
def classF32 (a : W32) : W32 :=
  match fp32.read a.toNat with
  | .inf s => if s then 0x001 else 0x080
  | .nan _ sig => if sig then 0x100 else 0x200
  | .fin s m _ =>
    if m = 0 then (if s then 0x008 else 0x010)
    else if m < 2 ^ 23 then (if s then 0x004 else 0x020)
    else (if s then 0x002 else 0x040)

/-- VFRND (R119). -/
def integralF32 (mode : RMode) (fz : Bool) (a : W32) : W32 × FlagSet :=
  match readF32 fz a with
  | .nan _ sig => (nan32, if sig then flagNV else 0)
  | .inf s => (inf32 s, 0)
  | .fin s m e =>
    if 0 ≤ e then (a, 0)
    else
      let q := (roundAt mode s m e 0).1
      if q = 0 then (BitVec.ofNat 32 (fp32.signed s 0), 0) else ((Exact.ofFin s q 0).toF32 mode false s |>.1, 0)

/-- How two values compare: none where one is a NaN. -/
def compareF (x y : FVal) : Option Ordering :=
  match x, y with
  | .nan _ _, _ => none
  | _, .nan _ _ => none
  | .inf s, .inf t => some (if s = t then .eq else if s then .lt else .gt)
  | .inf s, .fin _ _ _ => some (if s then .lt else .gt)
  | .fin _ _ _, .inf t => some (if t then .gt else .lt)
  | .fin s m e, .fin t n f =>
    let d := ((Exact.ofFin s m e).add (Exact.ofFin (!t) n f)).n
    some (if d < 0 then .lt else if d = 0 then .eq else .gt)

/-- VFCMP (R99): the condition and the flags. -/
def cmpF32 (fn : FcmpFn) (fz : Bool) (a b : W32) : Bool × FlagSet :=
  let x := readF32 fz a
  let y := readF32 fz b
  let sig := if x.isSig || y.isSig then flagNV else 0
  let any := if x.isNan || y.isNan then flagNV else 0
  let c := compareF x y
  match fn with
  | .eq => (c == some .eq, sig)
  | .ne => (c != some .eq, sig)
  | .lt => (c == some .lt, any)
  | .le => (c == some .lt || c == some .eq, any)
  | .gt => (c == some .gt, any)
  | .ge => (c == some .gt || c == some .eq, any)
  | .ord => (c.isSome, sig)
  | .uno => (c.isNone, sig)

/-! ### Estimates (R114, R115, R179) -/

/-- The integer square root, k bits from the top. -/
def isqrt (n : Nat) : Nat → Nat → Nat
  | 0, r => r
  | k + 1, r => isqrt n k (if (r + 2 ^ k) * (r + 2 ^ k) ≤ n then r + 2 ^ k else r)

/-- A positive value between F and F + 1 units of 2^e, rounded on the estimate grid (R115): no exact value lies halfway
between two grid values, so F with a sticky half stands for it. -/
def estimateBits (neg fz : Bool) (f : Nat) (e : Int) : W32 × FlagSet :=
  let m := 2 * f + 1
  let e := e - 1
  if leadExp m e < -126 then
    let q := (roundAt .rne false m e (-149)).1
    if fz && decide (q < 2 ^ 23) then (BitVec.ofNat 32 (fp32.signed neg 0), flagUF)
    else (BitVec.ofNat 32 (fp32.signed neg q), 0)
  else
    let grid := leadExp m e - 11
    let q := (roundAt .rne false m e grid).1
    let bits := q * 2 ^ 12 + (grid - 12 + 149).toNat * 2 ^ 23
    (BitVec.ofNat 32 (fp32.signed neg (if 0x7F800000 ≤ bits then 0x7F7FF000 else bits)), 0)

/-- VFRSQE (R114, R115). -/
def rsqrtF32 (fz : Bool) (a : W32) : W32 × FlagSet :=
  match readF32 fz a with
  | .nan _ sig => (nan32, if sig then flagNV else 0)
  | .inf s => if s then (nan32, flagNV) else (0, 0)
  | .fin s m e =>
    if m = 0 then (inf32 s, flagDZ)
    else if s then (nan32, flagNV)
    else
      let m' := if e % 2 = 0 then m else 2 * m
      let e' := if e % 2 = 0 then e else e - 1
      estimateBits false fz (isqrt (2 ^ 128 / m') 65 0) (-64 - e' / 2)

/-- VFRCPE (R114, R115). -/
def recipF32 (fz : Bool) (a : W32) : W32 × FlagSet :=
  match readF32 fz a with
  | .nan _ sig => (nan32, if sig then flagNV else 0)
  | .inf s => (BitVec.ofNat 32 (fp32.signed s 0), 0)
  | .fin s m e =>
    if m = 0 then (inf32 s, flagDZ)
    else if m * 2 ^ (e + 149).toNat ≤ 2 ^ 21 then (inf32 s, flagOF)
    else estimateBits s fz (2 ^ 64 / m) (-64 - e)

/-- 2^(b / 2^i) for the k fraction bits b_1 b_2 … of a number below 1, in units of 2^-128, by square roots: bit i contributes
the i-th square root of 2. -/
def exp2Bits (bits k : Nat) : Nat → Nat → Nat → Nat
  | 0, _, acc => acc
  | fuel + 1, root, acc =>
    let root' := isqrt (root * 2 ^ 128) 130 0
    let acc' := if bits / 2 ^ (k - 1) % 2 = 1 then acc * root' / 2 ^ 128 else acc
    exp2Bits (bits * 2) k fuel root' acc'

/-- VFEX2E (R114, R115). Below 2^-20 in magnitude the result rounds to 1. -/
def exp2F32 (fz : Bool) (a : W32) : W32 × FlagSet :=
  match readF32 fz a with
  | .nan _ sig => (nan32, if sig then flagNV else 0)
  | .inf s => if s then (0, 0) else (0x7F800000, 0)
  | .fin s m e =>
    if m = 0 ∨ leadExp m e < -20 then (0x3F800000, 0)
    else
      let x := Exact.ofFin s m e
      -- x in units of 2^-44, exact here
      let n := x.n * 2 ^ (e + 44).toNat
      let whole := n / 2 ^ 44
      let part := (n % 2 ^ 44).toNat
      if 128 ≤ whole then (0x7F800000, flagOF)
      else if n ≤ -150 * 2 ^ 44 then (0, flagUF)
      else estimateBits false fz (exp2Bits part 44 44 (2 ^ 129) (2 ^ 128)) (whole - 128)

/-- The first k binary digits of log2 of y, for y from 1 to 2 in units of 2^-256. -/
def log2Digits : Nat → Nat → Nat → Nat
  | 0, _, acc => acc
  | k + 1, y, acc =>
    let z := y * y / 2 ^ 256
    if 2 ^ 257 ≤ z then log2Digits k (z / 2) (2 * acc + 1) else log2Digits k z (2 * acc)

/-- VFLG2E (R114, R115). -/
def log2F32 (fz : Bool) (a : W32) : W32 × FlagSet :=
  match readF32 fz a with
  | .nan _ sig => (nan32, if sig then flagNV else 0)
  | .inf s => if s then (nan32, flagNV) else (0x7F800000, 0)
  | .fin s m e =>
    if m = 0 then (0xFF800000, flagDZ)
    else if s then (nan32, flagNV)
    else
      let lead := Nat.log2 m
      let whole := leadExp m e
      if m = 2 ^ lead then ((Exact.mk whole 0).toF32 .rne false false |>.1, 0)
      else
        let digits := log2Digits 64 (m * 2 ^ (256 - lead)) 0
        -- between digits and digits + 1 units of 2^-64 above `whole`
        let v := whole * 2 ^ 65 + 2 * digits + 1
        if v < 0 then estimateBits true fz ((v.natAbs - 1) / 2) (-64) else estimateBits false fz ((v.natAbs - 1) / 2) (-64)

/-! ### The tree of VRED (R104) -/

/-- Pairs of neighbours combined; a present node passes an absent one by. -/
def treeLevel (op : W32 → W32 → W32 × FlagSet) : List (Option W32) → List (Option W32) × FlagSet
  | some x :: some y :: t =>
    let r := op x y
    let u := treeLevel op t
    (some r.1 :: u.1, r.2 ||| u.2)
  | some x :: none :: t => let u := treeLevel op t; (some x :: u.1, u.2)
  | none :: y :: t => let u := treeLevel op t; (y :: u.1, u.2)
  | [x] => ([x], 0)
  | [] => ([], 0)

/-- The fixed tree over 32 lanes, widths 1, 2, 4, 8 and 16. -/
def treeSum (op : W32 → W32 → W32 × FlagSet) : Nat → List (Option W32) → Option W32 × FlagSet
  | 0, l => (l.headD none, 0)
  | k + 1, l =>
    let a := treeLevel op l
    let b := treeSum op k a.1
    (b.1, a.2 ||| b.2)

end Sys2Proof.Machine
end

