-- ==== Sys2Proof/Machine/Memory.lean ====
section
/-! DEFINITION. The memory and atomic forms (spec/04 R120-R144), and the performing of a logged one when it retires. -/

namespace Sys2Proof.Machine

open Sys2Proof

/-! ### Results -/

/-- The registers above the first of a wide result (R125). -/
def State.putMore (s : State) (w : Who) (d : Operand) (act : W32) (k : Nat) (val : Nat → Nat → W32) : State :=
  match d with
  | .v n => (range 1 (k - 1)).foldl (fun s j => s.updGroup w.gid (fun g => g.setLanes (n.toNat + j) act (val j))) s
  | _ => s

/-- The bytes that a lane read. -/
def bytesAt (old : List (Nat × List Byte)) (l : Nat) : List Byte :=
  ((old.find? (fun e => e.1 == l)).map (·.2)).getD []

/-- The result of a load or returning atomic to its consumers (R125, R127, R141). -/
def State.putLoaded (s : State) (w : Who) (sh : Shape) (i : Instr) (old : List (Nat × List Byte)) : State :=
  let vector (wd : Width) : State :=
    let reg (j l : Nat) : W32 := (loadRegs wd (bytesAt old l)).getD j 0
    let s1 := s.putLanes w sh (reg 0)
    if sh.cm.reg then s1.putMore w sh.d sh.act wd.regs reg else s1
  match i with
  | .ld wd _ => vector wd
  | .lds wd _ => vector wd
  | .ldu wd _ => s.putScalar w sh (loadScalar wd (old.headD (0, [])).2)
  | .satom _ _ => s.putScalar w sh (loadScalar .b64 (old.headD (0, [])).2)
  | _ => vector .b32

/-- A destination register of several that an open region does not protect (R393). -/
def Who.wideUnprotected (w : Who) (i : Instr) (x : MArgs) : Bool :=
  match i, x.d with
  | .ld wd _, .v n => x.cm.reg && (range n.toNat wd.regs).any w.g.unprotected
  | .lds wd _, .v n => x.cm.reg && (range n.toNat wd.regs).any w.g.unprotected
  | _, _ => false

/-- The checks of operands and of lanes together: the lowest code (R124, R439). -/
def lowerStop (pre : Except Stop Unit) (chk : Except (Nat × W64) Unit) : Except Stop Unit :=
  match chk, pre with
  | .ok (), p => p
  | .error _, .error (.abort c u t) => .error (.abort c u t)
  | .error (c, a), .error (.cause d t) => if d ≤ c then .error (.cause d t) else .error (.cause c (some a))
  | .error (c, a), _ => .error (.cause c (some a))

/-! ### Entries of the logs (R134, R137) -/

/-- Issue of an atomic disarms its group (R460). -/
def State.noteAtomic (s : State) (w : Who) (a : AccForm) : State :=
  match a.action with
  | .atomic _ => s.disarm w
  | _ => s

/-- Issue of an access that gives no result: what R460 lists disarms all the same. -/
def State.noteIssue (s : State) (w : Who) (a : AccForm) (sh : Shape) : State :=
  if disarming sh.cm sh.pops then s.disarm w else s.noteAtomic w a

def State.newOp (s : State) (w : Who) (i : Instr) (lanes : List LaneAccess) (act : W32) (left : Nat) (st : OpStage)
    (whole : Bool) : MemOp :=
  { id := s.nextId, gid := w.gid, fid := w.fid, core := w.g.core, pc := w.f.pc, instr := i, left := left, younger := 0,
    lanes := lanes, act := act, stage := st, whole := whole, waits := false, joined := false, hm := w.g.hm, seq := s.nextId,
    first := false, pins := [], owe := none, refused := none, dormant := w.f.dormant }

def State.addOp (s : State) (o : MemOp) : State := { s with ops := s.ops ++ [o], nextId := s.nextId + 1 }

/-- A form whose fragment holds a load/store unit and restarts it whole once the page has come (R134). -/
def State.hold (s : State) (w : Who) (i : Instr) (gva : Nat) (f : WalkFail) : Except Stop State :=
  match f with
  | .malformed1 _ => .error (.cause 0x17 (some (BitVec.ofNat 64 gva)))
  | _ =>
    let o := s.newOp w i [⟨0, BitVec.ofNat 64 gva, [], 0⟩] 0 0 .held true
    .error (.wait (.access s.nextId) ((s.reportFault w gva f false).addOp o))

/-- CR.CPQ and CR.NET after one entry each (R257, R259). -/
def EngineRegs.after (r : EngineRegs) (cm : Consumers) : EngineRegs :=
  { r with cpq := if cm.cpq then r.cpq + 128 else r.cpq, net := if cm.net then r.net + 128 else r.net }

/-- An access holds its unit with its operands until the page has come, and then completes (R134, R137). It has issued: the
destinations of its engine consumers are fixed, and what R460 lists disarms (R257, R259, R260). -/
def State.keepAccess (s : State) (w : Who) (sh : Shape) (i : Instr) (lanes : List LaneAccess) : Except Stop State :=
  let now := w.g.eng.regs
  let o := { s.newOp w i lanes sh.act 0 .held false with
    waits := true, owe := if anyEngine sh.cm then some (now, now.after sh.cm) else none }
  let s := match accForm i with | some a => s.noteIssue w a sh | none => s
  let s1 := if anyEngine sh.cm then s.updGroup w.gid (fun g => { g with eng := g.eng.withRegs (now.after sh.cm) }) else s
  .error (.wait (.access s.nextId) (s1.addOp o))

/-- As `keepAccess`, for a missing translation, which is reported. -/
def State.holdAccess (s : State) (w : Who) (sh : Shape) (i : Instr) (lanes : List LaneAccess) (gva : Nat) (f : WalkFail) :
    Except Stop State :=
  match f with
  | .malformed1 _ => .error (.cause 0x17 (some (BitVec.ofNat 64 gva)))
  | _ => (s.reportFault w gva f false).keepAccess w sh i lanes

/-- The store enters the side log and the fragment goes on (R134). -/
def State.sideLog (s : State) (w : Who) (sh : Shape) (i : Instr) (a : AccForm) (lanes : List LaneAccess)
    (why : Option (Nat × WalkFail)) : State :=
  let s1 := match why with
    | some (gva, f) => s.reportFault w gva f false
    | none => s
  let s2 := (((s1.putLanes w sh (fun _ => 0)).noteAtomic w a).advance w).addOp
    (s1.newOp w i lanes sh.act 0 .sideLogged false)
  match why with
  | some (_, .malformed1 _) => s2.push .lateFault
  | _ => s2

/-! ### Inside an open region (R139, R394, R395) -/

/-- The load tables after a .spec load; none where a ninth entry would be needed. -/
def enterLoads (loads : List (Nat × Nat × W64)) : List (Nat × List Loc) → Option (List (Nat × Nat × W64))
  | [] => some loads
  | (l, locs) :: t =>
    match enterGranules loads l (granules locs) with
    | none => none
    | some r => enterLoads r t

/-- What an access of a region comes to, at its issue or once its page has come (R134, R139). -/
inductive Tried where
  | done (s : State)
  | blocked (gva : Nat) (f : WalkFail)
  | abort (code : Nat)

/-- A load of a region: memory, with the group's own buffered bytes over it. -/
def State.tryLoad (s : State) (w : Who) (sh : Shape) (i : Instr) (a : AccForm) (t : TryRegion)
    (lanes : List LaneAccess) : Tried :=
  match s.resolveLanes w.gid w.g a lanes with
  | .error (gva, f) => .blocked gva f
  | .ok l =>
    let entered := if a.scalar then (activeList (bits32 (fun n => w.f.slices.getLsbD (n / 4)))).map (fun n => (n, l.flatMap (·.2)))
      else l.map (fun x => (x.1.lane, x.2))
    match (if a.attrs.spec then enterLoads t.loads entered else some t.loads) with
    | none => .abort 0x05
    | some loads =>
      match s.performPast (Group.buffers { w.g with tryR := some t }) w.gid w.g i a (fun _ b => b) lanes with
      | .blocked gva f => .blocked gva f
      | .poisoned x h => .done ((s.push (.idemRestart w.gid (.poison x h w.fid))).noteIssue w a sh)
      | .done s1 old =>
        let seen := (l.zip old).map (fun p =>
          (p.2.1, (p.1.2.zip p.2.2).map (fun q => bufferedByte t.buffer q.1.key q.2)))
        let s2 := s1.updGroup w.gid (fun g => { g with tryR := some { t with loads := loads } })
        .done (s2.putLoaded w sh i seen)

/-- The translations of the first and last byte of each global lane of a buffered store (R432). -/
def State.pinsOf (s : State) (g : Group) (a : AccForm) (lanes : List LaneAccess) : List TlbEntry :=
  (lanes.filter (fun x => apertureOf x.addr == .global)).flatMap (fun x =>
    [x.addr.toNat, x.addr.toNat + a.bytes - 1].filterMap (fun b => (s.translate g.ctx g.core b a.need).toOption))

/-- A store of a region: into the buffer, lane by lane in ascending order (DEDUCED, log 124), one to the group's own register
window too (DESIGN CHOICE, log 151); a 65th line aborts. -/
def State.tryStore (s : State) (w : Who) (sh : Shape) (i : Instr) (a : AccForm) (lanes : List LaneAccess) : Tried :=
  match s.resolveLanes w.gid w.g a lanes with
  | .error (gva, f) => .blocked gva f
  | .ok l =>
    let pins := s.pinsOf w.g a lanes
    let o := { s.newOp w i lanes sh.act 0 .issued false with pins := pins }
    let g0 := { w.g with tryR := w.g.tryR.map (fun t =>
      { t with stores := t.stores ++ [o], pins := (t.pins ++ pins).eraseDups }) }
    let g1 := l.foldl (fun g x => Group.bufferLane s.clock g a.bytes x) g0
    match g1.tryR with
    | none => .done s
    | some t =>
      if 64 < (bufferLines t.buffer).length then .abort 0x04
      else .done ({ s with nextId := s.nextId + 1 }.setGroup w.gid g1 |>.putLanes w sh (fun _ => 0))

/-- An access of a region with its operands. -/
def State.tryAccess (s : State) (w : Who) (sh : Shape) (i : Instr) (a : AccForm) (t : TryRegion) (lanes : List LaneAccess) :
    Tried :=
  if a.writes then s.tryStore w sh i a lanes else s.tryLoad w sh i a t lanes

/-- An access of a region as it issues; a missing translation holds it with its operands (R134, R139). -/
def State.tryIssue (s : State) (w : Who) (sh : Shape) (i : Instr) (a : AccForm) (t : TryRegion) (lanes : List LaneAccess) :
    Except Stop State :=
  match s.tryAccess w sh i a t lanes with
  | .done s1 => .ok (s1.advance w)
  | .blocked gva f => s.holdAccess w sh i lanes gva f
  | .abort c => .error (.abort c 0 none)

/-! ### Issue -/

def fadd32 (a b : W32) : W32 := (addF32 .rne false a b).1

/-- An access of LA 0, performed as it issues. -/
def State.accessNow (s : State) (w : Who) (sh : Shape) (i : Instr) (a : AccForm) (lanes : List LaneAccess) :
    Except Stop State :=
  if a.action == .store && s.overlapsSide w.gid w.g.who lanes a.bytes then
    if s.sideLogged w.g.core < 64 then .ok (s.sideLog w sh i a lanes none) else s.keepAccess w sh i lanes
  else
    match s.perform w.gid w.g i a fadd32 lanes with
    | .blocked gva f =>
      if a.posted && s.sideLogged w.g.core < 64 && s.canReport w.g.ctx gva f then
        .ok (s.sideLog w sh i a lanes (some (gva, f)))
      else s.holdAccess w sh i lanes gva f
    | .poisoned x h => .ok (((s.push (.idemRestart w.gid (.poison x h w.fid))).noteIssue w a sh).advance w)
    | .done s1 old =>
      .ok (((if a.posted then s1.putLanes w sh (fun _ => 0) else s1.putLoaded w sh i old).noteAtomic w a).advance w)

/-- An access of LA above 0 takes an entry of the operand log; younger instructions may issue (R33, R137). -/
def State.accessLater (s : State) (w : Who) (sh : Shape) (i : Instr) (a : AccForm) (la : Nat)
    (lanes : List LaneAccess) : State :=
  ((s.noteAtomic w a).advance w).addOp (s.newOp w i lanes sh.act la .issued false)

/-- After a join, the stores of the joined paths are performed before the next access (R191). -/
def State.afterPaths (s : State) (w : Who) : State :=
  if w.f.afterJoin then
    (s.cleanCore w.g.core w.gid).updFrag w.gid w.fid (fun f => { f with afterJoin := false })
  else s

/-- The access is performed as it issues: LA is 0, or it pops a queue, reaches a register window, or feeds a consumer other
than its register. -/
def Who.atIssue (x : MArgs) (sh : Shape) (lanes : List LaneAccess) : Bool :=
  x.la == 0 || !sh.pops.isEmpty || lanes.any (fun y => apertureOf y.addr == .core) ||
    x.cm.queue || x.cm.mxq || x.cm.cpq || x.cm.red || x.cm.net

/-- An access form (R120-R144). A register window is reached in program order: at once, and behind pending registers
(R69, R164). An atomic with no active lane takes no unit (R209; DEDUCED, log 129). -/
def State.access (s : State) (w : Who) (i : Instr) (x : MArgs) (a : AccForm) : Except Stop State :=
  let act := if a.scalar then 0 else w.active x.msk
  let sh : Shape := ⟨x.cm, x.d, 0, queuesIn [x.b], act⟩
  let lanes := s.lanesOf w i x a.scalar
  let atomic := match a.action with | .atomic _ => true | _ => false
  if atomic && w.g.tryR.isSome then .error (.abort 0x09 0 none)
  else
    let pre := if w.wideUnprotected i x then .error (.cause 0x0C none) else s.pre w sh
    match lowerStop pre (s.checkLanes w.gid w.g a.kind lanes) with
    | .error e => .error e
    | .ok () =>
      if !(atomic && lanes.isEmpty) && (4 ≤ s.heldUnits w.g.core || 48 ≤ s.logged w.g.core) then .error .busy
      else if orderedBehind s.ops w.gid w.g.who a lanes then .error (.wait (if a.isRelease then .fence else .hold) s)
      else if s.windowWaits w a lanes || (w.f.afterJoin && s.pathsPending w.gid) then .error (.wait .hold s)
      else
        let s0 := s.afterPaths w
        match w.g.tryR with
        | some t => s0.tryIssue w sh i a t lanes
        | none =>
          if Who.atIssue x sh lanes || (atomic && lanes.isEmpty) then s0.accessNow w sh i a lanes
          else .ok (s0.accessLater w sh i a x.la.toNat lanes)

/-- The frame of every access form. -/
def accessForm (i : Instr) (x : MArgs) (s : State) : Host.Outcome State Fault Refusal :=
  run s (fun w =>
    match accForm i with
    | some a => s.access w i x a
    | none => .ok (s.advance w))

/-- LD (R125). -/
def execLd (w : Width) (x : MArgs) (s : State) : Host.Outcome State Fault Refusal := accessForm (.ld w x) x s

/-- ST (R126). -/
def execSt (w : Width) (x : MArgs) (s : State) : Host.Outcome State Fault Refusal := accessForm (.st w x) x s

/-- LDU (R127). -/
def execLdu (w : Width) (x : MArgs) (s : State) : Host.Outcome State Fault Refusal := accessForm (.ldu w x) x s

/-- LDS (R128). -/
def execLds (w : Width) (x : MArgs) (s : State) : Host.Outcome State Fault Refusal := accessForm (.lds w x) x s

/-- STS (R128). -/
def execSts (w : Width) (x : MArgs) (s : State) : Host.Outcome State Fault Refusal := accessForm (.sts w x) x s

/-- ATOM (R141). -/
def execAtom (fn : AtomFn) (x : MArgs) (s : State) : Host.Outcome State Fault Refusal := accessForm (.atom fn x) x s

/-- XCHG (R141). -/
def execXchg (x : MArgs) (s : State) : Host.Outcome State Fault Refusal := accessForm (.xchg x) x s

/-- CAS (R141). -/
def execCas (x : MArgs) (s : State) : Host.Outcome State Fault Refusal := accessForm (.cas x) x s

/-- RED (R141). -/
def execRed (fn : AtomFn) (x : MArgs) (s : State) : Host.Outcome State Fault Refusal := accessForm (.red fn x) x s

/-- SATOM (R142). -/
def execSatom (fn : SatomFn) (x : MArgs) (s : State) : Host.Outcome State Fault Refusal := accessForm (.satom fn x) x s

/-! ### PREF and LEA -/

/-- The page record, by place in the list, that holds a system address. -/
def State.pageAt (s : State) (spa : Nat) : Option Nat :=
  s.mem.pages.findIdx? (fun p => p.frame ≤ spa && spa < p.frame + p.size)

/-- The page record, by place in the list, that holds a guest physical address of a context. -/
def State.pageOfGpa (s : State) (ctx gpa : Nat) : Option Nat :=
  s.mem.pages.findIdx? (fun p => p.ctx == ctx && p.gpa ≤ gpa && gpa < p.gpa + p.size)

/-- One lane's prefetch; a lane that fails a check or has no translation is dropped (R129). -/
def State.prefetch (s : State) (w : Who) (fn : PrefFn) (a : W64) : State :=
  if apertureOf a ≠ .global then s
  else if (regionCause (s.launchOf w.g.task) a.toNat 1 false).isSome then s
  else
    match s.spa w.g.ctx w.g.core a.toNat .load with
    | .error f =>
      -- a page in flight: the request queues behind its move (R386)
      (match f, fn, (s.gpaOf w.g.ctx w.g.core a.toNat).bind (s.pageOfGpa w.g.ctx) with
       | .inFlight, .near, some k => s.push (.farAccessPromotion k)
       | _, _, _ => s)
    | .ok p =>
      let s := s.cacheTlb w.g.ctx w.g.core a.toNat .load
      match fn with
      | .l1 => s.ensure w.g.core w.g.ctx (p / 128) false
      | .l2 => s.l2Use w.g.ctx false (p / 128)
      | .near =>
        match s.pageAt p with
        | some k => s.push (.farAccessPromotion k)
        | none => s

/-- PREF (R129). -/
def execPref (fn : PrefFn) (x : MArgs) (s : State) : Host.Outcome State Fault Refusal :=
  run s (fun w =>
    if 4 ≤ s.heldUnits w.g.core || 48 ≤ s.logged w.g.core then .error .busy
    else .ok (((activeList (w.active x.msk)).foldl
      (fun t l => t.prefetch w fn (s.srcBase w x.a l + x.off.signExtend 64)) s).advance w))

/-- LEA (R130): base, signed index and offset. -/
def execLea (x : MArgs) (s : State) : Host.Outcome State Fault Refusal :=
  run s (fun w =>
    let sh : Shape := ⟨x.cm, x.d, 0, queuesIn [x.b], w.active x.msk⟩
    let val (l : Nat) : W64 := s.srcBase w x.a l + (s.srcV w 0 x.b l).signExtend 64 + x.off.signExtend 64
    let high := match x.d with
      | .v n => x.cm.reg && w.g.unprotected (n.toNat + 1)
      | _ => false
    if high then .error (.cause 0x0C none)
    else
      match s.pre w sh with
      | .error e => .error e
      | .ok () =>
        let s1 := s.putLanes w sh (fun l => (val l).setWidth 32)
        let s2 := if x.cm.reg then s1.putMore w x.d sh.act 2 (fun _ l => (val l >>> (32 : Nat)).setWidth 32) else s1
        .ok (s2.advance w))

/-! ### The end of a wait on the memory units -/

def State.dropOp (s : State) (id : Nat) : State := { s with ops := s.ops.filter (fun o => o.id != id) }

/-- The logged instructions older than one. -/
def olderThan (id : Nat) : List MemOp → List MemOp
  | [] => []
  | o :: t => if o.id = id then [] else o :: olderThan id t

/-- Who issued a logged instruction: the fragment, or the one that now stands for it (R436). -/
def State.opWho (s : State) (o : MemOp) : Option Who :=
  match s.groups.get o.gid with
  | none => none
  | some g =>
    match g.frag? o.fid with
    | some f => some ⟨o.gid, o.fid, g, f⟩
    | none =>
      match Group.lowFrag g.frags with
      | some f => some ⟨o.gid, f.id, g, f⟩
      | none => none

/-- What a logged instruction still does with its operands: one at which its fragment waits takes its pops when it completes. -/
def MemOp.shape (o : MemOp) (x : MArgs) : Shape := ⟨x.cm, x.d, 0, if o.waits then queuesIn [x.b] else [], o.act⟩

/-- Writes of an instruction older than the open region are no writes of the region: what it keeps of the registers stands
(R393). -/
def State.keepSaved (s s1 : State) (o : MemOp) : State :=
  match (s.groups.get o.gid).bind (·.tryR) with
  | none => s1
  | some t =>
    if o.id < t.since then
      s1.updGroup o.gid (fun g => { g with tryR := g.tryR.map (fun u => { u with saved := t.saved }) })
    else s1

/-- The result of a logged instruction to its register and, of one that was held, to its consumers under the registers that it
captured (R257, R259, R260). -/
def State.finishOp (s : State) (o : MemOp) (w : Who) (a : AccForm) (old : List (Nat × List Byte)) : State :=
  match opMArgs o.instr with
  | none => s
  | some x =>
    let put (s : State) (w : Who) : State :=
      if !a.posted then s.putLoaded w (o.shape x) o.instr old
      else if o.waits then s.putLanes w (o.shape x) (fun _ => 0) else s
    match o.owe, s.groups.get o.gid with
    | some (r, _), some g =>
      (put (s.updGroup o.gid (fun g => { g with eng := g.eng.withRegs r })) { w with g := { w.g with eng := w.g.eng.withRegs r } }).updGroup
        o.gid (fun x => { x with eng := x.eng.withRegs g.eng.regs })
    | _, _ => s.keepSaved (put s w) o

/-- The fragment that waited at the instruction goes on (R134). -/
def State.goOn (s : State) (o : MemOp) (w : Who) : State :=
  if o.waits && w.f.status == .waiting (.access o.id) then s.advance w else s

/-- The entry's stage changed. -/
def State.setStage (s : State) (id : Nat) (st : OpStage) : State :=
  { s with ops := s.ops.map (fun o => if o.id == id then { o with stage := st } else o) }

end Sys2Proof.Machine
end

