-- ==== Sys2Proof/Machine/Region.lean ====
section
/-! DEFINITION. Register blocks, queues under QCTL, and the forms that open and close a TRY region (spec/08 R203-R205, R477;
spec/22 R391-R401). -/

namespace Sys2Proof.Machine

open Sys2Proof

/-! ### Blocks (R203, R204, R477) -/

/-- Blocks that a group holds in its home octet (R477). -/
def State.blocksHeld (s : State) (g : Group) : Nat :=
  let region := match g.tryR with | some t => t.blocks | none => 0
  let window :=
    match g.partner with
    | none => 0
    | some p =>
      if g.access then
        (match s.groups.get p with | some q => if q.core = g.core ∧ q.octet = g.octet then 8 else 0 | none => 0)
      else 8
  g.blocks + region + window

def State.freeIn (s : State) (core octet : Nat) : Nat :=
  match s.cores.get core with
  | some c => c.free.getD octet 0
  | none => 0

/-- Requests on the octet that began to wait before this fragment's (R203). -/
def State.olderWaiters (s : State) (w : Who) : Bool :=
  match s.cores.get w.g.core with
  | none => false
  | some c =>
    let l := c.waiters.filter (fun x => x.1 == w.g.octet)
    match l with
    | [] => false
    | x :: _ => x != (w.g.octet, w.gid, w.fid)

/-- The fragment joins the requests that wait, once. -/
def State.joinWaiters (s : State) (w : Who) : State :=
  s.updCore w.g.core (fun c =>
    let x := (w.g.octet, w.gid, w.fid)
    if c.waiters.contains x then c else { c with waiters := c.waiters ++ [x] })

/-- n blocks leave the octet's pool; the L1 gives them up (R159), and the next request is looked at. -/
def State.takeBlocks (s : State) (w : Who) (n : Nat) : State :=
  let s1 := s.updCore w.g.core (fun c =>
    { c with free := setAt 0 c.free w.g.octet (c.free.getD w.g.octet 0 - n),
             waiters := c.waiters.filter (fun x => x != (w.g.octet, w.gid, w.fid)) })
  (s1.shrinkL1 w.g.core (8 * n)).push (.growGrant w.g.core w.g.octet)

/-- The window grows by n zeroed blocks (R161, R203). -/
def Group.addBlocks (g : Group) (n : Nat) : Group :=
  { g with blocks := g.blocks + n, v := g.v ++ List.replicate (8 * n) (List.replicate 32 0) }

/-- The octet can give n blocks and the group can take them (R203, R477). -/
def State.growFits (s : State) (g : Group) (n : Nat) : Bool := g.blocks + n ≤ 32 && s.blocksHeld g + n ≤ 48

/-- n blocks are granted to the fragment's group (R161, R203). -/
def State.grantBlocks (s : State) (w : Who) (n : Nat) : State := (s.takeBlocks w n).updGroup w.gid (fun g => g.addBlocks n)

/-- The result of GROW .nb. -/
def State.growResult (s : State) (w : Who) (x : Args) (r : W64) : State :=
  s.putScalar w ⟨x.cm, x.d, x.imm, [], 0⟩ r

/-- GROW (R203, R206). -/
def execGrow (fn : NbFn) (x : Args) (s : State) : Host.Outcome State Fault Refusal :=
  run s (fun w =>
    let n := (s.srcS w 0 x.a).toNat
    let sh : Shape := ⟨x.cm, x.d, x.imm, [], 0⟩
    if w.g.tryR.isSome then .error (.cause 0x0C none)
    else
      match s.pre w sh with
      | .error e => .error e
      | .ok () =>
        let done (s : State) (r : W64) : Except Stop State :=
          match fn with
          | .blocking => .ok (s.advance w)
          | .nb => .ok ((s.growResult w x r).advance w)
        if n = 0 then done s 0
        else if !s.growFits w.g n then
          match fn with
          | .blocking => .error (.cause 0x0F none)
          | .nb => done s 2
        else if n ≤ s.freeIn w.g.core w.g.octet && !s.olderWaiters w then
          done (s.grantBlocks w n) 0
        else
          match fn with
          | .blocking => .error (.wait (.grow n) (s.joinWaiters w))
          | .nb => done s 1)

/-- Stores still pending to registers that a group has returned are discarded (R164); a lane that stores to a kept and a returned
register is discarded whole (DESIGN CHOICE, log 165). -/
def State.dropReturned (s : State) (gid blocks : Nat) : State :=
  { s with ops := s.ops.map (fun o =>
      match accForm o.instr, s.groups.get o.gid with
      | some a, some g =>
        { o with lanes := o.lanes.filter (fun x =>
            !(a.writes && apertureOf x.addr == .core && x.addr.toNat % 2 ^ 16 < 0x8000 &&
              decide (1024 * blocks < x.addr.toNat % 2 ^ 16 + a.bytes) &&
              ((s.whoGroup (s.seat o.gid g x.lane) (x.addr.toNat / 2 ^ 16 % 128)).map (·.1)) == some gid)) }
      | _, _ => o) }

/-- SHRINK (R204, R206). -/
def execShrink (x : Args) (s : State) : Host.Outcome State Fault Refusal :=
  run s (fun w =>
    let n := (s.srcS w 0 x.a).toNat
    if w.g.tryR.isSome then .error (.cause 0x0C none)
    else if n = 0 then .ok (s.advance w)
    else if w.g.blocks < n + 1 then .error (.cause 0x0F none)
    else if s.pendingRegs w.gid then .error (.wait .hold s)
    else
      .ok ((((s.updGroup w.gid (fun g =>
        { g with blocks := g.blocks - n, v := g.v.take (8 * (g.blocks - n)) })).dropReturned w.gid (w.g.blocks - n)).freeBlocks
          w.g.core w.g.octet n).advance w))

/-! ### QCTL (R205) -/

/-- QCTL .cnt (R205). -/
def execQctlCnt (x : Args) (s : State) : Host.Outcome State Fault Refusal :=
  run s (fun w =>
    let q := immField x.imm 0 3
    let sh : Shape := ⟨x.cm, x.d, x.imm, [], 0⟩
    if w.g.partner.isNone then .error (.cause 0x21 none)
    else
      match s.pre w sh with
      | .error e => .error e
      | .ok () =>
        let l := s.lists w q
        let some_ := bits32 (fun k => !(l.getD k []).isEmpty)
        let full := bits32 (fun k => decide (8 ≤ (l.getD k []).length))
        .ok ((s.putScalar w sh (full ++ some_ : BitVec 64)).advance w))

/-- QCTL .rst (R205). -/
def execQctlRst (x : Args) (s : State) : Host.Outcome State Fault Refusal :=
  run s (fun w =>
    if w.g.partner.isNone then .error (.cause 0x21 none)
    else .ok (((s.setLists w (immField x.imm 0 3) (fun _ _ => [])).queueMoved w).advance w))

/-! ### TRY, COMMIT and ABORT (R391-R401) -/

/-- The protected registers that a TRY names. -/
def tryRegs (x : Args) : List Nat :=
  match x.a with
  | .v n => range n.toNat (immField x.imm 0 7)
  | _ => []

/-- The abort label (R391). -/
def tryLabel (pc : Pc) (x : Args) : W64 :=
  pc.line + ((x.imm.extractLsb' 10 22).signExtend 64 <<< (6 : Nat)) + BitVec.ofNat 64 (12 * immField x.imm 7 3)

def union (a b : List Nat) : List Nat := a ++ b.filter (fun n => !a.contains n)

/-- The blocks of a checkpoint area. -/
def checkBlocks (n : Nat) : Nat := (n + 7) / 8

/-- The region that the outermost TRY opens (R392). -/
def TryRegion.opened (w : Who) (x : Args) (label : Pc) (n since : Nat) : TryRegion :=
  { depth := 1, hm := w.g.hm, since := since, aliased := [], codeReg := Operand.sNum x.d, label := label, sregs := w.g.s, fmt := w.f.fmt, stack := w.f.stack,
    protected_ := tryRegs x, saved := [], buffer := [], stores := [], loads := [], pins := [], aborted := 0, blocks := n }

/-- TRY once its label and window have been checked (R392). -/
def State.openTry (s : State) (w : Who) (x : Args) (label : Pc) : Except Stop State :=
  if !w.holdsAll then .error (.cause 0x2A none)
  else
    let code := Operand.sNum x.d
    let grant (need : Nat) (f : Group → Group) : Except Stop State :=
      if 48 < s.blocksHeld w.g + need then .error (.cause 0x0F none)
      else if need ≤ s.freeIn w.g.core w.g.octet && (decide (need = 0) || !s.olderWaiters w) then
        .ok (((if need = 0 then s else s.takeBlocks w need).updGroup w.gid (fun g => (f g).setS code 0)).advance w)
      else .error (.wait (.area need) (s.joinWaiters w))
    match w.g.tryR with
    | none =>
      let need := 4 + checkBlocks (tryRegs x).length
      grant need (fun g => { g with tryR := some (TryRegion.opened w x label need s.nextId) })
    | some t =>
      if 2 ≤ t.depth then .error (.abort 0x08 0 none)
      else
        let p := union t.protected_ (tryRegs x)
        if 64 < p.length then .error (.abort 0x08 0 none)
        else
          let need := checkBlocks p.length - checkBlocks t.protected_.length
          grant need (fun g => { g with tryR := some { t with depth := 2, protected_ := p, blocks := t.blocks + need } })

/-- TRY (R391, R392). -/
def execTryOpen (x : Args) (s : State) : Host.Outcome State Fault Refusal :=
  run s (fun w =>
    let a := tryLabel w.f.pc x
    match s.landing w a with
    | .illegal => .error (.cause 0x03 (some a))
    | .blocked pc f => .error (s.fetchHold w pc.addr f)
    | .ok pc => if (tryRegs x).any (fun n => 8 * w.g.blocks ≤ n) then .error (.cause 0x06 none) else s.openTry w x pc
    | .unread pc => s.lineUnread w pc)

/-- One buffered store issued to memory (R400): performed, logged behind an earlier access, or side-logged behind an entry that it
overlaps or where its page has gone (R135, R432); a release comes behind every earlier access (R131), and a store for which the side
log has no room waits in the operand log (R134; DEDUCED, log 160). The translations that it pinned go with it (R432). -/
def State.publish (s : State) (w : Who) (o : MemOp) : State :=
  match s.groups.get w.gid, accForm o.instr with
  | some g, some a =>
    let o' : MemOp := { o with id := s.nextId, seq := s.nextId, gid := w.gid, stage := .issued, whole := false, left := 15 }
    let side := s.addOp (if s.sideLogged g.core < 64 then { o' with stage := .sideLogged } else o')
    if o.lanes.isEmpty then s
    else if orderedBehind s.ops w.gid g.who a o.lanes || s.windowWaits { w with g := g } a o.lanes then s.addOp o'
    else if a.action == .store && s.overlapsSide w.gid g.who o.lanes a.bytes then side
    else
      match s.performOp g o' a (fun _ b => b) with
      | .blocked _ _ => side
      | .poisoned _ _ => s
      | .done s1 _ => s1
  | _, _ => s

/-- The stores of a region go out in program order (R400). -/
def State.publishAll (s : State) (w : Who) (t : TryRegion) : State := t.stores.foldl (fun s o => s.publish w o) s

/-- COMMIT at depth 1: the region ends, then its stores are published (R400). -/
def State.commitRegion (s : State) (w : Who) (t : TryRegion) (sh : Shape) : State :=
  let s1 := (s.updGroup w.gid (fun g => { g with tryR := none })).freeBlocks w.g.core w.g.octet t.blocks
  ((s1.putScalar w sh (t.aborted.setWidth 64)).publishAll w t).advance w

/-- COMMIT (R400). -/
def execCommit (x : Args) (s : State) : Host.Outcome State Fault Refusal :=
  run s (fun w =>
    let sh : Shape := ⟨x.cm, x.d, x.imm, [], 0⟩
    match w.g.tryR with
    | none => .error (.cause 0x2A none)
    | some t =>
      if !w.holdsAll then .error (.cause 0x2A none)
      else if t.depth = 2 then
        .ok (((s.updGroup w.gid (fun g => { g with tryR := some { t with depth := 1 } })).putScalar w sh
          (t.aborted.setWidth 64)).advance w)
      else .ok (s.commitRegion w t sh))

/-- ABORT (R401). -/
def execAbort (x : Args) (s : State) : Host.Outcome State Fault Refusal :=
  run s (fun w =>
    match w.g.tryR with
    | none => .error (.cause 0x2A none)
    | some _ => .error (.abort 0x01 (immField x.imm 0 8) none))

end Sys2Proof.Machine
end

