-- ==== Sys2Proof/Machine/Sync.lean ====
section
/-! DEFINITION. Fences, barriers, cache maintenance and the wait on a word (spec/08 R196-R202, R206). -/

namespace Sys2Proof.Machine

open Sys2Proof

/-- FENCE (R196): every earlier access of the group is performed, then the cleaning and invalidation of its scope. -/
def execFence (fn : Scope) (_x : Args) (s : State) : Host.Outcome State Fault Refusal :=
  run s (fun w =>
    if s.settled w.gid then .ok (((s.release w.gid w.g fn).acquire w.g fn).advance w) else .error (.wait .fence s))

/-! ### Barriers (R197, R198) -/

def State.teamOf (s : State) (g : Group) : Option Team := s.teams.get g.team

def barrierAt (t : Team) (id : Nat) : Barrier := t.barriers.getD id ⟨0, 0, 0, []⟩

/-- The expected count that a word names: 0 means NCOMP. -/
def State.barCount (s : State) (g : Group) (imm : W32) : Nat :=
  let c := immField imm 8 6
  if c = 0 then (s.launchOf g.task).ncomp else c

/-- Barrier misuse at an arrival (R198). -/
def State.arriveBad (s : State) (w : Who) (b : Barrier) (count : Nat) : Bool :=
  !w.holdsAll || decide ((s.launchOf w.g.task).ncomp < count) || (decide (b.count ≠ 0) && decide (b.expected ≠ count)) ||
    b.arrived.contains w.gid

/-- A barrier after one more arrival: the phase completes, or the count stands. -/
def Barrier.arrive (b : Barrier) (gid count : Nat) : Barrier :=
  if b.count + 1 = count then { phase := b.phase + 1, count := 0, expected := 0, arrived := [] }
  else { b with count := b.count + 1, expected := count, arrived := b.arrived ++ [gid] }

def setPair (l : List (Nat × Nat)) (k v : Nat) : List (Nat × Nat) := (k, v) :: l.filter (fun e => e.1 != k)

/-- An arrival, with the release of team scope (R197). -/
def State.arriveAt (s : State) (w : Who) (id count : Nat) (b : Barrier) : State :=
  let s1 := (s.release w.gid w.g .team).updTeam w.g.team (fun t =>
    { t with barriers := setAt ⟨0, 0, 0, []⟩ t.barriers id (b.arrive w.gid count) })
  let s2 := (s1.updGroup w.gid (fun g => { g with arrivals := setPair g.arrivals id b.phase })).disarm w
  if b.count + 1 = count then s2.push (.barrierPhaseComplete w.g.team id) else s2

/-- Leaving a wait whose phase has completed: an acquire at team scope (R197). -/
def State.leaveBar (s : State) (w : Who) : State :=
  ((s.acquire w.g .team).updGroup w.gid (fun g => { g with
    barWait := g.barWait.filter (fun z => !(z.pc == w.f.pc && z.hm == w.g.hm)) })).advance w

/-- BAR: arrive once, then wait for the phase; a handler's BAR is another one (R197). -/
def execBar (x : Args) (s : State) : Host.Outcome State Fault Refusal :=
  run s (fun w =>
    let id := immField x.imm 0 4
    if w.g.tryR.isSome then .error (.abort 0x09 0 none)
    else
      match s.teamOf w.g with
      | none => .error (.cause 0x22 none)
      | some t =>
        let b := barrierAt t id
        match w.g.barWait.find? (fun z => decide (z.pc = w.f.pc ∧ z.bar = id ∧ z.hm = w.g.hm)) with
        | some z => if b.phase = z.phase then .error (.wait (.bar id z.phase) s) else .ok (s.leaveBar w)
        | none =>
          let count := s.barCount w.g x.imm
          if s.arriveBad w b count then .error (.cause 0x22 none)
          else if !s.settled w.gid then .error (.wait .fence s)
          else
            let s1 := s.arriveAt w id count b
            if b.count + 1 = count then .ok (s1.leaveBar w)
            else .error (.wait (.bar id b.phase)
              (s1.updGroup w.gid (fun g => { g with barWait := g.barWait ++ [⟨w.f.pc, id, b.phase, w.g.hm⟩] }))))

/-- BARA: arrive and go on (R197). -/
def execBara (x : Args) (s : State) : Host.Outcome State Fault Refusal :=
  run s (fun w =>
    let id := immField x.imm 0 4
    if w.g.tryR.isSome then .error (.abort 0x09 0 none)
    else
      match s.teamOf w.g with
      | none => .error (.cause 0x22 none)
      | some t =>
        let b := barrierAt t id
        let count := s.barCount w.g x.imm
        if s.arriveBad w b count then .error (.cause 0x22 none)
        else if !s.settled w.gid then .error (.wait .fence s)
        else .ok ((s.arriveAt w id count b).advance w))

/-- BARW: wait for the phase of the group's latest arrival (R197, R198). -/
def execBarw (x : Args) (s : State) : Host.Outcome State Fault Refusal :=
  run s (fun w =>
    let id := immField x.imm 0 4
    match s.teamOf w.g, w.g.arrivals.find? (fun e => e.1 == id) with
    | some t, some (_, phase) =>
      if !w.holdsAll then .error (.cause 0x22 none)
      else if (barrierAt t id).phase = phase then .error (.wait (.barw id phase) s)
      else .ok (s.leaveBar w)
    | _, _ => .error (.cause 0x22 none))

/-! ### CMAINT (R200, R201) -/

/-- A mapping of the address, whatever it permits. -/
def State.mappedAt (s : State) (ctx core a : Nat) : Except WalkFail TlbEntry :=
  match s.translate ctx core a .load with
  | .ok e => .ok e
  | .error _ =>
    match s.translate ctx core a .store with
    | .ok e => .ok e
    | .error _ => s.translate ctx core a .fetch

/-- The system ranges that a global range maps to, page by page; what has no translation is passed over (R201). -/
def State.mapRange (s : State) (ctx core stop : Nat) : Nat → Nat → List (Nat × Nat)
  | 0, _ => []
  | k + 1, a =>
    if stop ≤ a then []
    else
      match s.mappedAt ctx core a with
      | .error _ => State.mapRange s ctx core stop k (a / 65536 * 65536 + 65536)
      | .ok e =>
        let last := min stop (e.base + e.size)
        (e.apply a, last - a) :: State.mapRange s ctx core stop k (e.base + e.size)

/-- A line touched by one of the ranges, and a line that lies wholly in one. -/
def touches (l : List (Nat × Nat)) (line : Nat) : Bool := l.any (fun r => r.1 < 128 * line + 128 && 128 * line < r.1 + r.2)

def insideOne (l : List (Nat × Nat)) (line : Nat) : Bool := l.any (fun r => r.1 ≤ 128 * line && 128 * line + 128 ≤ r.1 + r.2)

/-- A copy goes without being written (CMAINT .inv of a line wholly inside the range). -/
def State.discard (s : State) (core line : Nat) : State :=
  (s.updCore core (fun c => c.drop line)).pushConflicts (s.conflictsAt core line)

def State.maintainLine (s : State) (op : MaintOp) (ranges : List (Nat × Nat)) (core line : Nat) : State :=
  match op with
  | .cln => s.writeBack core line
  | .ci => s.evictCopy core line
  | .inv => if insideOne ranges line then s.discard core line else s.evictCopy core line

def State.maintainCore (s : State) (op : MaintOp) (ranges : List (Nat × Nat)) (core : Nat) : State :=
  match s.cores.get core with
  | none => s
  | some c => ((c.l1.map (·.line)).filter (touches ranges)).foldl (fun s k => s.maintainLine op ranges core k) s

/-- The cores that a reach names. -/
def State.reach (s : State) (core : Nat) (lvl : MaintLevel) : List Nat :=
  match lvl with
  | .core => [core]
  | .die => s.coresOf (coreDie core)
  | .poc => s.cores.map (·.1)

/-- The checks of CMAINT (R201). -/
def State.maintCheck (s : State) (w : Who) (op : MaintOp) (a n : Nat) : Option (Nat × W64) :=
  if 2 ^ 56 < a + n then some (0x12, BitVec.ofNat 64 a)
  else regionFail (s.launchOf w.g.task) (BitVec.ofNat 64 a) n (decide (op ≠ .cln))

/-- CMAINT (R200, R201); in a region .inv and .ci abort also with B = 0 (R206; DEDUCED, log 128). -/
def execCmaint (op : MaintOp) (lvl : MaintLevel) (x : Args) (s : State) : Host.Outcome State Fault Refusal :=
  run s (fun w =>
    let a := (s.srcS w 0 x.a).toNat
    let n := (s.srcS w 0 x.b).toNat
    if w.g.tryR.isSome && decide (op ≠ .cln) then .error (.abort 0x09 0 none)
    else if n = 0 then .ok (s.advance w)
    else
      match s.maintCheck w op a n with
      | some (c, tv) => .error (.cause c (some tv))
      | none =>
        if !s.settled w.gid then .error (.wait .fence s)
        else
          let ranges := s.mapRange w.g.ctx w.g.core (a + n) (n / 65536 + 2) a
          .ok (((s.reach w.g.core lvl).foldl (fun s k => s.maintainCore op ranges k) s).advance w))

/-! ### MWAIT (R202) -/

/-- A byte as the point of coherence holds it, with the core's own dirty byte over it. -/
def State.latestByte (s : State) (core : Nat) (l : Loc) : Byte :=
  match l with
  | .spa a =>
    match (s.cores.get core).bind (fun c => c.copy? (a / 128)) with
    | some x => if x.dirty.getD (a % 128) false then x.bytes.getD (a % 128) 0 else s.mem.sys.read a
    | none => s.mem.sys.read a
  | _ => s.readLoc core l

/-- What a read of the waited word finds; in a region, with the group's own buffered bytes over it (R206, R394). -/
inductive WordRead where
  | value (v : W32)
  | blocked (gva : Nat) (f : WalkFail)
  | poisoned (atHome : Bool)
  deriving DecidableEq, Repr

def State.readWord (s : State) (w : Who) (a : W64) : WordRead :=
  match s.place (s.seat w.gid w.g w.f.lowLane) a 4 with
  | .error _ => .value 0
  | .ok l =>
    match s.resolve w.g.ctx w.g.core .load l none with
    | .error (gva, f) => .blocked gva f
    | .ok r =>
      if r.any (fun x => s.poisonFor w.g.core x && !w.g.buffers x) then .poisoned true
      else .value (BitVec.ofNat 32 (bytesNat (r.map (fun x => w.g.ownByte x (s.latestByte w.g.core x)))))

/-- The stop condition on the word. -/
def mwaitStops (fn : MwaitFn) (v b : W32) : Bool :=
  match fn with
  | .ne => v != b
  | .eq => v == b

/-- The checks of an LDU.b32 at the address, with those of R202; of two causes of one address the lower code (DESIGN CHOICE, log
164). -/
def State.mwaitCheck (s : State) (w : Who) (a : W64) : Except (Nat × W64) Unit :=
  let base := match s.checkLane (s.seat w.gid w.g w.f.lowLane) a ⟨4, false, false⟩ with
    | .error c => some c
    | .ok _ => none
  let more := if a.toNat % 4 ≠ 0 then some 0x10 else if apertureOf a = .priv then some 0x11 else none
  match base, more with
  | some c, some d => .error (min c d, a)
  | some c, none => .error (c, a)
  | none, some d => .error (d, a)
  | none, none => .ok ()

def scopeOf (n : Nat) : Scope := (ofCode Scope.codes n).getD .system

/-- The end of a wait by its condition: the last read is an acquire at the scope, as far as its level reaches (R131); a copy of
another die's line that may be older than what it read goes (R228). -/
def State.mwaitDone (s : State) (w : Who) (a : W64) (imm : W32) : State :=
  let sc := scopeOf (immField imm 16 3)
  let s1 := if apertureOf a = .global then
      ((s.spa w.g.ctx w.g.core a.toNat .load).toOption.map (fun p => s.dropStale w.g.core (p / 128))).getD s
    else s
  if sharedLevel a then (s1.acquire w.g sc).advance w else s.advance w

/-- MWAIT (R202). -/
def execMwait (fn : MwaitFn) (x : Args) (s : State) : Host.Outcome State Fault Refusal :=
  run s (fun w =>
    let a := s.srcS w 0 x.a
    let b : W32 := (s.srcS w 0 x.b).setWidth 32
    match s.mwaitCheck w a with
    | .error (c, tv) => .error (.cause c (some tv))
    | .ok () =>
      if 4 ≤ s.heldUnits w.g.core then .error .busy
      else if orderedBehind s.ops w.gid w.g.who ⟨4, .load, ⟨.group, .acquire, .normal, false, false⟩, true⟩ [⟨w.f.lowLane, a, [], 0⟩]
        then .error (.wait .hold s)
      else if w.f.afterJoin && s.pathsPending w.gid then .error (.wait .hold s)
      else
        let s0 := s.afterPaths w
        match s0.readWord w a with
        | .blocked gva f => s0.hold w (.mwait fn x) gva f
        | .poisoned h => .ok ((s0.push (.idemRestart w.gid (.poison a h w.fid))).advance w)
        | .value v =>
          if mwaitStops fn v b then .ok (s0.mwaitDone w a x.imm)
          else
            let t := immField x.imm 0 16
            .error (.wait (.mwait fn a b x.imm (if t = 0 then none else some (s.clock + BitVec.ofNat 64 (64 * t)))) s0))

end Sys2Proof.Machine
end

