-- ==== Sys2Proof/Machine/Engine.lean ====
section
/-! DEFINITION. The engine forms: copies and batches, gathers, scatters and collectives, and the moving of their data (spec/12
R248-R262; spec/11 R241-R245; spec/08 R199). -/

namespace Sys2Proof.Machine

open Sys2Proof

/-! ### Moving data (R240, R241, R245) -/

/-- Where a moved word comes from. -/
inductive WordSrc where
  | mem (l : List Loc)
  | bytes (b : List Byte) (poisoned : Bool)
  deriving DecidableEq, Repr

/-- The bytes that an engine moves at once: into one naturally aligned 4-byte word, or a span whose words do not match. -/
structure Moving where
  src : WordSrc
  dst : List Loc
  op : Nat := 0                     -- the operation whose word it is
  deriving DecidableEq, Repr

def WordSrc.locs : WordSrc → List Loc
  | .mem l => l
  | .bytes _ _ => []

/-- n bytes at a, cut at naturally aligned 4-byte words. -/
def wordParts : Nat → Nat → Nat → List (Nat × Nat)
  | 0, _, _ => []
  | _ + 1, _, 0 => []
  | k + 1, a, left => (a, min left (4 - a % 4)) :: wordParts k (a + min left (4 - a % 4)) (left - min left (4 - a % 4))

/-- The words of a move of memory to memory. Where the words of source and destination are not aligned alike the span moves as
one, so that no word that it reads is read in two parts (R240, R245). DESIGN CHOICE (log 161). -/
def memMoves (dst src : W64) (n : Nat) (d s : List Loc) : List Moving :=
  if dst.toNat % 4 = src.toNat % 4 then
    (wordParts n dst.toNat n).map (fun p =>
      { src := .mem ((s.drop (p.1 - dst.toNat)).take p.2), dst := (d.drop (p.1 - dst.toNat)).take p.2 })
  else [{ src := .mem s, dst := d }]

/-- The words of a move of values to memory, each value with its poison. -/
def valMoves (dst : W64) (n : Nat) (d : List Loc) (v : List (W32 × Bool)) : List Moving :=
  let b := v.flatMap (fun x => (natBytes 4 x.1.toNat).map (fun y => (y, x.2)))
  (wordParts n dst.toNat n).map (fun p =>
    let part := (b.drop (p.1 - dst.toNat)).take p.2
    { src := .bytes (part.map (·.1)) (part.any (·.2)), dst := (d.drop (p.1 - dst.toNat)).take p.2 })

/-- Two moves whose order shows. -/
def Moving.clash (x y : Moving) : Bool := overlap x.dst y.dst || overlap x.dst y.src.locs || overlap y.dst x.src.locs

def anyClash : List Moving → Bool
  | [] => false
  | x :: t => t.any x.clash || anyClash t

/-- The bytes that a move writes from poisoned bytes (R459). -/
def State.poisonedBy (s : State) (m : Moving) : List Loc :=
  match m.src with
  | .mem l => ((l.zip m.dst).filter (fun p => isPoisoned s.mem.poison p.1)).map (·.2)
  | .bytes _ p => if p then m.dst else []

/-- The line of a byte, by its level. -/
def Loc.lineKey (x : Loc) : Nat × Nat := (x.key.1, x.key.2 / 128)

/-- The lines of these bytes become poisoned, each once. -/
def State.poisonFrom (s : State) (ctx : Nat) (l : List Loc) : State :=
  (l.foldl (fun (a : List Loc) y => if a.any (fun x => x.lineKey == y.lineKey) then a else a ++ [y]) []).foldl
    (fun s y => s.poisonLine ctx y) s

/-- One word moved. -/
def State.moveOne (s : State) (core ctx gid : Nat) (m : Moving) : State :=
  s.writeHome core ctx gid false m.dst (match m.src with
    | .mem l => l.map s.homeByte
    | .bytes b _ => b)

/-- Words moved one after the other. A line that an operation has written from poisoned bytes is poisoned with each word that the
operation writes to it from then on: a later word that reads it carries the poison on, and later writes of every byte by others end
it (R459). `bad` are those lines, by operation. -/
def State.moveFrom (s : State) (core ctx gid : Nat) (bad : List (Nat × Nat × Nat)) : List Moving → State
  | [] => s
  | m :: t =>
    let bad1 := bad ++ (s.poisonedBy m).map (fun x => (m.op, x.lineKey))
    State.moveFrom ((s.moveOne core ctx gid m).poisonFrom ctx (m.dst.filter (fun x => bad1.contains (m.op, x.lineKey)))) core ctx gid
      bad1 t

def State.moveList (s : State) (core ctx gid : Nat) (l : List Moving) : State := s.moveFrom core ctx gid [] l

/-- The system lines that the moves write. -/
def movedLines (l : List Moving) : List W64 := (linesOf (l.flatMap (·.dst))).map (BitVec.ofNat 64)

/-- Words moved, in an open order where it shows (R245, R256); their pages count as accessed, and their sources come through the slices
(R376, R384, R385). -/
def State.moveWords (s : State) (core ctx gid : Nat) (l : List Moving) : State :=
  let s1 := (s.touch noCore (l.flatMap (fun m => m.dst ++ m.src.locs))).l2Lines ctx false (linesOf (l.flatMap (fun m => m.src.locs)))
  if anyClash l then State.moveList { s1 with free := s.free + l.length } core ctx gid (s.freeOrder l)
  else s1.moveList core ctx gid l

/-- The group notes the lines that its operation wrote (R244). -/
def State.noteWrote (s : State) (gid : Nat) (l : List Moving) : State :=
  s.updGroup gid (fun g =>
    { g with eng := { g.eng with wrote := g.eng.wrote ++ (movedLines l).filter (fun x => !g.eng.wrote.contains x) } })

/-- Moves of one group's engines. -/
def State.moveAll (s : State) (gid : Nat) (g : Group) (l : List Moving) : State :=
  (s.moveWords g.core g.ctx gid l).noteWrote gid l

/-- The places of n bytes of an engine range, translated. -/
def State.engineLocs (s : State) (gid : Nat) (g : Group) (a : W64) (n : Nat) (need : Need) :
    Except (Nat × WalkFail) (List Loc) :=
  match s.place (s.seat gid g 0) a n with
  | .error _ => .ok []
  | .ok l => s.resolve g.ctx g.core need l none

/-- The words of one span of memory. -/
def State.spanMoves (s : State) (gid : Nat) (g : Group) (x : Span) : Except (Nat × WalkFail) (List Moving) :=
  match s.engineLocs gid g x.src x.len .load with
  | .error e => .error e
  | .ok l =>
    match s.engineLocs gid g x.dst x.len .store with
    | .error e => .error e
    | .ok d => .ok (memMoves x.dst x.src x.len d l)

def State.spansMoves (s : State) (gid : Nat) (g : Group) : List Span → Except (Nat × WalkFail) (List Moving)
  | [] => .ok []
  | x :: t =>
    match s.spanMoves gid g x with
    | .error e => .error e
    | .ok a =>
      match State.spansMoves s gid g t with
      | .error e => .error e
      | .ok b => .ok (a ++ b)

/-- A 128-byte entry to its destination (R257, R259). -/
def State.entryMoves (s : State) (gid : Nat) (g : Group) (dst : W64) (row : Row) : Except (Nat × WalkFail) (List Moving) :=
  match s.engineLocs gid g dst 128 .store with
  | .error e => .error e
  | .ok d => .ok (valMoves dst 128 d (row.map (fun x => (x, false))))

def State.copyMoves (s : State) (gid : Nat) (g : Group) (c : CopyOp) : Except (Nat × WalkFail) (List Moving) :=
  let moves : Except (Nat × WalkFail) (List Moving) :=
    match c.work with
    | .spans l => s.spansMoves gid g l
    | .entry dst row => s.entryMoves gid g dst row
  moves.map (fun l => l.map (fun m => { m with op := c.id }))

def GatherOp.spans (o : GatherOp) : List Span :=
  o.lanes.map (fun x => if o.scatter then ⟨x.2.1, x.2.2, o.width⟩ else ⟨x.2.2, x.2.1, o.width⟩)

/-! ### Holding on a mapping (R250) -/

/-- The issuer of engine operations, for records. -/
def State.engineWho (s : State) (gid : Nat) : Option Who :=
  match s.groups.get gid with
  | none => none
  | some g => (Group.lowFrag g.frags).map (fun f => ⟨gid, f.id, g, f⟩)

/-- The operation still holds: its page's record is unresolved, or its page is in flight. -/
def State.stillHeld (s : State) (g : Group) (held : Option W64) : Bool :=
  match held with
  | none => false
  | some a =>
    s.mgmt.traps.any (fun r => samePage r g.ctx a.toNat) ||
      (match s.translate g.ctx g.core a.toNat .load with
       | .error .inFlight => true
       | _ => false)

/-- The pages of an engine range are known to the tiers (R383). -/
def State.noteEngine (s : State) (g : Group) (a : W64) (n : Nat) : State :=
  if apertureOf a = .global then s.noteRange g.ctx g.core (n / 65536 + 2) a.toNat (a.toNat + n) else s

def State.noteSpans (s : State) (g : Group) (l : List Span) : State :=
  l.foldl (fun s x => (s.noteEngine g x.src x.len).noteEngine g x.dst x.len) s

def State.noteCopy (s : State) (g : Group) (c : CopyOp) : State :=
  match c.work with
  | .spans l => s.noteSpans g l
  | .entry dst _ => s.noteEngine g dst 128

/-- The report of an operation's missing mapping. -/
def State.reportEngine (s : State) (gid gva : Nat) (f : WalkFail) : State :=
  match s.engineWho gid with
  | some w => s.reportFault w gva f false
  | none => s

/-- The code of a mapping refused at once: a malformed stage-1 entry (R445). -/
def malformedAt (gva : Nat) (f : WalkFail) : Option (Nat × W64) :=
  match f with
  | .malformed1 _ => some (0x17, BitVec.ofNat 64 gva)
  | _ => none

/-! ### The group's waits on its engines -/

/-- Fragments of a core for which the test holds go on. -/
def State.wakeWhere (s : State) (core : Nat) (p : Nat → Frag → Bool) : State :=
  let hit := (s.groups.filter (fun e => e.2.core == core && !e.2.dead)).flatMap (fun e =>
    (e.2.frags.filter (p e.1)).map (fun f => (e.1, f.id)))
  hit.foldl (fun s x => s.wake x.1 x.2) s

/-- Every fragment for which the test holds goes on. -/
def State.wakeAll (s : State) (p : Group → Frag → Bool) : State :=
  (s.groups.flatMap (fun e => (e.2.frags.filter (p e.2)).map (fun f => (e.1, f.id)))).foldl (fun s x => s.wake x.1 x.2) s

/-- Batch b lies at or before n (R243). -/
def atOrBefore (n b : BitVec 16) : Bool := decide ((n - b).toNat < 2 ^ 15)

def batchDone (l : List CopyOp) : Bool := l.all (fun c => c.done)

/-- The closed batches at or before n that hold a copy not done and not refused. -/
def Engines.pendingBatches (e : Engines) (n : BitVec 16) : List (BitVec 16 × List CopyOp) :=
  e.closed.filter (fun b => atOrBefore n b.1 && b.2.any (fun c => !c.done && c.refused.isNone))

/-- The first refused copy of a closed batch at or before n. -/
def Engines.refusedCopy (e : Engines) (n : BitVec 16) : Option (Nat × Nat × W64) :=
  ((e.closed.filter (fun b => atOrBefore n b.1)).flatMap (·.2)).findSome? (fun c =>
    c.refused.map (fun r => (c.id, r.1, r.2)))

/-- What WAITB of a batch, or a BATCH at the window's limit, waits for (R243, R250). -/
def Engines.batchMet (e : Engines) : Option (BitVec 16) → Bool
  | none => e.closed.length < 32767
  | some n => (e.refusedCopy n).isSome || (e.pendingBatches n).isEmpty

/-- A start of a class has room: 255 operations, and 32 forms of the matrix queue (R253, R320). -/
def Engines.room (e : Engines) (cls : WaitcFn) : Bool :=
  e.count cls < 255 && (cls != .mx || e.matrix.queue.length < 32)

/-- An engine operation of a group is done: what waits for what it has brought goes on (R217), and what results owe is offered
again (R35). -/
def State.engineMoved (s : State) (gid : Nat) : State :=
  match s.groups.get gid with
  | none => s
  | some g =>
    let s0 := s.offerOwed gid
    let s1 := s0.wakeWhere g.core (fun k f =>
      match s0.groups.get k, f.status with
      | some x, .waiting (.engine cls) => x.eng.room cls
      | some x, .waiting (.batch n) => x.eng.batchMet n
      | some x, .waiting .trig => s0.trigMet k x
      | _, _ => false)
    let s2 := (g.frags.filter (fun f => match f.status with | .waiting (.waitc _ _) => true | _ => false)).foldl
      (fun s f => s.push (.waitcSatisfied gid f.id)) s1
    if g.frags.any (fun f => f.status == .waiting .exit) then s2.push (.groupLeavesCore gid) else s2

/-- The lines that completed operations wrote leave the L1 (R244). -/
def State.dropWrote (s : State) (gid : Nat) (g : Group) : State :=
  (g.eng.wrote.foldl (fun s x => s.evictCopy g.core x.toNat) s).updGroup gid (fun g =>
    { g with eng := { g.eng with wrote := [] } })

/-! ### Copies (R254) -/

/-- The frame of a form that starts an engine operation (R252). -/
def engineForm (s : State) (body : Who → Except Stop State) : Host.Outcome State Fault Refusal :=
  run s (fun w => if w.g.tryR.isSome then .error (.abort 0x09 0 none) else body w)

def sharesByte (a : Nat) (m : Nat) (b : Nat) (n : Nat) : Bool := decide (a < b + n ∧ b < a + m ∧ 0 < m ∧ 0 < n)

def toCause (e : Option (Nat × W64)) : Option (Nat × Option W64) := e.map (fun x => (x.1, some x.2))

/-- The checks of a copy's two ranges: destination and source, then their overlap; the lowest code (R249, R254). -/
def State.copyFail (s : State) (w : Who) (dst : W64) (m : Nat) (src : W64) (n : Nat) : Option (Nat × Option W64) :=
  lowerCause (lowerCause (toCause (s.engineCheck w.gid w.g dst m true)) (toCause (s.engineCheck w.gid w.g src n false)))
    (if sharesByte dst.toNat m src.toNat n then some (0x14, none) else none)

def CopyOp.isCopy (c : CopyOp) : Bool := match c.work with | .spans _ => true | .entry _ _ => false

/-- The copies of a core that its cluster's copy engine holds (R253). -/
def State.copiesOf (s : State) (core : Nat) : Nat :=
  ((s.groups.filter (fun e => e.2.core == core && s.onCore e.2)).map (fun e =>
    (e.2.eng.copies.filter (fun c => c.isCopy && !c.done && c.refused.isNone)).length)).foldl (· + ·) 0

def State.startCopy (s : State) (w : Who) (fail : Option (Nat × Option W64)) (l : List Span) : Except Stop State :=
  match fail with
  | some (c, tv) => .error (.cause c tv)
  | none =>
    if !s.settled w.gid then .error (.wait .fence s)
    else if 64 ≤ s.copiesOf w.g.core then .error .busy
    else
      let s1 := (s.cleanTeam w.g.core w.gid).updGroup w.gid (fun g =>
        { g with eng := { g.eng with openBatch := g.eng.openBatch ++ [⟨s.nextId, .spans l, none, none, false⟩] } })
      .ok (State.advance { s1 with nextId := s.nextId + 1 } w)

/-- CPY (R254). -/
def execCpy (x : Args) (s : State) : Host.Outcome State Fault Refusal :=
  engineForm s (fun w =>
    let dst := s.srcS w x.imm x.a
    let src := s.srcS w x.imm x.b
    let n := (s.srcS w x.imm x.c).toNat
    if n = 0 then .ok (s.advance w) else s.startCopy w (s.copyFail w dst n src n) [⟨dst, src, n⟩])

/-- Row i of a two-dimensional block. -/
def rowSpan (dst src : W64) (ds ss : W64) (n i : Nat) : Span :=
  ⟨dst + BitVec.ofNat 64 i * ds, src + BitVec.ofNat 64 i * ss, n⟩

/-- The envelope of rows of n bytes: lowest byte and length. -/
def envelope (a : List W64) (n : Nat) : W64 × Nat :=
  match a with
  | [] => (0, 0)
  | x :: t =>
    let lo := t.foldl (fun m y => if y.toNat < m.toNat then y else m) x
    let hi := t.foldl (fun m y => if m.toNat < y.toNat then y else m) x
    (lo, hi.toNat + n - lo.toNat)

/-- CPY2D (R254). -/
def execCpy2d (x : Args) (s : State) : Host.Outcome State Fault Refusal :=
  engineForm s (fun w =>
    let strides := s.srcS w x.imm x.c
    let ss : W64 := (strides.extractLsb' 0 32).signExtend 64
    let ds : W64 := (strides.extractLsb' 32 32).signExtend 64
    let rows := immField x.imm 16 16
    let n := immField x.imm 0 16
    if rows = 0 ∨ n = 0 then .ok (s.advance w)
    else
      let l := (List.range rows).map (rowSpan (s.srcS w x.imm x.a) (s.srcS w x.imm x.b) ds ss n)
      let d := envelope (l.map (·.dst)) n
      let e := envelope (l.map (·.src)) n
      s.startCopy w (s.copyFail w d.1 d.2 e.1 e.2) l)

/-! ### Batches (R243, R255) -/

/-- BATCH (R243, R255). -/
def execBatch (x : Args) (s : State) : Host.Outcome State Fault Refusal :=
  run s (fun w =>
    let sh : Shape := ⟨x.cm, x.d, x.imm, [], 0⟩
    match s.pre w sh with
    | .error e => .error e
    | .ok () =>
      if !w.g.eng.batchMet none then .error (.wait (.batch none) s)
      else
        let n := w.g.eng.batchNo + 1
        let live := w.g.eng.openBatch.filter (fun c => !c.done)
        let s1 := s.updGroup w.gid (fun g =>
          { g with eng := { g.eng with
              batchNo := n, openBatch := [],
              closed := if live.isEmpty then g.eng.closed else g.eng.closed ++ [(n, live)] } })
        .ok ((s1.putScalar w sh (n.setWidth 64)).advance w))

/-- A copy leaves the group's batches; a closed batch without a copy left is complete. -/
def Engines.dropCopy (e : Engines) (id : Nat) : Engines :=
  { e with
    openBatch := e.openBatch.filter (fun c => c.id != id),
    closed := (e.closed.map (fun b => (b.1, b.2.filter (fun c => c.id != id)))).filter (fun b => !b.2.isEmpty) }

/-- The cause of a refused operation at the instruction that waits for it (R250). -/
def State.raiseOwed (s : State) (w : Who) (code : Nat) (tv : Option W64) : State :=
  s.raisePrecise w code tv w.f.pc.addr

/-- WAITB (R243, R244, R250, R255). -/
def execWaitb (x : Args) (s : State) : Host.Outcome State Fault Refusal :=
  run s (fun w =>
    let n : BitVec 16 := (s.srcS w x.imm x.a).setWidth 16
    match w.g.eng.refusedCopy n with
    | some (id, c, a) =>
      .ok ((s.updGroup w.gid (fun g => { g with eng := g.eng.dropCopy id })).raiseOwed w c (some a))
    | none =>
      if (w.g.eng.pendingBatches n).isEmpty then .ok ((s.dropWrote w.gid w.g).advance w) else .error (.wait (.batch (some n)) s))

/-- WAITB .test (R244, R255). -/
def execWaitbTest (x : Args) (s : State) : Host.Outcome State Fault Refusal :=
  run s (fun w =>
    let n : BitVec 16 := (s.srcS w x.imm x.a).setWidth 16
    let sh : Shape := ⟨x.cm, x.d, x.imm, [], 0⟩
    match s.pre w sh with
    | .error e => .error e
    | .ok () =>
      let full := (w.g.eng.pendingBatches n).isEmpty && (w.g.eng.refusedCopy n).isNone
      let s1 := if full then s.dropWrote w.gid w.g else s
      .ok ((s1.putScalar w sh (if full then 1 else 0)).advance w))

/-! ### Gather and scatter (R256) -/

/-- The first failing lane's check, its element before its slot (R249). -/
def State.gatherFail (s : State) (w : Who) (scatter : Bool) (n : Nat) : List (Nat × W64 × W64) → Option (Nat × W64)
  | [] => none
  | x :: t =>
    match s.engineCheck w.gid w.g x.2.1 n scatter with
    | some e => some e
    | none =>
      match s.engineCheck w.gid w.g x.2.2 n (!scatter) with
      | some e => some e
      | none => State.gatherFail s w scatter n t

/-- The gathers and scatters of a core that its gather engine holds (R253). -/
def State.gathersOf (s : State) (core : Nat) : Nat :=
  ((s.groups.filter (fun e => e.2.core == core && s.onCore e.2)).map (fun e => e.2.eng.gathers.length)).foldl (· + ·) 0

def gatherForm (scatter : Bool) (fn : GthFn) (x : Args) (s : State) : Host.Outcome State Fault Refusal :=
  engineForm s (fun w =>
    let n := match fn with | .b32 => 4 | .b64 => 8
    let buf := s.srcS w x.imm x.b
    let lanes := (activeList (w.active x.msk)).map (fun l => (l, s.srcBase w x.a l, buf + BitVec.ofNat 64 (n * l)))
    match s.gatherFail w scatter n lanes with
    | some (c, a) => .error (.cause c (some a))
    | none =>
      if !s.settled w.gid then .error (.wait .fence s)
      else if 16 ≤ s.gathersOf w.g.core then .error .busy
      else if !w.g.eng.room .gth then .error (.wait (.engine .gth) s)
      else
        let s1 := (s.cleanTeam w.g.core w.gid).updGroup w.gid (fun g =>
          { g with eng := { g.eng.begin_ .gth with
              gathers := g.eng.gathers ++ [⟨s.nextId, scatter, n, lanes, none⟩] } })
        .ok (State.advance { s1 with nextId := s.nextId + 1 } w))

/-- GTH (R256). -/
def execGth (fn : GthFn) (x : Args) (s : State) : Host.Outcome State Fault Refusal := gatherForm false fn x s

/-- SCT (R256). -/
def execSct (fn : GthFn) (x : Args) (s : State) : Host.Outcome State Fault Refusal := gatherForm true fn x s

/-! ### Collectives (R261, R262) -/

/-- The words of a range at its point of coherence, each with its poison. -/
def State.readWords (s : State) : List Loc → List (W32 × Bool)
  | a :: b :: c :: d :: t =>
    (BitVec.ofNat 32 (bytesNat ([a, b, c, d].map s.homeByte)), [a, b, c, d].any (isPoisoned s.mem.poison)) ::
      State.readWords s t
  | _ => []

/-- A 64-bit field of a record at its point of coherence. -/
def State.homeNat (s : State) (l : List Loc) (off n : Nat) : Nat := bytesNat (((l.drop off).take n).map s.homeByte)

/-- The bytes that a participant's destination takes. -/
def collBytes (fn : CollFn) (count npart : Nat) : Nat := match fn with | .gath => 4 * count * npart | _ => 4 * count

/-- The key of a record: where its first byte lies. -/
def recordKey (l : List Loc) : Nat × Nat := match l with | x :: _ => x.key | [] => (0, 0)

/-- The oldest open generation of a record that this rank has not joined. -/
def joinable (t : Table CollGen) (key : Nat × Nat) (rank : Nat) : Option Nat :=
  (t.find? (fun e => e.2.record == key && !e.2.arrivals.any (fun a => a.rank == rank))).map (·.1)

/-- A rank may join a generation of the record, or open one: at most two are open (R262). -/
def State.collRoom (s : State) (key : Nat × Nat) (rank : Nat) : Bool :=
  (joinable s.colls key rank).isSome || decide ((s.colls.filter (fun e => e.2.record == key)).length < 2)

def CollGen.full (c : CollGen) : Bool := c.npart ≤ c.arrivals.length

/-- What the reading of a COLL's record and source comes to. -/
inductive CollRead where
  | blocked (gva : Nat) (f : WalkFail)
  | bad (code : Nat) (tval : Option W64)
  | third (key : Nat × Nat)             -- it would open a third generation of the record
  | arrived (s : State)

/-- The arrival joins or opens a generation. -/
def State.arriveColl (s : State) (id : Nat) (c : CollGen) (a : Arrival) : State :=
  let c' := { c with arrivals := c.arrivals ++ [a] }
  let s1 := { s with colls := s.colls.set id c' }
  if c'.full then s1.push (.collGenerationComplete id) else s1

/-- A COLL reads its record, whose ranks are checked, then its source, and arrives (R249, R262). -/
def State.readColl (s : State) (gid : Nat) (g : Group) (o : CollStart) : CollRead :=
  match s.engineLocs gid g o.rec_ 64 .store with
  | .error (a, f) => .blocked a f
  | .ok r =>
    let npart := s.homeNat r 0 4
    let root := s.homeNat r 4 4
    if npart = 0 ∨ 4096 < npart ∨ npart ≤ root ∨ npart ≤ o.rank then .bad 0x25 none
    else
      match s.engineCheck gid g o.dst (collBytes o.fn o.count npart) true with
      | some (c, a) => .bad c (some a)
      | none =>
        match s.engineLocs gid g o.src (4 * o.count) .load with
        | .error (a, f) => .blocked a f
        | .ok l =>
          let mine : Arrival := ⟨o.rank, gid, o.id, o.dst, s.readWords l⟩
          let s := (s.touch noCore (r ++ l)).l2Lines g.ctx false (linesOf (r ++ l))      -- the reads pass their slices (R376, R385)
          match (joinable s.colls (recordKey r) o.rank).bind (fun k => (s.colls.get k).map (fun c => (k, c))) with
          | some (k, c) => .arrived (s.arriveColl k { c with mixed := c.mixed || c.fn != o.fn || c.count != o.count } mine)
          | none =>
            if !s.collRoom (recordKey r) o.rank then .third (recordKey r)
            else
              .arrived (State.arriveColl { s with nextId := s.nextId + 1 } s.nextId
                ⟨recordKey r, npart, root, o.fn, o.count, [], false⟩ mine)

/-- The pages of a COLL's ranges are known to the tiers (R383). -/
def State.noteColl (s : State) (g : Group) (o : CollStart) : State :=
  ((s.noteEngine g o.rec_ 64).noteEngine g o.src (4 * o.count)).noteEngine g o.dst (4 * o.count)

/-- The operation counts in class .coll from its start. -/
def State.beginColl (s : State) (gid op : Nat) : State := s.updGroup gid (fun g => { g with eng := g.eng.beginColl op })

/-- COLL after its first checks. Where its record or source is not mapped it holds in the collective unit and the group goes on; what
its record gives then is owed to the instruction that waits for it (R250, R262; DEDUCED, log 132). -/
def State.startColl (s : State) (w : Who) (o : CollStart) : Except Stop State :=
  if !s.settled w.gid then .error (.wait .fence s)
  else
    let s1 := (State.cleanTeam { s with nextId := s.nextId + 1 } w.g.core w.gid).noteColl w.g o
    let go (s : State) : State := ((s.beginColl w.gid o.id).spoil w).advance w
    match s1.readColl w.gid w.g o with
    | .bad c tv => .error (.cause c tv)
    | .third key => .error (.wait (.third key.1 key.2 o.rank) s)
    | .arrived s2 => if !w.g.eng.room .coll then .error (.wait (.engine .coll) s) else .ok (go s2)
    | .blocked gva f =>
      match f with
      | .malformed1 _ => .error (.cause 0x17 (some (BitVec.ofNat 64 gva)))
      | _ =>
        if !w.g.eng.room .coll then .error (.wait (.engine .coll) s)
        else
          .ok (((go s1).updGroup w.gid (fun g =>
            { g with eng := { g.eng with
                collStarts := g.eng.collStarts ++ [{ o with held := some (BitVec.ofNat 64 gva) }] } })).reportFault w gva f false)

/-- COLL (R262). -/
def execColl (fn : CollFn) (x : Args) (s : State) : Host.Outcome State Fault Refusal :=
  engineForm s (fun w =>
    let rec_ := s.srcS w x.imm x.a
    let src := s.srcS w x.imm x.b
    let dst := s.srcS w x.imm x.c
    let count := immField x.imm 0 16
    let rank := immField x.imm 16 12
    let fails := [toCause (s.engineCheck w.gid w.g rec_ 64 true), toCause (s.engineCheck w.gid w.g src (4 * count) false),
      toCause (s.engineCheck w.gid w.g dst (4 * count) true), if rec_.toNat % 64 ≠ 0 then some (0x10, some rec_) else none]
    match fails.foldl lowerCause none with
    | some (c, tv) => .error (.cause c tv)
    | none => s.startColl w ⟨s.nextId, w.fid, fn, rec_, src, dst, count, rank, none⟩)

/-- One element of a collective over the arrivals in rank order; sums in an open order (R262). -/
def collElement (fn : CollFn) (l : List (W32 × Bool)) : W32 × Bool :=
  let bad := l.any (·.2)
  let v := l.map (·.1)
  match v with
  | [] => (0, false)
  | x :: t =>
    match fn with
    | .sum => (t.foldl (· + ·) x, bad)
    | .fsum => ((canonNan (t.foldl fadd32 x)).1, bad)
    | .fmax => ((canonNan (t.foldl (fun a b => (minMaxF32 true .num false a b).1) x)).1, bad)
    | .fmin => ((canonNan (t.foldl (fun a b => (minMaxF32 false .num false a b).1) x)).1, bad)
    | .bcast => (x, bad)
    | .gath => (x, bad)

/-- The arrivals by rank. -/
def CollGen.byRank (c : CollGen) : List (List (W32 × Bool)) :=
  (List.range c.npart).map (fun r => ((c.arrivals.find? (fun a => a.rank == r)).map (·.words)).getD [])

/-- What every participant's destination receives. -/
def State.collResult (s : State) (c : CollGen) : List (W32 × Bool) :=
  match c.fn with
  | .bcast => c.byRank.getD c.root []
  | .gath => c.byRank.flatten
  | .fsum =>
    let rows := s.freeOrder c.byRank
    (List.range c.count).map (fun k => collElement .fsum (rows.map (fun r => r.getD k (0, false))))
  | fn => (List.range c.count).map (fun k => collElement fn (c.byRank.map (fun r => r.getD k (0, false))))

/-! ### WAITC (R199, R250) -/

/-- The first cause owed to a WAITC of this class and threshold. -/
def Engines.owedTo (e : Engines) (cls : WaitcFn) (thr : Nat) : Option (WaitcFn × Nat × Nat × Option W64) :=
  e.owed.find? (fun o => o.1 == cls && decide (o.2.1 + thr < e.started cls))

/-- WAITC's end: the owed cause, or the effects of R244; none while it waits. -/
def State.waitcEnd (s : State) (w : Who) (cls : WaitcFn) (thr : Nat) : Option State :=
  match w.g.eng.owedTo cls thr with
  | some o =>
    some ((s.updGroup w.gid (fun g => { g with eng := { g.eng with owed := g.eng.owed.erase o } })).raiseOwed w o.2.2.1
      o.2.2.2)
  | none => if w.g.eng.count cls ≤ thr then some ((s.dropWrote w.gid w.g).advance w) else none

/-- WAITC (R199). -/
def execWaitc (fn : WaitcFn) (x : Args) (s : State) : Host.Outcome State Fault Refusal :=
  run s (fun w =>
    let thr := immField x.imm 0 8
    match s.waitcEnd w fn thr with
    | some s1 => .ok s1
    | none => .error (.wait (.waitc fn thr) s))

end Sys2Proof.Machine
end

