-- ==== Sys2Proof/Machine/Tasks.lean ====
section
/-! DEFINITION. Launch records and the task forms (spec/02 R61-R63; spec/12 R267-R270). -/

namespace Sys2Proof.Machine

open Sys2Proof

/-! ### Launch records (R61-R63, R267) -/

/-- n bytes at an offset as a number. -/
def fieldAtOff (b : List Byte) (off n : Nat) : Nat := bytesNat ((b.drop off).take n)

def zeroBytes (b : List Byte) (off n : Nat) : Bool := ((b.drop off).take n).all (fun x => x == 0)

/-- A region record that keeps R63. -/
def regionOk (b : List Byte) (off : Nat) : Bool :=
  let base := fieldAtOff b off 8
  let ext := fieldAtOff b (off + 8) 8
  base < 2 ^ 56 && base % 64 == 0 && ext < 2 ^ 41 && ext % 64 == 0

/-- The non-empty ones among eight region records. -/
def regionList (b : List Byte) (off : Nat) : List (W64 × W64) :=
  ((List.range 8).map (fun k => (fieldAtOff b (off + 16 * k) 8, fieldAtOff b (off + 16 * k + 8) 8))).filterMap
    (fun r => if r.2 = 0 then none else some (BitVec.ofNat 64 r.1, BitVec.ofNat 64 r.2))

/-- The non-empty dependences. -/
def depList (b : List Byte) : List (W64 × W64) :=
  ((List.range 8).map (fun k => (fieldAtOff b (64 + 16 * k) 8, fieldAtOff b (72 + 16 * k) 8))).filterMap
    (fun r => if r.1 = 0 then none else some (BitVec.ofNat 64 r.1, BitVec.ofNat 64 r.2))

def launchFields (b : List Byte) : Launch :=
  { entry := BitVec.ofNat 64 (fieldAtOff b 0 8), gridX := fieldAtOff b 8 4, gridY := fieldAtOff b 12 2,
    gridZ := fieldAtOff b 14 2, ncomp := fieldAtOff b 16 1, nacc := fieldAtOff b 17 1, spread := fieldAtOff b 18 1,
    vregc := fieldAtOff b 20 1, vrega := fieldAtOff b 21 1, csram := fieldAtOff b 24 4, banks := fieldAtOff b 28 2,
    prio := fieldAtOff b 19 1 % 4, idem := fieldAtOff b 19 1 / 4 % 2 == 1, hint := fieldAtOff b 40 8,
    done := BitVec.ofNat 64 (fieldAtOff b 32 8), deps := depList b, reads := regionList b 192,
    writes := regionList b 320 }

/-- The checks of R267 on the fields themselves; an ENTRY whose line lies outside the global window fails too (DEDUCED,
log 150). -/
def launchOk (b : List Byte) : Bool :=
  let l := launchFields b
  (match Pc.ofAddr l.entry with | some p => lineOk p.line | none => false) &&
    1 ≤ l.gridX && l.gridX < 2 ^ 31 && 1 ≤ l.gridY && 1 ≤ l.gridZ &&
    1 ≤ l.ncomp && l.ncomp ≤ 32 && (l.nacc == 0 || l.nacc == l.ncomp) && 1 ≤ l.spread && l.spread ≤ 8 &&
    1 ≤ l.vregc && ((l.vrega == 0) == (l.nacc == 0)) &&
    l.csram ≤ 3 * 2 ^ 20 && l.csram % 64 == 0 && l.banks ≤ 256 &&
    fieldAtOff b 19 1 < 8 && zeroBytes b 22 2 && zeroBytes b 30 2 && zeroBytes b 48 16 && zeroBytes b 448 64 &&
    (List.range 16).all (fun k => regionOk b (192 + 16 * k)) && l.deps.all (fun d => d.1.toNat % 8 == 0)

/-- A launch record of 512 bytes, if it passes its checks. -/
def parseLaunch (b : List Byte) : Option Launch := if launchOk b then some (launchFields b) else none

/-- Every record of `l` lies inside the union of `m`. -/
def inside (l m : List (W64 × W64)) : Bool := l.all (fun r => (firstUncovered m r.1.toNat r.2.toNat).isNone)

/-- The child's regions lie inside its parent's (R267). -/
def childOk (parent child : Launch) : Bool :=
  inside child.reads (parent.reads ++ parent.writes) && inside child.writes parent.writes

/-! ### Reading a counter or a record -/

/-- What a read of memory by address finds. -/
inductive MemRead where
  | value (b : List Byte)
  | blocked (gva : Nat) (f : WalkFail)
  | poisoned
  deriving DecidableEq, Repr

/-- n bytes at an address as the core's latest read sees them; in a region, with the group's own buffered bytes over them (R270,
R394). -/
def State.readAt (s : State) (w : Who) (a : W64) (n : Nat) : MemRead :=
  match s.place (s.seat w.gid w.g w.f.lowLane) a n with
  | .error _ => .value (List.replicate n 0)
  | .ok l =>
    match s.resolve w.g.ctx w.g.core .load l none with
    | .error (gva, f) => .blocked gva f
    | .ok r =>
      if r.any (fun x => s.poisonFor w.g.core x && !w.g.buffers x) then .poisoned
      else .value (r.map (fun x => w.g.ownByte x (s.latestByte w.g.core x)))

/-! ### Tasks -/

def Launch.teams (l : Launch) : Nat := l.gridX * l.gridY * l.gridZ

/-- A task as it is created: eligible at once where nothing is to be met (R280). -/
def Task.fresh (ctx cmd : Nat) (parent : Option Nat) (l : Launch) : Task :=
  { ctx := ctx, cmd := cmd, parent := parent, launch := l, deps := l.deps.map (fun _ => false),
    seedOnly := false, entryBad := false, nextTeam := 0, groupsLive := 0, groupsTriggered := 0,
    groupsLeft := l.teams * (l.ncomp + l.nacc), triggered := false, completed := false, placedOn := [], images := [],
    held := [], forwarded := false }

/-! ### ENQ (R267, R282) -/

/-- The address checks of ENQ: aperture, alignment, region. -/
def State.enqFail (s : State) (w : Who) (a : W64) : Option (Nat × W64) :=
  if 2 ^ 56 < a.toNat + 512 then some (0x12, a)
  else if a.toNat % 64 ≠ 0 then some (0x10, a)
  else regionFail (s.launchOf w.g.task) a 512 false

/-- An older ENQ of the team waits. -/
def Team.olderEnq (t : Team) (gid fid : Nat) : Bool :=
  match t.waitingEnqs with
  | [] => false
  | x :: _ => x != (gid, fid)

/-- The entry is queued. -/
def State.queueLaunch (s : State) (w : Who) (l : Launch) : State :=
  let cmd := ((s.tasks.get w.g.task).map (·.cmd)).getD 0
  let s1 := { s with tasks := s.tasks.set s.nextId (Task.fresh w.g.ctx cmd (some w.g.team) l), nextId := s.nextId + 1 }
  s1.updTeam w.g.team (fun t =>
    { t with pendingQ := t.pendingQ ++ [s.nextId], waitingEnqs := t.waitingEnqs.filter (fun x => x != (w.gid, w.fid)) })

/-- ENQ with a record that is valid. -/
def State.enqueue (s : State) (w : Who) (fn : NbFn) (x : Args) (l : Launch) : Except Stop State :=
  match s.teams.get w.g.team with
  | none => .ok (s.advance w)
  | some t =>
    let sh : Shape := ⟨x.cm, x.d, x.imm, [], 0⟩
    match fn with
    | .nb =>
      if 4 ≤ t.pendingQ.length then .ok (((s.putScalar w sh 1).spoil w).advance w)
      else .ok ((((s.queueLaunch w l).putScalar w sh 0).spoil w).advance w)
    | .blocking =>
      if 4 ≤ t.pendingQ.length || t.olderEnq w.gid w.fid then
        .error (.wait (.enq l) ((s.disarm w).updTeam w.g.team (fun t =>
          if t.waitingEnqs.contains (w.gid, w.fid) then t else { t with waitingEnqs := t.waitingEnqs ++ [(w.gid, w.fid)] })))
      else .ok (((s.queueLaunch w l).spoil w).advance w)

/-- Blocked ENQs place their entries, oldest first, as far as the queue has room: each the record that it read and validated
before it waited (R267). -/
def State.admitEnqs (s : State) (team : Nat) : Nat → State
  | 0 => s
  | k + 1 =>
    match s.teams.get team with
    | none => s
    | some t =>
      match t.waitingEnqs with
      | [] => s
      | (gid, fid) :: rest =>
        if 4 ≤ t.pendingQ.length then s
        else
          match s.who? gid fid with
          | some w =>
            (match w.f.status with
             | .waiting (.enq l) => State.admitEnqs (((s.queueLaunch w l).spoil w).advance w) team k
             | _ => State.admitEnqs (s.updTeam team (fun t => { t with waitingEnqs := rest })) team k)
          | none => State.admitEnqs (s.updTeam team (fun t => { t with waitingEnqs := rest })) team k

/-- ENQ (R252, R267). -/
def execEnq (fn : NbFn) (x : Args) (s : State) : Host.Outcome State Fault Refusal :=
  engineForm s (fun w =>
    let a := s.srcS w x.imm x.a
    let sh : Shape := ⟨x.cm, x.d, x.imm, [], 0⟩
    match s.pre w sh with
    | .error e => .error e
    | .ok () =>
      match s.enqFail w a with
      | some (c, tv) => .error (.cause c (some tv))
      | none =>
        if !s.settled w.gid then .error (.wait .fence s)
        else
          let s1 := (s.release w.gid w.g .device).acquire w.g .device
          match s1.engineLocs w.gid w.g a 512 .load with
          | .error (gva, f) => s1.hold w (.enq fn x) gva f
          | .ok l =>
            let s1 := (s1.noteEngine w.g a 512).l2Lines w.g.ctx false (linesOf l)
            if l.any (isPoisoned s1.mem.poison) then .ok ((s1.push (.idemRestart w.gid (.poison a true w.fid))).advance w)
            else
              match parseLaunch (l.map s1.homeByte) with
              | none => .error (.cause 0x24 none)
              | some r => if childOk (s.launchOf w.g.task) r then s1.enqueue w fn x r else .error (.cause 0x24 none))

/-! ### TRIG (R268, R269) -/

/-- A group has triggered or is gone; a bobbin counts with its partner (R268). -/
def State.groupTriggered (s : State) (g : Group) : Bool :=
  g.dead || g.triggered ||
    (g.access && (match g.partner with
      | some p => (match s.groups.get p with | some q => q.triggered || q.dead | none => true)
      | none => false))

/-- Every group of the task has been placed, and each has triggered or exited (R268). -/
def State.triggerReady (s : State) (task : Nat) : Bool :=
  match s.tasks.get task with
  | none => false
  | some t =>
    !t.triggered && t.groupsLeft == 0 &&
      s.groups.all (fun e => e.2.task != task || s.groupTriggered e.2)

/-- The task is looked at for its trigger point. -/
def State.lookTrigger (s : State) (task : Nat) : State := if s.triggerReady task then s.push (.triggerPoint task) else s

/-- TRIG (R252, R269). -/
def execTrig (_x : Args) (s : State) : Host.Outcome State Fault Refusal :=
  engineForm s (fun w =>
    if !s.trigMet w.gid w.g then .error (.wait .trig (s.disarm w))
    else
      let s1 := ((s.release w.gid w.g .device).updGroup w.gid (fun g => { g with triggered := true })).spoil w
      .ok ((s1.lookTrigger w.g.task).advance w))

/-! ### JOIN (R270, R280) -/

/-- The checks of JOIN's counter: those of LDU.b64, alignment and aperture; the lowest code. -/
def State.joinFail (s : State) (w : Who) (a : W64) : Option (Nat × Option W64) :=
  let base := match s.checkLane (s.seat w.gid w.g w.f.lowLane) a ⟨8, false, false⟩ with
    | .error c => some (c, some a)
    | .ok _ => none
  lowerCause (lowerCause base (if a.toNat % 8 ≠ 0 then some (0x10, some a) else none))
    (if apertureOf a = .priv then some (0x11, some a) else none)

/-- A cause that a refused dependence of an ENQ task of the team left for its next JOIN or last EXIT (R280). -/
def State.droppedCause (s : State) (w : Who) : Option (W64 × State) :=
  match s.teams.get w.g.team with
  | none => none
  | some t =>
    match t.dropped with
    | [] => none
    | a :: r => some (a, s.updTeam w.g.team (fun t => { t with dropped := r }))

/-- The counter against its target; none where the read stops. -/
def counterMet (b : List Byte) (target : W64) : Bool := decide (target.toNat ≤ bytesNat b)

/-- JOIN (R270). -/
def execJoin (fn : NbFn) (x : Args) (s : State) : Host.Outcome State Fault Refusal :=
  run s (fun w =>
    let a := s.srcS w x.imm x.a
    let target := s.srcS w x.imm x.b
    let sh : Shape := ⟨x.cm, x.d, x.imm, [], 0⟩
    match s.pre w sh, s.joinFail w a, s.droppedCause w with
    | .error e, _, _ => .error e
    | .ok (), some (c, tv), _ => .error (.cause c tv)
    | .ok (), none, some (d, s1) => .ok (s1.raiseOwed w 0x1B (some d))
    | .ok (), none, none =>
      if 4 ≤ s.heldUnits w.g.core then .error .busy
      else if orderedBehind s.ops w.gid w.g.who ⟨8, .load, ⟨.device, .acquire, .normal, false, false⟩, true⟩
          [⟨w.f.lowLane, a, [], 0⟩] then .error (.wait .hold s)
      else if w.f.afterJoin && s.pathsPending w.gid then .error (.wait .hold s)
      else
        let s0 := s.afterPaths w
        match s0.readAt w a 8 with
        | .blocked gva f => s0.hold w (.join fn x) gva f
        | .poisoned => .ok ((s0.push (.idemRestart w.gid (.poison a true w.fid))).advance w)
        | .value b =>
          let met := counterMet b target
          let s1 := if met then s0.acquire w.g .device else s0
          match fn with
          | .nb => .ok ((s1.putScalar w sh (if met then 1 else 0)).advance w)
          | .blocking => if met then .ok (s1.advance w) else .error (.wait (.counter a target) s0))

end Sys2Proof.Machine
end

