-- ==== Sys2Proof/Machine/Wait.lean ====
section
/-! DEFINITION. The events that end a fragment's wait, join fragments, or bring a late cause (spec/01 R22; spec/06 R166, R167;
spec/08 R189-R203; spec/12 R270; spec/22 R396; spec/25 R436). An event whose condition does not hold changes nothing. -/

namespace Sys2Proof.Machine

open Sys2Proof

/-! ### Fetch and late causes -/

/-- A late cause: at the fragment's next unissued instruction (R436). -/
def State.raiseLate (s : State) (w : Who) (code : Nat) (tval : Option W64) : State :=
  let r := s.orFree tval
  r.2.raiseIn w.gid w.fid code w.f.pc.addr r.1

/-- A line failed its check: the fragment restarts at its own PC, and the failure after the third restart is a precise cause
(R22, R461). -/
def State.lineBad (s : State) (w : Who) : State :=
  if w.f.crcTries < 3 then
    (s.updFrag w.gid w.fid (fun f =>
      { f with crcTries := f.crcTries + 1, retiredHere := f.retiredHere + 1, age := 0 })).relcntUp w.g.ctx
  else if w.entering then s.entryFails w
  else
    (s.updFrag w.gid w.fid (fun f => { f with crcTries := 0 })).raisePrecise w 0x04 (some w.f.pc.line) w.f.pc.addr

/-- FETCH_CHECK_FAIL (R22). -/
def execFetchCheckFail (g f : Nat) (s : State) : Host.Outcome State Fault Refusal :=
  .next (match s.who? g f with | some w => s.lineBad w | none => s)

/-- The walk of a side-logged entry meets a malformed stage-1 entry: its GVA (R445). -/
def State.malformedEntry (s : State) (o : MemOp) : Option Nat :=
  match accForm o.instr, s.groups.get o.gid with
  | some a, some g =>
    match (s.withPins g.core o).resolveLanes o.gid g a o.lanes with
    | .error (gva, .malformed1 _) => some gva
    | _ => none
  | _, _ => none

/-- The first side-logged entry whose store can never be performed, with its GVA. -/
def State.lateEntry (s : State) : List MemOp → Option (MemOp × Nat)
  | [] => none
  | o :: t =>
    match (if o.stage = .sideLogged then s.malformedEntry o else none) with
    | some a => some (o, a)
    | none => State.lateEntry s t

/-- LATE_FAULT: 0x17 for a retired store whose walk met a malformed entry (R436, R445). -/
def execLateFault (s : State) : Host.Outcome State Fault Refusal :=
  .next (match s.lateEntry s.ops with
    | none => s
    | some (o, a) =>
      match s.opWho o with
      | none => s.dropOp o.id
      | some w => ((s.dropOp o.id).raiseLate w 0x17 (some (BitVec.ofNat 64 a))).opDone o.core o.gid)

/-- CONFLICT in a cycle in which another abort has closed the region: the lower code is written (R403). -/
def State.lowerCode (s : State) (gid : Nat) : State :=
  s.updGroup gid (fun g =>
    match g.closed with
    | some (t, code, at_) =>
      if at_ = s.clock ∧ 3 < code then { g.setS t.codeReg 3 with closed := some (t, 3, at_) } else g
    | none => g)

/-- CONFLICT (R396, R399, R403). -/
def execConflict (g : Nat) (s : State) : Host.Outcome State Fault Refusal :=
  .next (if (s.groups.get g).any (fun x => x.tryR.isSome) then s.abortGroup g 0x03 0 none else s.lowerCode g)

/-! ### Queues (R166, R167) -/

/-- The fragment goes on to its instruction again if it waits as the test says. -/
def State.wakeIf (s : State) (gid fid : Nat) (p : Wait → Bool) : State :=
  match s.who? gid fid with
  | none => s
  | some w =>
    match w.f.status with
    | .waiting x => if p x then s.wake gid fid else s
    | _ => s

/-- QUEUE_WAIT_COMPLETE: the waiting push or pop issues again, and completes where every list allows it (R166). -/
def execQueueWaitComplete (g f : Nat) (s : State) : Host.Outcome State Fault Refusal :=
  .next (s.wakeIf g f (fun x => x == .queue))

/-- Every fragment of a group waits on the queue window. -/
def Group.allOnQueue (g : Group) : Bool :=
  !g.dead && g.stopped.isNone && g.bobCause.isNone && g.frags.all (fun f => f.status == .waiting .queue)

/-- The fragment that has waited longest; of several, the first. -/
def oldestWaiter : List Frag → Option Frag
  | [] => none
  | f :: t =>
    match oldestWaiter t with
    | none => some f
    | some h => if (f.waitFrom.getD 0).toNat ≤ (h.waitFrom.getD 0).toNat then some f else some h

/-- A compute group and its bobbin wait on their window for ever (R167). -/
def State.queueStuck (s : State) (g : Group) : Bool :=
  !g.access && g.allOnQueue &&
    (match g.partner.bind s.groups.get with
     | some p => p.allOnQueue
     | none => false)

/-- QUEUE_DEADLOCK: 0x21 at the compute group's oldest waiting fragment (R167). -/
def execQueueDeadlock (g : Nat) (s : State) : Host.Outcome State Fault Refusal :=
  .next (match s.groups.get g with
    | none => s
    | some x =>
      if s.queueStuck x then
        match oldestWaiter x.frags with
        | none => s
        | some f => s.raisePrecise ⟨g, f.id, x, f⟩ 0x21 none f.pc.addr
      else s)

/-! ### Joining (R189, R190) -/

/-- Fragments that hold a fork record. -/
def Group.holders (g : Group) (id : Nat) : List Frag := g.frags.filter (fun f => (forkIds f.stack).contains id)

/-- Which of the joining fragments stands for the joined one: the handler's, else the first. -/
def Group.joinHead (g : Group) (l : List Frag) : Option Frag :=
  match l.find? (fun f => match g.handling with | some h => h.fid == f.id | none => false) with
  | some f => some f
  | none => l.head?

/-- The joined fragment (R189). -/
def joinedFrag (h : Frag) (l : List Frag) (saved : W32) (rest : List Rec) (pc : Pc) : Frag :=
  { h with slices := l.foldl (fun a f => a ||| f.slices) 0, pc := pc, fmt := saved, stack := rest, dormant := [],
           age := l.foldl (fun a f => max a f.age) 0, status := .ready, byTransfer := false, crcTries := 0,
           landTries := 0, retiredHere := h.retiredHere + 1, waitFrom := none, begun := false, afterJoin := true }

/-- What belonged to a joining fragment belongs to the joined one. -/
def State.renameFrags (s : State) (gid : Nat) (old : List Nat) (new : Nat) : State :=
  let r (k : Nat) : Nat := if old.contains k then new else k
  { s.updGroup gid (fun g =>
      { g with sent := g.sent.map (fun x => { x with fid := r x.fid }), stopped := g.stopped.map r,
               handling := g.handling.map (fun h => { h with fid := r h.fid }) })
    with ops := s.ops.map (fun o => if o.gid == gid then { o with fid := r o.fid } else o) }

/-- REGANG_JOIN: every fragment that holds the record waits at its REGANG, and they become one (R189). -/
def State.joinRecord (s : State) (gid id : Nat) : State :=
  match s.groups.get gid with
  | none => s
  | some g =>
    let l := g.holders id
    if l.all (fun f => f.status == .waiting (.join id)) then
      match g.joinHead l, g.bound id with
      | some h, some (_, pc) =>
        match h.stack with
        | .fork _ saved :: rest =>
          let ids := l.map (·.id)
          let g' : Group := (g.unbind id)
          let s1 := s.setGroup gid
            { g' with frags := (g.frags.filter (fun f => f.id == h.id || !ids.contains f.id)).map (fun f =>
                        if f.id == h.id then joinedFrag h l saved rest pc.next else f),
                      retired := g.retired + l.length }
          let s2 := s1.renameFrags gid ids h.id
          ({ s2 with ops := tickWindows s2.ops gid h.id }).joinPaths gid
            ((g.frags.filter (fun (f : Frag) => !ids.contains f.id)).map (fun (f : Frag) => f.id))
        | _ => s
      | _, _ => s
    else s

/-- REGANG_JOIN (R189). -/
def execRegangJoin (g rec : Nat) (s : State) : Host.Outcome State Fault Refusal := .next (s.joinRecord g rec)

/-- The parked slices of the fragment's top entry run; its other slices wait at the REGANG (R190). -/
def Frag.unpark (f : Frag) : Frag :=
  match f.stack with
  | .park id saved parked resume _ false :: rest =>
    { f with slices := parked, pc := resume, fmt := saved, status := .ready, byTransfer := false, waitFrom := none,
             begun := false,
             stack := .park id saved parked resume (f.slices &&& ~~~parked) true :: rest }
  | _ => f

/-- PARKED_SLICES_RESUME (R190). -/
def execParkedSlicesResume (g f : Nat) (s : State) : Host.Outcome State Fault Refusal :=
  .next (match s.who? g f with
    | none => s
    | some w => if w.f.status = .waiting .park then s.updFrag g f Frag.unpark else s)

/-! ### Barriers (R197, R198) -/

/-- The phase that a fragment waits for has completed. -/
def Team.phaseOver (t : Team) (bar : Nat) : Wait → Bool
  | .bar id ph => id == bar && (barrierAt t id).phase != ph
  | .barw id ph => id == bar && (barrierAt t id).phase != ph
  | _ => false

/-- The groups of a team that are still there, in order of their numbers. -/
def State.liveGroups (s : State) (t : Team) : List (Nat × Group) :=
  t.groups.filterMap (fun k => (s.groups.get k).bind (fun g => if g.dead then none else some (k, g)))

/-- BARRIER_PHASE_COMPLETE: who waited for the phase leaves (R197). -/
def execBarrierPhaseComplete (team bar : Nat) (s : State) : Host.Outcome State Fault Refusal :=
  .next (match s.teams.get team with
    | none => s
    | some t =>
      (s.liveGroups t).foldl (fun s e => e.2.frags.foldl (fun s f => s.wakeIf e.1 f.id (t.phaseOver bar)) s) s)

/-- The fragment of a group that waits at a barrier whose phase stands: in handler mode the handler's. -/
def Group.atBarrier (g : Group) (t : Team) : Option Frag :=
  if g.stopped.isSome then none
  else g.frags.find? (fun f =>
    (!g.hm || (match g.handling with | some h => h.fid == f.id | none => true)) &&
    (match f.status with
     | .waiting (.bar id ph) => (barrierAt t id).phase == ph
     | .waiting (.barw id ph) => (barrierAt t id).phase == ph
     | _ => false))

/-- The lowest-numbered waiting group, where every compute group of the team waits or has exited (R198). -/
def State.barrierStuck (s : State) (t : Team) : Option Who :=
  let l := (s.liveGroups t).filter (fun e => !e.2.access)
  if l.all (fun e => (e.2.atBarrier t).isSome) then
    match l.foldl (fun (a : Option (Nat × Group)) e =>
        match a with
        | some b => if b.2.index ≤ e.2.index then some b else some e
        | none => some e) none with
    | some (k, g) => (g.atBarrier t).map (fun f => ⟨k, f.id, g, f⟩)
    | none => none
  else none

/-- BARRIER_DEADLOCK: 0x23, the arrival of a BAR standing (R198). -/
def execBarrierDeadlock (team : Nat) (s : State) : Host.Outcome State Fault Refusal :=
  .next (match s.teams.get team with
    | none => s
    | some t =>
      match s.barrierStuck t with
      | none => s
      | some w => s.raisePrecise w 0x23 none w.f.pc.addr)

/-! ### Blocks, yields and waited words -/

/-- The oldest request of an octet is granted where its blocks are free: a GROW receives the blocks that it asked for and is
complete, or raises 0x0F where its group has outgrown the request; a TRY issues again (R203, R392). -/
def State.grantOldest (s : State) (core octet : Nat) (w : Who) : State :=
  match w.f.status with
  | .waiting (.grow n) =>
    if !s.growFits w.g n then
      let s1 := (s.leaveWaits w.gid (fun k => k == w.fid)).wake w.gid w.fid
      if w.g.hm && !w.inHandler then s1 else s1.raisePrecise w 0x0F none w.f.pc.addr
    else if s.freeIn core octet < n then s
    else (s.grantBlocks w n).advance w
  | .waiting (.area n) => if s.freeIn core octet < n then s else s.wake w.gid w.fid
  | _ => s

/-- GROW_GRANT (R203). -/
def execGrowGrant (core octet : Nat) (s : State) : Host.Outcome State Fault Refusal :=
  .next (match (s.cores.get core).bind (fun c => c.waiters.find? (fun x => x.1 == octet)) with
    | none => s
    | some x => match s.who? x.2.1 x.2.2 with | some w => s.grantOldest core octet w | none => s)

/-- A fragment of a YIELD's set that has neither issued nor stopped being ready. -/
def State.stillFirst (s : State) (x : Nat × Nat) : Bool :=
  s.groups.any (fun e => e.2.frags.any (fun f => f.id == x.1 && f.retiredHere == x.2 && s.isReady ⟨e.1, f.id, e.2, f⟩))

/-- The set of every yielding fragment without those that have issued or have stopped being ready: what has left it does not come
back (R81). -/
def State.pruneYields (s : State) : State :=
  let yields (f : Frag) : Bool := match f.status with | .yielding _ _ => true | _ => false
  if s.groups.all (fun e => !e.2.frags.any yields) then s
  else
    let prune (f : Frag) : Frag :=
      match f.status with
      | .yielding u others => { f with status := .yielding u (others.filter s.stillFirst) }
      | _ => f
    { s with groups := s.groups.map (fun e => (e.1, { e.2 with frags := e.2.frags.map prune })) }

/-- YIELD_END (R81). -/
def execYieldEnd (g f : Nat) (s : State) : Host.Outcome State Fault Refusal :=
  .next (match s.who? g f with
    | none => s
    | some w =>
      match w.f.status with
      | .yielding until_ others =>
        if until_.toNat ≤ s.clock.toNat ∨ !others.any s.stillFirst then s.wake g f else s
      | _ => s)

/-- MWAIT_WAKE: the word meets the condition (R202); a read that stops issues the MWAIT again. -/
def execMwaitWake (g f : Nat) (s : State) : Host.Outcome State Fault Refusal :=
  .next (match s.who? g f with
    | none => s
    | some w =>
      match w.f.status with
      | .waiting (.mwait fn a b imm _) =>
        match s.readWord w a with
        | .value v => if mwaitStops fn v b then s.mwaitDone w a imm else s
        | .blocked _ _ => s.wake g f
        | .poisoned _ => s.wake g f
      | _ => s)

/-- MWAIT_TIMEOUT (R202). -/
def execMwaitTimeout (g f : Nat) (s : State) : Host.Outcome State Fault Refusal :=
  .next (match s.who? g f with
    | none => s
    | some w =>
      match w.f.status with
      | .waiting (.mwait _ a _ imm (some t)) => if t.toNat ≤ s.clock.toNat then s.mwaitDone w a imm else s
      | _ => s)

/-- WAITC_SATISFIED: the WAITC returns, or takes a cause owed to it (R199, R244, R250). -/
def execWaitcSatisfied (g f : Nat) (s : State) : Host.Outcome State Fault Refusal :=
  .next (match s.who? g f with
    | none => s
    | some w =>
      match w.f.status with
      | .waiting (.waitc cls thr) => (s.waitcEnd w cls thr).getD s
      | _ => s)

/-- JOIN_WAKE: the counter has reached the target, and the JOIN returns with an acquire (R270); where the read stops, or a
dependence of the team was refused (R280), the JOIN issues again. -/
def execJoinWake (g f : Nat) (s : State) : Host.Outcome State Fault Refusal :=
  .next (match s.who? g f with
    | none => s
    | some w =>
      match w.f.status with
      | .waiting (.counter a target) =>
        if (s.droppedCause w).isSome then s.wake g f
        else
          match s.readAt w a 8 with
          | .value b => if counterMet b target then (s.acquire w.g .device).advance w else s
          | .blocked _ _ => s.wake g f
          | .poisoned => s.wake g f
      | _ => s)

end Sys2Proof.Machine
end

