-- ==== Sys2Proof/Machine/Issue.lean ====
section
/-! DEFINITION. The choice of the fragment that issues, with ageing and urgency (spec/10 R217-R221; spec/15 R309, R310), the
retirement of logged instructions, the side log and held accesses (spec/04 R134-R137; spec/25 R439-R442, R447, R448), and
the time limits of L1 lines (spec/11 R229, R237). -/

namespace Sys2Proof.Machine

open Sys2Proof

/-! ### Engines (R310) -/

/-- The engine that a form targets: vector pipes, special function, load/store, copy, gather, matrix, collective,
network. -/
def engineOf (i : Instr) : Nat :=
  let op := ((Instr.opFn i).map (·.1)).getD 0
  let net := match i.payload with
    | some (.v x) => x.cm.net
    | some (.m x) => x.cm.net
    | _ => false
  if net then 7
  else if 0x48 ≤ op ∧ op ≤ 0x4B then 1
  else if (0x60 ≤ op ∧ op ≤ 0x65) ∨ (0x70 ≤ op ∧ op ≤ 0x74) ∨ op = 0xA6 then 2
  else if (0x80 ≤ op ∧ op ≤ 0x83) ∨ op = 0x87 ∨ op = 0x88 then 3
  else if op = 0x84 ∨ op = 0x85 then 4
  else if (0x90 ≤ op ∧ op ≤ 0x96) ∨ op = 0x56 ∨ op = 0x57 then 5
  else if op = 0x86 then 6
  else 0

/-- The engine of a fragment's next instruction; one that cannot be read counts for the vector pipes. -/
def State.nextEngine (s : State) (w : Who) : Nat :=
  match s.nextWord w with
  | some (.ok i) => engineOf i
  | _ => 0

/-- The engine units that the fragment's next instruction can start on: an engine, or for the vector pipes of the compute side
the two octets that the group's home octet reaches (R154), as 8 + octet. -/
def State.units (s : State) (w : Who) : List Nat :=
  let e := s.nextEngine w
  if e = 0 ∧ !w.g.access then [8 + w.g.octet, 8 + (w.g.octet ^^^ 1)] else [e]

/-- The next instruction targets an engine that holds as many operations as it can: the fragment stays ready, and starts later
(R217, R253). -/
def State.engineFull (s : State) (w : Who) : Bool :=
  match s.nextWord w with
  | some (.ok (.cpy _)) | some (.ok (.cpy2d _)) => 64 ≤ s.copiesOf w.g.core
  | some (.ok (.gth _ _)) | some (.ok (.sct _ _)) => 16 ≤ s.gathersOf w.g.core
  | _ => false

/-- The next instruction is an atomic with no active lane, which takes no load/store unit (R209). -/
def State.takesNoUnit (s : State) (w : Who) : Bool :=
  match s.nextWord w with
  | some (.ok i) =>
    (match accForm i, opMArgs i with
     | some a, some x => (match a.action with | .atomic _ => true | _ => false) && (s.lanesOf w i x a.scalar).isEmpty
     | _, _ => false)
  | _ => false

/-- The unit can take a start beside those of the cycle already made: no octet and no unit takes two; the core has four load/store
units, and an operand log of 48 entries (R134, R137, R309). -/
def State.unitFree (s : State) (core : Nat) (used : List Nat) (u : Nat) : Bool :=
  if u = 2 then
    let n := (used.filter (· == 2)).length
    s.heldUnits core + n < 4 && s.logged core + n < 48
  else !used.contains u

/-! ### The choice (R220, R309) -/

/-- What the choice compares. -/
structure Bidder where
  w : Who
  prio : Nat
  unit : Nat
  idle : Nat
  deriving DecidableEq, Repr

/-- The first of two candidates by R309: priority, idle count, ageing counter, group slot, first slice. -/
def Bidder.before (a b : Bidder) : Bool :=
  if a.prio ≠ b.prio then b.prio < a.prio
  else if a.idle ≠ b.idle then b.idle < a.idle
  else if a.w.f.age ≠ b.w.f.age then b.w.f.age < a.w.f.age
  else if a.w.g.slot ≠ b.w.g.slot then a.w.g.slot < b.w.g.slot
  else lowSlice a.w.f.slices ≤ lowSlice b.w.f.slices

def bestBidder : List Bidder → Option Bidder
  | [] => none
  | x :: t =>
    match bestBidder t with
    | none => some x
    | some y => if x.before y then some x else some y

/-- The lists of one issue side. -/
def Core.urgent (c : Core) (access : Bool) : List (Nat × Nat) := if access then c.urgentP else c.urgentC
def Core.last (c : Core) (access : Bool) : List Nat := if access then c.lastP else c.lastC
def Core.starts (c : Core) (access : Bool) : List Start := if access then c.startsP else c.startsC

def Core.setUrgent (c : Core) (access : Bool) (l : List (Nat × Nat)) : Core :=
  if access then { c with urgentP := l } else { c with urgentC := l }

def Core.setStarts (c : Core) (access : Bool) (last : List Nat) (l : List Start) : Core :=
  if access then { c with lastP := last, startsP := l } else { c with lastC := last, startsC := l }

def Who.key (w : Who) : Nat × Nat := (w.gid, w.fid)

/-- The second word of a valid pair that the fragment's word leads (R25). -/
def State.pairWord (s : State) (w : Who) : Option Instr :=
  if w.g.access then none
  else
    match s.fetchLine w.g.ctx w.g.core w.f.pc.line with
    | .error _ => none
    | .ok l =>
      if (pairFirsts (lineWord l).pair).contains w.f.pc.slot then
        match decode (lineSlot l w.f.pc.slot), decode (lineSlot l (w.f.pc.slot + 1)) with
        | .ok i, .ok j => if !Instr.beyond j w.g && pairOk i j then some j else none
        | _, _ => none
      else none

/-- The octet that the template gives the fragment's next word: the first word of a valid pair starts on the home octet b, the
second on b xor 1 (R25, R156). -/
def State.pairUnit (s : State) (w : Who) : Option Nat :=
  if w.g.access || s.nextEngine w ≠ 0 then none
  else if (s.pairWord w).isSome then some (8 + w.g.octet)
  else
    match w.f.pc.slot with
    | 0 => none
    | k + 1 =>
      if !w.f.byTransfer && (s.pairWord { w with f := { w.f with pc := { w.f.pc with slot := k } } }).isSome then
        some (8 + (w.g.octet ^^^ 1))
      else none

/-- The units that can take the fragment's next instruction in this cycle; `bar` names engines that are reserved (R220). -/
def State.openUnits (s : State) (core : Nat) (used bar : List Nat) (w : Who) : List Nat :=
  if s.engineFull w then []
  else (s.units w).filter (fun u => !bar.contains u && (s.takesNoUnit w || s.unitFree core used u))

/-- The most idle of the free units that the fragment's next instruction can start on (R310); of two octets that have been idle
equally long the home octet (DESIGN CHOICE, log 155); a word of a pair starts on the octet of its place (R156). A fragment whose
unit is taken is passed over (DESIGN CHOICE, log 162). -/
def State.bid (s : State) (core : Nat) (idle used bar : List Nat) (w : Who) : Option Bidder :=
  let l := s.openUnits core used bar w
  match l.foldl (fun (a : Option Bidder) u =>
      let b : Bidder := ⟨w, s.prio w.g, u, idle.getD u 0⟩
      match a with
      | none => some b
      | some x => if x.idle < b.idle then some b else some x) none, s.pairUnit w with
  | some b, some u => if l.contains u then some { b with unit := u } else none
  | r, _ => r

/-- The fragment that starts: the first urgent one whose engine is not taken, else by R309. The head of the list starts on an
engine whatever the other side's list reserves. -/
def State.nextIssuer (s : State) (core : Nat) (urgent : List (Nat × Nat)) (idle used bar : List Nat) (ready : List Who) :
    Option Bidder :=
  let free (k : Nat × Nat) : List Nat := if urgent.head? = some k then [] else bar
  match urgent.findSome? (fun k => (ready.find? (fun w => w.key == k)).bind (s.bid core idle used (free k))) with
  | some b => some b
  | none => bestBidder (ready.filterMap (s.bid core idle used bar))

/-- The start was accepted: its fragment has gone on from it, or is there no more. -/
def State.accepted (s : State) (x : Start) : Bool :=
  match s.who? x.gid x.fid with
  | some w => x.retired < w.f.retiredHere
  | none => true

/-- The cycles in which the engine units last accepted a start of the side (R310); one that has accepted none yet counts as idle from
cycle 0 (DESIGN CHOICE, log 168). -/
def State.lastNow (s : State) (l : List Nat) (starts : List Start) : List Nat :=
  (range 0 16).map (fun k =>
    match starts.find? (fun x => x.unit == k && s.accepted x) with
    | some x => max (l.getD k 0) x.at_.toNat
    | none => l.getD k 0)

/-- The idle counts of the units: the cycles since, up to 65,535 (R310). -/
def State.idleNow (s : State) (last : List Nat) : List Nat := last.map (fun t => min 65535 (s.clock.toNat - 1 - t))

/-- Ready fragments that are not chosen age (R219). -/
def State.ageOthers (s : State) (ready : List Who) (chosen : List (Nat × Nat)) : State :=
  (ready.filter (fun w => !chosen.contains w.key)).foldl
    (fun s w => s.updFrag w.gid w.fid (fun f => { f with age := min 1024 (f.age + 1) })) s

/-- An urgent list without what has issued or is no longer ready (R220). -/
def keepUrgent (l : List (Nat × Nat)) (ready : List Who) : List (Nat × Nat) :=
  l.filter (fun k => ready.any (fun w => w.key == k && w.f.age == 1024))

/-- A list by slot, then first slice. -/
def bySlot : List Who → List Who
  | [] => []
  | x :: t => insertSlot x (bySlot t)
where
  insertSlot (x : Who) : List Who → List Who
    | [] => [x]
    | y :: t =>
      if x.g.slot < y.g.slot ∨ (x.g.slot = y.g.slot ∧ lowSlice x.f.slices ≤ lowSlice y.f.slices) then x :: y :: t
      else y :: insertSlot x t

/-- Fragments at 1,024 join their list at its tail, those of one cycle by slot and first slice (R220). -/
def joinUrgent (l : List (Nat × Nat)) (ready : List Who) : List (Nat × Nat) :=
  l ++ (bySlot (ready.filter (fun w => w.f.age == 1024 && !l.contains w.key))).map Who.key

/-- The urgent list of a side as a start finds it. -/
def State.urgentNow (s : State) (core : Nat) (access : Bool) (c : Core) : List (Nat × Nat) :=
  let ready := s.readySide core access
  joinUrgent (keepUrgent (c.urgent access) ready) ready

/-- The start is withheld to limit heat (R474): every second one, or seven in eight. -/
def Mgmt.withholds (m : Mgmt) : Bool :=
  match m.thermal with
  | .none => false
  | .half => m.gateCount % 2 == 1
  | .sevenEighths => m.gateCount % 8 != 0

def sideBool (x : Side) : Bool := match x with | .compute => false | .pricking => true

/-- Fragments whose next instruction would wait at the queue window wait there (R166, R217): they take no start. -/
def State.parkQueues (s : State) (core : Nat) (access : Bool) : State :=
  ((s.candidates core access).filter (fun w => s.queueNext w)).foldl (fun s w => s.setWaiting w.gid w.fid .queue) s

/-- The engines that the first urgent fragment of the other side reserves; each side has vector pipes of its own (R157, R220). -/
def State.reserved (s : State) (core : Nat) (access : Bool) (c : Core) : List Nat :=
  let ready := s.readySide core (!access)
  match (s.urgentNow core (!access) c).head?.bind (fun k => ready.find? (fun w => w.key == k)) with
  | some w => if s.nextEngine w = 0 then [] else [s.nextEngine w]
  | none => []

def Bidder.start (b : Bidder) (now : W64) : Start := ⟨b.w.gid, b.w.fid, b.w.f.pc, b.w.f.retiredHere, b.unit, now⟩

/-- The unit on which a pair's second word starts: for the vector pipes the octet b xor 1 (R156). -/
def secondUnit (w : Who) (j : Instr) : Nat :=
  let e := engineOf j
  if e = 0 then 8 + (w.g.octet ^^^ 1) else e

/-- The engine units that the other side's starts of this cycle have taken; each side has vector pipes of its own (R157, R309). -/
def Core.takenBy (c : Core) (access : Bool) (now : W64) : List Nat :=
  ((c.starts access).filter (fun x => x.at_ == now && x.unit != 0 && decide (x.unit < 8))).map (·.unit)

/-- The second start of a compute cycle: the pair's second word, where its unit is free too, else by the same rule among the
other ready fragments (R156, R309). The Pricking engine starts one (R157). -/
def State.secondStart (s : State) (core : Nat) (access : Bool) (urgent : List (Nat × Nat)) (idle taken bar : List Nat)
    (ready : List Who) (b : Bidder) : Option Start :=
  let used := if s.takesNoUnit b.w then taken else b.unit :: taken
  let other := (s.nextIssuer core (urgent.filter (· != b.w.key)) idle used bar
    (ready.filter (fun w => w.key != b.w.key))).map (fun x => x.start s.clock)
  if access then none
  else
    match s.pairWord b.w with
    | some j =>
      let u := secondUnit b.w j
      if s.unitFree core used u && !bar.contains u then
        some ⟨b.w.gid, b.w.fid, b.w.f.pc.next, b.w.f.retiredHere + 1, u, s.clock⟩
      else other
    | none => other

/-- The starts of one issue side in one cycle. -/
def State.issueOn (s0 : State) (core : Nat) (access : Bool) : State :=
  let s := s0.parkQueues core access
  match s.cores.get core with
  | none => s
  | some c =>
    let ready := s.readySide core access
    if ready.isEmpty then s
    else
      let u := s.urgentNow core access c
      let times := s.lastNow (c.last access) (c.starts access)
      let idle := s.idleNow times
      let bar := s.reserved core access c
      let taken := c.takenBy (!access) s.clock
      let s1 := (State.updCore { s with mgmt := { s.mgmt with gateCount := s.mgmt.gateCount + 1 } } core (fun c =>
        (c.setUrgent access u).setStarts access times []))
      let last (s : State) : State := s.updCore core (fun c => c.setUrgent access (s.urgentNow core access c))
      -- nobody starts in this cycle
      let idleCycle : State := last (s1.ageOthers ready [])
      if s.mgmt.withholds then idleCycle
      else
        match s.nextIssuer core u idle taken bar ready with
        | none => idleCycle
        | some b =>
          let x := s.secondStart core access u idle taken bar ready b
          let starts := b.start s.clock :: x.toList
          let s2 := (s1.ageOthers ready (starts.map (fun y => (y.gid, y.fid)))).updCore core (fun c =>
            c.setStarts access times starts)
          { last s2 with cur := some ⟨b.w.gid, b.w.fid⟩, second := x }

/-- ISSUE_START (R219, R220, R309, R310, R474). -/
def execIssueStart (core : Nat) (side : Side) (s : State) : Host.Outcome State Fault Refusal :=
  .next (s.issueOn core (sideBool side))

/-- FRAGMENT_URGENT (R220): the fragments of its side that stand at 1,024 are in its list. -/
def execFragmentUrgent (g f : Nat) (s : State) : Host.Outcome State Fault Refusal :=
  .next (match s.who? g f with
    | none => s
    | some w =>
      if w.f.age = 1024 ∧ s.isReady w then
        s.updCore w.g.core (fun c => c.setUrgent w.g.access (joinUrgent (c.urgent w.g.access) (s.readySide w.g.core w.g.access)))
      else s)

/-! ### Causes of logged instructions (R439, R441, R448) -/

/-- The group handles a cause, or is stopped: another waits (R438-R440). -/
def Group.handlingNow (g : Group) : Bool := g.hm || g.stopped.isSome || g.bobCause.isSome

/-- A logged instruction raises a precise cause: where younger instructions have issued it stays as the replay point, else
it re-executes whole, the slices that were dormant at it dormant again (R192, R441, R442); a bobbin's, and one that is raised while a cause is handled, is issued again afterwards, but a
handler's own writes nothing, and its cause is held pending (R439). -/
def State.raiseOp (s : State) (o : MemOp) (w : Who) (code : Nat) (tval : W64) : State :=
  let s1 := s.dropOp o.id
  if w.g.tryR.isSome && isExecutionCause code then s1.abortGroup w.gid 0x06 0 (some tval)
  else if o.hm && w.g.hm && !w.g.access then s1.raiseIn w.gid w.fid code o.pc.addr tval
  else if w.g.handlingNow || w.g.access then
    (s1.updGroup w.gid (fun g => { g with stalled := g.stalled ++ [{ o with stage := .issued }] })).raiseIn w.gid w.fid
      code o.pc.addr tval
  else if o.younger = 0 then
    (s1.updFrag w.gid w.fid (fun f =>
      { f with pc := o.pc, byTransfer := false, dormant := o.dormant.filter (fun e => f.slices.getLsbD e.1) })).raiseIn
      w.gid w.fid code o.pc.addr tval
  else
    (s1.raiseIn w.gid w.fid code o.pc.addr tval).updGroup w.gid (fun g => { g with replay := some (o, w.f.pc) })

/-- A held instruction is refused: its fragment raises the cause at it (R448). -/
def State.raiseHeld (s : State) (o : MemOp) (w : Who) (code : Nat) (tval : W64) : State :=
  let s1 := ((s.giveBack o).dropOp o.id).wake w.gid w.fid
  (s1.raisePrecise w code (some tval) w.f.pc.addr).opDone o.core o.gid

/-- A side-logged entry is refused: nothing of it is performed, and the cause is late (R136). -/
def State.raiseLogged (s : State) (o : MemOp) (w : Who) (code : Nat) (tval : W64) : State :=
  ((s.dropOp o.id).raiseLate w code (some tval)).opDone o.core o.gid

/-- The refusal of an access by its stage (R136, R448). -/
def State.refuseOp (s : State) (o : MemOp) (w : Who) (code : Nat) (tval : W64) : State :=
  if o.stage = .sideLogged then s.raiseLogged o w code tval
  else if o.whole || o.waits then s.raiseHeld o w code tval
  else (s.raiseOp o w code tval).opDone o.core o.gid

/-! ### Retirement (R33, R134, R137) -/

/-- The entry retires with its result. -/
def State.retireOp (s : State) (o : MemOp) (w : Who) (a : AccForm) (old : List (Nat × List Byte)) : State :=
  (((s.finishOp o w a old).dropOp o.id).goOn o w).opDone o.core o.gid

/-- The entry goes to the side log, behind those that stand there, and a fragment that waited at it goes on (R134, R135). -/
def State.toSideLog (s : State) (o : MemOp) (w : Who) (a : AccForm) : State :=
  let s1 := if o.waits then (s.finishOp o w a []).goOn o w else s
  State.opDone { s1 with
      ops := s1.ops.map (fun p => if p.id == o.id then { p with stage := .sideLogged, waits := false, seq := s1.nextId } else p),
      nextId := s1.nextId + 1 }
    o.core o.gid

/-- The walk of a logged instruction fails: a malformed stage-1 entry is its cause; a store goes to the side log; any other
holds its unit, where one of the core's four is free (R134, R445). -/
def State.blockOp (s : State) (o : MemOp) (w : Who) (a : AccForm) (gva : Nat) (f : WalkFail) : State :=
  let tv := BitVec.ofNat 64 gva
  match f with
  | .malformed1 _ =>
    if o.waits then s.raiseHeld o w 0x17 tv
    else if a.posted then s.raiseLogged o w 0x17 tv else (s.raiseOp o w 0x17 tv).opDone o.core o.gid
  | _ =>
    if a.posted && s.sideLogged o.core < 64 && s.canReport w.g.ctx gva f then (s.reportFault w gva f false).toSideLog o w a
    else if 4 ≤ s.heldUnits o.core then s
    else (s.reportFault w gva f false).setStage o.id .held

/-- A held access of a region whose page has come: into the buffer or past it, as at its issue; its fragment goes on (R134,
R139). -/
def State.retryInRegion (s : State) (o : MemOp) (w : Who) (a : AccForm) (x : MArgs) (t : TryRegion) : State :=
  match s.tryAccess w (o.shape x) o.instr a t o.lanes with
  | .done s1 => ((s1.dropOp o.id).goOn o w).opDone o.core o.gid
  | .blocked gva (.malformed1 _) => s.raiseHeld o w 0x17 (BitVec.ofNat 64 gva)
  | .blocked gva f => if 4 ≤ s.heldUnits o.core then s else (s.reportFault w gva f false).setStage o.id .held
  | .abort c => s.abortGroup o.gid c 0 none

/-- An entry of the operand log is performed, unless earlier accesses of its group come first. -/
def State.retirePlain (s : State) (o : MemOp) (w : Who) (a : AccForm) : State :=
  let before : State := { s with ops := olderThan o.id s.ops }
  if orderedBehind before.ops o.gid w.g.who a o.lanes || before.windowWaits w a o.lanes then s
  else if a.action == .store && before.overlapsSide o.gid w.g.who o.lanes a.bytes then
    if s.sideLogged o.core < 64 then s.toSideLog o w a else s
  else
    match s.performOp w.g o a fadd32 with
    | .done s1 old => s1.retireOp o w a old
    | .blocked gva f => s.blockOp o w a gva f
    | .poisoned x h => (((s.dropOp o.id).push (.idemRestart o.gid (.poison x h o.fid))).goOn o w).opDone o.core o.gid

/-- An attempt to perform an entry of the operand log. -/
def State.tryRetire (s : State) (o : MemOp) (w : Who) (a : AccForm) : State :=
  match w.g.tryR, opMArgs o.instr with
  | some t, some x => if t.since ≤ o.id && o.waits then s.retryInRegion o w a x t else s.retirePlain o w a
  | _, _ => s.retirePlain o w a

def State.op? (s : State) (id : Nat) : Option MemOp := s.ops.find? (fun o => o.id == id)

/-- LONG_LATENCY_RETIREMENT (R33, R137). -/
def execLongLatencyRetirement (op : Nat) (s : State) : Host.Outcome State Fault Refusal :=
  .next (match s.op? op with
    | none => s
    | some o =>
      match s.opWho o, accForm o.instr with
      | some w, some a => if o.stage = .issued ∧ s.onCore w.g then s.tryRetire o w a else s
      | _, _ => s)

/-- The page of a held access is still without its mapping and its record unresolved, or in flight (R134, R447). -/
def State.accessHeld (s : State) (o : MemOp) (w : Who) : Bool :=
  if o.whole then s.stillHeld w.g (o.lanes.head?.map (·.addr))
  else
    match accForm o.instr with
    | none => false
    | some a =>
      match s.resolveLanes o.gid w.g a o.lanes with
      | .ok _ => false
      | .error (_, .inFlight) => true
      | .error (gva, f) => s.mgmt.traps.any (fun r => samePage r w.g.ctx gva) || !s.canReport w.g.ctx gva f

/-- HELD_ACCESS_RESUME: an instruction that restarts whole issues again; an entry of the operand log walks again (R134). -/
def execHeldAccessResume (op : Nat) (s : State) : Host.Outcome State Fault Refusal :=
  .next (match s.op? op with
    | none => s
    | some o =>
      match s.opWho o with
      | none => s
      | some w =>
        if o.stage = .held ∧ s.onCore w.g ∧ !s.accessHeld o w then
          if o.whole then ((s.dropOp op).wakeIf o.gid w.fid (fun x => x == .access op)).opDone o.core o.gid
          else s.setStage op .issued
        else s)

/-! ### The side log (R134, R135) -/

/-- The first side-logged entry of each group on a core: a group's entries replay in the order in which they entered the log
(R135). -/
def State.sideHeads (s : State) (core : Nat) : List MemOp :=
  let l := s.ops.filter (fun o => o.core == core && o.stage == .sideLogged)
  l.filter (fun o => l.all (fun p => p.gid != o.gid || p.seq ≥ o.seq))

/-- What a side-logged entry can do now. -/
inductive Replay where
  | done (s : State)
  | fault (gva : Nat) (f : WalkFail)
  | wait
  deriving Repr

def State.replayEntry (s : State) (o : MemOp) : Replay :=
  match s.groups.get o.gid, accForm o.instr with
  | some g, some a =>
    if !s.onCore g then .wait
    else if (olderThan o.id s.ops).any (fun p => p.gid == o.gid && p.stage != .sideLogged &&
        lanesOverlap g.who p.lanes (opBytes p) o.lanes a.bytes) then .wait
    else if (match s.opWho o with
        | some w => State.windowWaits { s with ops := olderThan o.id s.ops } w a o.lanes
        | none => false) then .wait
    else
      match s.performOp g o a fadd32 with
      | .done s1 _ => .done ((s1.dropOp o.id).opDone o.core o.gid)
      | .blocked gva f =>
        if f = .inFlight ∨ s.mgmt.traps.any (fun r => samePage r g.ctx gva) then .wait else .fault gva f
      | .poisoned _ _ => .wait
  | _, _ => .wait

/-- The first entry that goes on: performed, or its fault reported anew after a resolution (R448). -/
def State.replayFirst (s : State) : List MemOp → Option State
  | [] => none
  | o :: t =>
    match s.replayEntry o with
    | .done s1 => some s1
    | .fault gva f =>
      match s.opWho o, f with
      | some w, .malformed1 _ => some (s.raiseLogged o w 0x17 (BitVec.ofNat 64 gva))
      | some w, _ => if s.mgmt.traps.length < 504 then some (s.reportFault w gva f false) else State.replayFirst s t
      | none, _ => some (s.dropOp o.id)
    | .wait => State.replayFirst s t

/-- SIDE_LOG_REPLAY (R134, R135). -/
def execSideLogReplay (core : Nat) (s : State) : Host.Outcome State Fault Refusal :=
  .next ((s.replayFirst (s.sideHeads core)).getD s)

/-! ### Time limits of L1 lines (R229, R237) -/

/-- 64 µs in cycles (R6). -/
def limit64 : Nat := 115200

/-- A dirty line has stood for 64 µs. -/
def L1Line.stale (l : L1Line) (now : W64) : Bool := l.isDirty && limit64 ≤ (now - l.written).toNat

/-- A copy of another die's line was filled 64 µs ago. -/
def State.expired (s : State) (core : Nat) (l : L1Line) : Bool :=
  s.homeDie l.ctx l.line != coreDie core && limit64 ≤ (s.clock - l.filled).toNat

def State.l1At (s : State) (core line : Nat) : Option L1Line := (s.cores.get core).bind (fun c => c.copy? line)

/-- L1_WRITEBACK_TIMEOUT (R229, R237). -/
def execL1WritebackTimeout (core line : Nat) (s : State) : Host.Outcome State Fault Refusal :=
  .next (match s.l1At core line with
    | some l => if l.stale s.clock then s.writeBack core line else s
    | none => s)

/-- L1_CLEAN_COPY_EXPIRY (R237): dirty bytes of the line are written back first (R229). -/
def execL1CleanCopyExpiry (core line : Nat) (s : State) : Host.Outcome State Fault Refusal :=
  .next (match s.l1At core line with
    | some l => if s.expired core l then s.evictCopy core line else s
    | none => s)

end Sys2Proof.Machine
end

