-- ==== Sys2Proof/Machine/NarrowFp.lean ====
section
/-! DEFINITION. Conversions between the number formats, and the narrow operations on values alone (spec/20 R365-R370;
spec/17 R332, R333, R335). -/

namespace Sys2Proof.Machine

open Sys2Proof

/-- The format of a floating-point code, the element of a block format included; none for integers. -/
def floatOf : NumFmt → Option FloatFmt
  | .f32 => some fp32
  | .bf16 => some bf16
  | .f16 => some fp16
  | .e4m3 => some e4m3
  | .e5m2 => some e5m2
  | .bs8e => some e4m3
  | .i8 => none
  | .i32 => none
  | .t2 => none
  | .bs8i => none

/-- An exact integer value. -/
def FVal.ofInt (x : Int) : FVal := .fin (decide (x < 0)) x.natAbs 0

/-- A T2 code: 01 is +1, 11 is −1, 00 and 10 are 0 (R365). -/
def t2Int (x : Nat) : Int := if x % 4 = 1 then 1 else if x % 4 = 3 then -1 else 0

def t2Bad (x : Nat) : FlagSet := if x % 4 = 2 then flagTBAD else 0

/-- The value of an element in a format, from the low bits of x; a T2 code 10 sets TBAD (R333, R365). -/
def readFmt (f : NumFmt) (x : Nat) : FVal × FlagSet :=
  match floatOf f with
  | some ff => (ff.read x, 0)
  | none =>
    match f with
    | .i32 => (.ofInt (BitVec.ofNat 32 x).toInt, 0)
    | .t2 => (.ofInt (t2Int x), t2Bad x)
    | _ => (.ofInt (BitVec.ofNat 8 x).toInt, 0)

/-- A value times a power of two. -/
def FVal.scale (v : FVal) (k : Int) : FVal :=
  match v with
  | .fin s m e => .fin s m (e + k)
  | x => x

/-- A value in a float format (R332, R367, R368). -/
def toFloat (f : FloatFmt) (mode : RMode) (clamp : Bool) : FVal → Nat × FlagSet
  | .nan neg sig => (if f.infBits.isNone then f.signed neg f.nanBits else f.nanBits, if sig then flagNV else 0)
  | .inf neg =>
    match f.infBits with
    | some b => (f.signed neg b, 0)
    | none => (f.signed neg f.nanBits, flagNV)
  | .fin neg m e => if m = 0 then (f.signed neg 0, 0) else f.write mode false clamp neg m e

/-- A value as an integer between bounds (R367). -/
def toIntRange (mode : RMode) (lo hi : Int) : FVal → Int × FlagSet
  | .nan _ _ => (0, flagNV)
  | .inf neg => (if neg then lo else hi, flagNV)
  | .fin neg m e =>
    let r := roundAt mode neg m e 0
    let x : Int := if neg then -(r.1 : Int) else r.1
    (clampInt lo hi x, (if x < lo ∨ hi < x then flagSAT else 0) ||| (if r.2 then flagNX else 0))

/-- The T2 code of an integer (R367). -/
def t2Code (x : Int) : W32 := if x = 1 then 1 else if x = -1 then 3 else 0

/-- A value in a destination format, as VCVT writes it: narrow results zero-extended, but INT8 sign-extended (R333, R367). -/
def writeFmt (f : NumFmt) (mode : RMode) (clamp : Bool) (v : FVal) : W32 × FlagSet :=
  match floatOf f with
  | some ff => let r := toFloat ff mode clamp v; (BitVec.ofNat 32 r.1, r.2)
  | none =>
    match f with
    | .i32 => let r := toIntRange mode (-(2 ^ 31)) (2 ^ 31 - 1) v; (BitVec.ofInt 32 r.1, r.2)
    | .t2 => let r := toIntRange mode (-1) 1 v; (t2Code r.1, r.2)
    | .i8 => let r := toIntRange mode (-128) 127 v; (BitVec.ofInt 32 r.1, r.2)
    | _ => let r := toIntRange mode (-128) 127 v; ((BitVec.ofInt 8 r.1).setWidth 32, r.2)

/-- VCVT (R333): the scale byte of a block-scaled side is B[7:0]; one of 255 on the source side gives the value of the
canonical NaN in the destination's format, and no flag (R366; log 134). -/
def convert (src dst : NumFmt) (mode : RMode) (clamp : Bool) (a b : W32) : W32 × FlagSet :=
  let s := b.toNat % 256
  let r := readFmt src a.toNat
  if src.isBlock then
    if s = 255 then ((writeFmt dst mode clamp (.nan false false)).1, 0)
    else writeFmt dst mode clamp (r.1.scale ((s : Int) - 127))
  else if dst.isBlock then
    if s = 255 then
      (match dst with | .bs8e => if r.1.neg? then 0xFF else 0x7F | _ => 0, r.2 ||| flagNV)
    else
      let o := writeFmt dst mode clamp (r.1.scale (127 - (s : Int)))
      (o.1, r.2 ||| o.2)
  else
    let o := writeFmt dst mode clamp r.1
    (o.1, r.2 ||| o.2)

/-- The element format and field width of VPACK and VUNPK (R333). -/
def packFmt : PackFn → NumFmt × Nat
  | .bf16 => (.bf16, 16)
  | .f16 => (.f16, 16)
  | .e4m3 => (.e4m3, 8)
  | .e5m2 => (.e5m2, 8)
  | .i8 => (.i8, 8)
  | .t2 => (.t2, 2)

/-- The first bit of the field that B selects. -/
def fieldAt (fn : PackFn) (b : W32) : Nat :=
  let w := (packFmt fn).2
  w * (b.toNat % (min (32 / w) 16))

/-- VPACK (R333): `old` is D before. -/
def packField (fn : PackFn) (mode : RMode) (clamp : Bool) (old a b : W32) : W32 × FlagSet :=
  let w := (packFmt fn).2
  let r : W32 × FlagSet :=
    match fn with
    | .t2 =>
      let x := a.toInt
      (if 0 < x then 1 else if x < 0 then 3 else 0, if x < -1 ∨ 1 < x then flagSAT else 0)
    | .i8 => writeFmt .i8 mode clamp (.ofInt a.toInt)
    | _ => writeFmt (packFmt fn).1 mode clamp (fp32.read a.toNat)
  let ones : W32 := BitVec.ofNat 32 (2 ^ w - 1)
  ((old &&& ~~~(ones <<< (fieldAt fn b))) ||| ((r.1 &&& ones) <<< (fieldAt fn b)), r.2)

/-- VUNPK (R333). -/
def unpackField (fn : PackFn) (mode : RMode) (a b : W32) : W32 × FlagSet :=
  let x := (a.toNat >>> (fieldAt fn b)) % 2 ^ (packFmt fn).2
  match fn with
  | .i8 => ((BitVec.ofNat 8 x).signExtend 32, 0)
  | .t2 => (BitVec.ofInt 32 (t2Int x), t2Bad x)
  | _ => writeFmt .f32 mode false (readFmt (packFmt fn).1 x).1

/-- The exact sum of values that are no NaN, with the sign of an exact zero; none for inf − inf. -/
def sumVals (mode : RMode) (l : List FVal) : Option FVal :=
  let infs := l.filter (fun v => match v with | .inf _ => true | _ => false)
  match infs with
  | i :: t => if t.all (fun j => j.neg? == i.neg?) then some i else none
  | [] =>
    let x : Exact :=
      l.foldl (fun (a : Exact) v => match v with | .fin s m e => a.add (Exact.ofFin s m e) | _ => a) ⟨0, 0⟩
    if x.n = 0 then
      let allZero := l.all (fun v => match v with | .fin _ m _ => m == 0 | _ => false)
      let sameNeg := l.all FVal.neg?
      let samePos := l.all (fun v => !v.neg?)
      some (.fin (if allZero && sameNeg then true else if allZero && samePos then false else decide (mode = .rdn)) 0 0)
    else some (.fin (decide (x.n < 0)) x.n.natAbs x.e)

/-- Σ a × b + c in a float format, one rounding (R333). -/
def dotFloat (f : FloatFmt) (mode : RMode) (clamp : Bool) (ab : List (FVal × FVal)) (c : FVal) : Nat × FlagSet :=
  let all := c :: ab.flatMap (fun p => [p.1, p.2])
  let sig := if all.any FVal.isSig then flagNV else 0
  let prods := ab.map (fun p => if p.1.isNan || p.2.isNan then some (FVal.nan false false) else mulVal p.1 p.2)
  let bad := prods.any Option.isNone
  if all.any FVal.isNan || bad then
    -- a product or sum that is invalid beside a NaN still raises invalid (R111)
    (f.nanBits, if bad then flagNV else sig)
  else
    match sumVals mode (prods.filterMap id ++ [c]) with
    | none => (f.nanBits, flagNV)
    | some v => let r := toFloat f mode clamp v; (r.1, r.2 ||| sig)

/-- VHFMA (R333): two 16-bit fields. -/
def halfFma (fn : HalfFn) (mode : RMode) (clamp : Bool) (a b c : W32) : W32 × FlagSet :=
  let f := match fn with | .bf16 => bf16 | .f16 => fp16
  let one (i : Nat) : Nat × FlagSet :=
    let p (x : W32) : FVal := f.read ((x.toNat >>> (16 * i)) % 2 ^ 16)
    dotFloat f mode clamp [(p a, p b)] (p c)
  (BitVec.ofNat 32 ((one 0).1 + (one 1).1 * 2 ^ 16), (one 0).2 ||| (one 1).2)

/-- An INT32 result, saturated (R333). -/
def satInt32 (x : Int) : W32 × FlagSet :=
  (BitVec.ofInt 32 (clampInt (-(2 ^ 31)) (2 ^ 31 - 1) x), if x < -(2 ^ 31) ∨ 2 ^ 31 - 1 < x then flagSAT else 0)

/-- The byte i of a lane value as INT8. -/
def int8At (x : W32) (i : Nat) : Int := (BitVec.ofNat 8 (x.toNat >>> (8 * i))).toInt

/-- VDOT4 (R333). -/
def dot4 (fn : Dot4Fn) (mode : RMode) (clamp : Bool) (a b c : W32) : W32 × FlagSet :=
  let fl (f : FloatFmt) : W32 × FlagSet :=
    let r := dotFloat fp32 mode clamp
      ((range4).map (fun i => (f.read ((a.toNat >>> (8 * i)) % 256), f.read ((b.toNat >>> (8 * i)) % 256))))
      (fp32.read c.toNat)
    (BitVec.ofNat 32 r.1, r.2)
  match fn with
  | .e4m3 => fl e4m3
  | .e5m2 => fl e5m2
  | .i8 => satInt32 (range4.foldl (fun t i => t + int8At a i * int8At b i) c.toInt)
  | .t2 =>
    let code (i : Nat) : Nat := (a.toNat >>> (2 * i)) % 4
    let r := satInt32 (range4.foldl (fun t i => t + t2Int (code i) * int8At b i) c.toInt)
    (r.1, r.2 ||| range4.foldl (fun t i => t ||| t2Bad (code i)) 0)
where
  range4 : List Nat := [0, 1, 2, 3]

/-- VTSEL (R333). -/
def t2Select (a b c : W32) : W32 × FlagSet :=
  (match a.toNat % 4 with
   | 1 => b
   | 3 => c
   | _ => 0, t2Bad a.toNat)

end Sys2Proof.Machine
end

