-- ==== Sys2Proof/Machine/Matrix.lean ====
section
/-! DEFINITION. The matrix forms: their checks and acceptance, and what each does when its half executes it (spec/17
R320-R331, R334, R335; spec/20 R360-R370). -/

namespace Sys2Proof.Machine

open Sys2Proof

/-! ### Formats of a step (R322) -/

/-- The depth of a step and the bytes of one row of each operand. -/
structure StepShape where
  k : Nat
  aBytes : Nat
  bBytes : Nat
  deriving DecidableEq, Repr

def fmtA (fmt : W32) : Option NumFmt := NumFmt.ofCode (fmtAF fmt)
def fmtB (fmt : W32) : Option NumFmt := NumFmt.ofCode (fmtBF fmt)

/-- The row of R322's table that AF, BF and CF form, by the codes of R365. -/
def stepShape (fmt : W32) : Option StepShape :=
  let a := fmtAF fmt
  let b := fmtBF fmt
  if fmtCF fmt then
    if a = 5 ∧ b = 5 then some ⟨64, 64, 64⟩
    else if a = 7 ∧ b = 5 then some ⟨128, 32, 128⟩
    else none
  else if a = b ∧ (a = 1 ∨ a = 2) then some ⟨32, 64, 64⟩
  else if (a = 3 ∨ a = 4) ∧ (b = 3 ∨ b = 4) then some ⟨64, 64, 64⟩
  else if a = b ∧ (a = 8 ∨ a = 9) then some ⟨64, 66, 66⟩
  else none

/-- Element k of an operand row (R322, R365, R366). -/
def rowElem (f : NumFmt) (b : List Byte) (k : Nat) : FVal × FlagSet :=
  match f with
  | .bf16 | .f16 => readFmt f (bytesNat ((b.drop (2 * k)).take 2))
  | .t2 => readFmt .t2 ((b.getD (k / 4) 0).toNat >>> (2 * (k % 4)))
  | .bs8e | .bs8i =>
    let s := (b.getD (64 + k / 32) 0).toNat
    if s = 255 then (.nan false false, 0) else (((readFmt f (b.getD k 0).toNat).1).scale ((s : Int) - 127), 0)
  | _ => readFmt f (b.getD k 0).toNat

def rowElems (f : NumFmt) (n : Nat) (b : List Byte) : List (FVal × FlagSet) := (List.range n).map (rowElem f b)

/-! ### One step (R324, R364) -/

/-- The exact sum of an accumulator and products; none where it is invalid. -/
def stepSum (acc : FVal) (ra rb : List (FVal × FlagSet)) : Option FVal :=
  match allSome ((ra.zip rb).map (fun p => mulVal p.1.1 p.2.1)) with
  | none => none
  | some l => if acc.isNan then none else sumVals .rne (acc :: l)

/-- One element after a step, with INV, OVF or SAT. -/
def stepElem (cf : Bool) (acc : W32) (ra rb : List (FVal × FlagSet)) : W32 × FlagSet :=
  match stepSum (readFmt (if cf then .i32 else .f32) acc.toNat).1 ra rb with
  | none => (nan32, flagNV)
  | some v =>
    if cf then
      let r := toIntRange .rne (-(2 ^ 31)) (2 ^ 31 - 1) v
      (BitVec.ofInt 32 r.1, r.2 &&& flagSAT)
    else
      let r := toFloat fp32 .rne false v
      (BitVec.ofNat 32 r.1, r.2 &&& flagOF)

abbrev Tile : Type := List (List W32)

def Tile.at_ (t : Tile) (i j : Nat) : W32 := (t.getD i []).getD j 0

def tileOf (f : Nat → Nat → W32) : Tile := (List.range 32).map (fun i => (List.range 32).map (f i))

/-- Flags over the elements of rows and columns 0 to n − 1. -/
def flagsOver (n : Nat) (f : Nat → Nat → FlagSet) : FlagSet :=
  (List.range n).foldl (fun a i => (List.range n).foldl (fun a j => a ||| f i j) a) 0

/-- A tile after one step of shape n, on rows 0 to n − 1 of each operand; a row never loaded is zero (R321, R324). -/
def stepTile (fmt : W32) (n : Nat) (t : Tile) (ar br : List (List Byte)) : Tile × FlagSet :=
  match stepShape fmt, fmtA fmt, fmtB fmt with
  | some sh, some fa, some fb =>
    let a := (List.range n).map (fun i => rowElems fa sh.k (ar.getD i []))
    let b := (List.range n).map (fun j => rowElems fb sh.k (br.getD j []))
    let e (i j : Nat) : W32 × FlagSet := stepElem (fmtCF fmt) (Tile.at_ t i j) (a.getD i []) (b.getD j [])
    let bad := (a.any (fun r => r.any (fun x => x.2 != 0)))
    (tileOf (fun i j => if i < n ∧ j < n then (e i j).1 else Tile.at_ t i j),
     flagsOver n (fun i j => (e i j).2) ||| (if bad then flagTBAD else 0))
  | _, _, _ => (t, 0)

/-! ### Epilogues (R326) -/

/-- A value clamped in magnitude by a finite FP32 bound. -/
def clampVal (bound : W32) (v : FVal) : FVal :=
  match v, fp32.read bound.toNat with
  | .inf s, .fin _ m e => .fin s m e
  | .fin s n f, .fin _ m e =>
    let x := Exact.ofFin false n f
    let y := Exact.ofFin false m e
    if (y.add (Exact.ofFin true n f)).n < 0 then .fin s m e else .fin s x.n.natAbs f
  | v, _ => v

/-- floor of a positive finite FP32 value, saturated to 2^31 − 1. -/
def floorInt (x : W32) : Int := (toIntRange .rtz 0 (2 ^ 31 - 1) (fp32.read x.toNat)).1

/-- An FP32 value as INT32, to nearest even, saturated (R326). -/
def nearInt (x : W32) : Int × FlagSet :=
  let r := toIntRange .rne (-(2 ^ 31)) (2 ^ 31 - 1) (fp32.read x.toNat)
  (r.1, r.2 &&& flagSAT)

def epiFloat (fn : MxepiFn) (scale bias clamp : W32) (x : W32) : W32 × FlagSet :=
  let v := fp32.read x.toNat
  match fn with
  | .id => (x, if v.isNan then flagNV else 0)
  | .relu =>
    if v.isNan then (nan32, flagNV)
    else (match v with
      | .fin false m _ => if m = 0 then 0 else x
      | .inf false => x
      | _ => 0, 0)
  | .sb =>
    let r := (fmaF32 .rne false x scale bias).1
    (r, if (fp32.read r.toNat).isNan then flagNV else 0)
  | .clamp =>
    if v.isNan then (nan32, flagNV) else (BitVec.ofNat 32 (toFloat fp32 .rne false (clampVal clamp v)).1, 0)

def epiInt (fn : MxepiFn) (mode : RMode) (scale bias clamp : W32) (x : W32) : W32 × FlagSet :=
  match fn with
  | .id => (BitVec.ofNat 32 (toFloat fp32 mode false (.ofInt x.toInt)).1, 0)
  | .relu => (if 0 < x.toInt then x else 0, 0)
  | .sb =>
    let s := nearInt scale
    let b := nearInt bias
    let r := satInt32 (x.toInt * s.1 + b.1)
    (r.1, r.2 ||| s.2 ||| b.2)
  | .clamp => (BitVec.ofInt 32 (clampInt (-(floorInt clamp)) (floorInt clamp) x.toInt), 0)

/-- MXEPI on a whole tile; `bias` by column. -/
def epiTile (fn : MxepiFn) (fmt scale clamp : W32) (bias : List W32) (t : Tile) : Tile × FlagSet :=
  let e (i j : Nat) : W32 × FlagSet :=
    if fmtCF fmt then epiInt fn (rmodeOf (fmtRM fmt)) scale (bias.getD j 0) clamp (Tile.at_ t i j)
    else epiFloat fn scale (bias.getD j 0) clamp (Tile.at_ t i j)
  (tileOf (fun i j => (e i j).1), flagsOver 32 (fun i j => (e i j).2))

/-! ### Conversion on the way out (R369) -/

def fmtBits : NumFmt → Nat
  | .f32 => 32
  | .bf16 => 16
  | .f16 => 16
  | .e4m3 => 8
  | .e5m2 => 8
  | .i8 => 8
  | .i32 => 32
  | .t2 => 2
  | .bs8e => 8
  | .bs8i => 8

/-- One element of MXST .cvt: clamped, converted, and bounded by B; INV for a NaN. -/
def cvtOut (f : NumFmt) (mode : RMode) (clamp : W32) (v : FVal) : Nat × FlagSet :=
  if v.isNan then ((writeFmt f mode false v).1.toNat % 2 ^ fmtBits f, flagNV)
  else
    let c := clampVal clamp v
    match floatOf f with
    | some ff =>
      let y := (toFloat ff mode false c).1
      let b := (toFloat ff .rtz false (fp32.read clamp.toNat)).1
      (if b < y % 2 ^ (ff.width - 1) then ff.signed c.neg? b else y, 0)
    | none =>
      match f with
      | .t2 => ((writeFmt .t2 mode false c).1.toNat % 4, 0)
      | _ =>
        let b := min (floorInt clamp) 127
        ((BitVec.ofInt 8 (clampInt (-b) b (toIntRange mode (-(2 ^ 31)) (2 ^ 31 - 1) c).1)).toNat, 0)

/-- Elements packed at a width, the first in the lowest bits. -/
def packBits (w : Nat) : List Nat → Nat
  | [] => 0
  | x :: t => x % 2 ^ w + 2 ^ w * packBits w t

def packedBytes (w n : Nat) : Nat := (n * w + 7) / 8

/-! ### Block scales (R335, R370) -/

/-- The greatest magnitude of a block: NaN over infinity over finite values. -/
inductive BlockMax where
  | nan | inf | fin (x : Exact)
  deriving DecidableEq, Repr

def blockMax (l : List W32) : BlockMax :=
  l.foldl (fun a w =>
    match a, fp32.read w.toNat with
    | .nan, _ => .nan
    | _, .nan _ _ => .nan
    | .inf, _ => .inf
    | _, .inf _ => .inf
    | .fin x, .fin _ m e =>
      if (x.add (Exact.ofFin true m e)).n < 0 then .fin (Exact.ofFin false m e) else .fin x) (.fin ⟨0, 0⟩)

def blockTop : BsFn → Int
  | .bs8e => 448
  | .bs8i => 127

/-- The scale byte of a block (R335): the least power of two at which the greatest magnitude fits. -/
def blockScale (fn : BsFn) (l : List W32) : Nat :=
  match blockMax l with
  | .nan => 127
  | .inf => 254
  | .fin x =>
    if x.n = 0 then 127
    else
      let fits (k : Nat) : Bool := decide (0 ≤ ((Exact.mk (blockTop fn) ((k : Int) - 127)).add ⟨-x.n, x.e⟩).n)
      ((List.range 255).find? fits).getD 254

/-- One element of a block as QCVT writes it. -/
def blockElem (fn : BsFn) (s : Nat) (w : W32) : Byte :=
  let v := (fp32.read w.toNat).scale (127 - (s : Int))
  match fn with
  | .bs8e =>
    match v with
    | .inf neg => BitVec.ofNat 8 (e4m3.signed neg e4m3.maxBits)
    | v => BitVec.ofNat 8 (toFloat e4m3 .rne true v).1
  | .bs8i => BitVec.ofInt 8 (toIntRange .rne (-127) 127 v).1

/-- Blocks of 32. -/
def blocksOf : Nat → List W32 → List (List W32)
  | 0, _ => []
  | n + 1, l => l.take 32 :: blocksOf n (l.drop 32)

/-- One row as QCVT writes it: elements, then scale bytes. -/
def qcvtRow (fn : BsFn) (l : List W32) : List Byte :=
  let bs := blocksOf (l.length / 32) l
  bs.flatMap (fun b => b.map (blockElem fn (blockScale fn b))) ++ bs.map (fun b => BitVec.ofNat 8 (blockScale fn b))

/-! ### Acceptance (R320, R323, R325, R330) -/

/-- What a form is accepted with. -/
structure MxPlan where
  fail : Option (Nat × Option W64)
  mem : Bool
  a : W64
  b : W64
  c : W64
  clamp : W32
  recFmt : Nat
  deriving DecidableEq, Repr

def MxPlan.plain : MxPlan := ⟨none, false, 0, 0, 0, 0, 0⟩

/-- The span of n rows: lowest byte and length (R323). -/
def rowsSpan (addr stride : W64) (n width : Nat) : W64 × Nat :=
  envelope ((List.range n).map (fun r => addr + BitVec.ofNat 64 r * stride)) width

/-- The check of a span of rows (R249, R323). -/
def State.rowsFail (s : State) (w : Who) (addr stride : W64) (n width : Nat) (write : Bool) : Option (Nat × Option W64) :=
  let e := rowsSpan addr stride n width
  lowerCause (toCause (s.engineCheck w.gid w.g e.1 e.2 write))
    (if addr.toNat % 4 ≠ 0 ∨ stride.toNat % 4 ≠ 0 then some (0x10, some addr) else none)

def tileNo (x : Args) : Nat := immField x.imm 0 2
def shapeRows (bit : Nat) : Nat := if bit = 0 then 32 else 16

/-- The tensor parameter record of the form: CLAMP and FMT, read once the group's own stores have been performed (R64, R241,
R323). -/
def State.tensorRecord (s : State) (w : Who) (i : Instr) : Except Stop (W32 × Nat) :=
  if w.g.trtab = 0 then .error (.cause 0x15 none)
  else
    let a := w.g.trtab + BitVec.ofNat 64 (64 * fmtTREC w.f.fmt)
    match s.engineCheck w.gid w.g a 64 false with
    | some (c, tv) => .error (.cause c (some tv))
    | none =>
      if !s.settled w.gid then .error (.wait .fence s)
      else
      match s.engineLocs w.gid w.g a 64 .load with
      | .error (gva, f) => s.hold w i gva f
          |>.bind (fun _ => .error (.cause 0x15 none))
      | .ok l =>
        let b := l.map (s.cleanTeam w.g.core w.gid).homeByte
        let f := bytesNat ((b.drop 24).take 1)
        let clamp := bytesNat ((b.drop 28).take 4)
        if f < 10 && ((b.drop 26).take 2).all (· == 0) && ((b.drop 32).take 32).all (· == 0) &&
            decide (0 < clamp ∧ clamp < 0x7F800000) then .ok (BitVec.ofNat 32 clamp, f)
        else .error (.cause 0x15 none)

/-- A matrix form is accepted into its group's queue (R320). -/
def State.acceptMx (s : State) (w : Who) (i : Instr) (p : MxPlan) : Except Stop State :=
  match p.fail with
  | some (c, tv) => .error (.cause c tv)
  | none =>
    if p.mem && !s.settled w.gid then .error (.wait .fence s)
    else if !w.g.eng.room .mx then .error (.wait (.engine .mx) s)
    else
      let s1 := if p.mem then s.cleanTeam w.g.core w.gid else s
      let op : MxOp := ⟨s1.nextId, i, w.f.fmt, p.clamp, p.recFmt, p.a, p.b, p.c, none⟩
      let s2 := s1.updGroup w.gid (fun g =>
        let e := g.eng.begin_ .mx
        { g with eng := { e with matrix := { e.matrix with queue := e.matrix.queue ++ [op] } } })
      .ok (State.advance { s2 with nextId := s2.nextId + 1 } w)

/-- The frame of every matrix form that enters the queue. -/
def mxForm (s : State) (i : Instr) (plan : Who → Except Stop MxPlan) : Host.Outcome State Fault Refusal :=
  engineForm s (fun w =>
    match plan w with
    | .error e => .error e
    | .ok p => s.acceptMx w i p)

/-- The strides and advances of MXLOOP (R325). -/
def loopField (c : W64) (k : Nat) : Nat := c.toNat / 2 ^ (16 * k) % 2 ^ 16

/-- MXLOOP (R325, R326). Of a format, record or FN check and a span check that both fail, the former comes first, here as in the other
matrix forms (DESIGN CHOICE, log 170). -/
def execMxloop (x : Args) (s : State) : Host.Outcome State Fault Refusal :=
  mxForm s (.mxloop x) (fun w =>
    match stepShape w.f.fmt with
    | none => .error (.cause 0x15 none)
    | some sh =>
      let a := s.srcS w x.imm x.a
      let b := s.srcS w x.imm x.b
      let c := s.srcS w x.imm x.c
      let n := shapeRows (immField x.imm 18 1)
      let cnt := immField x.imm 0 16
      let span (base : W64) (stride adv bytes : Nat) : Option (Nat × Option W64) :=
        lowerCause (toCause (s.engineCheck w.gid w.g base ((cnt - 1) * adv + (n - 1) * stride + bytes) false))
          (if base.toNat % 4 ≠ 0 ∨ stride % 4 ≠ 0 then some (0x10, some base) else none)
      .ok { MxPlan.plain with
            fail := lowerCause (span a (loopField c 0) (loopField c 2) sh.aBytes)
              (span b (loopField c 1) (loopField c 3) sh.bBytes),
            mem := true, a := a, b := b, c := c })

/-- MXSTEP (R325, R326). -/
def execMxstep (x : Args) (s : State) : Host.Outcome State Fault Refusal :=
  mxForm s (.mxstep x) (fun w =>
    match stepShape w.f.fmt with
    | none => .error (.cause 0x15 none)
    | some _ => .ok MxPlan.plain)

/-- MXZERO (R326). -/
def execMxzero (fn : MxzeroFn) (x : Args) (s : State) : Host.Outcome State Fault Refusal :=
  mxForm s (.mxzero fn x) (fun _ => .ok MxPlan.plain)

/-- A row stride in B[31:0], signed. -/
def State.strideOf (s : State) (w : Who) (x : Args) : W64 := ((s.srcS w x.imm x.b).setWidth 32).signExtend 64

/-- The bytes of one row of MXLD. -/
def mxldBytes (fn : MxldFn) (sh : Option StepShape) (n : Nat) : Option Nat :=
  match fn, sh with
  | .acc, _ => some (4 * n)
  | .a, some sh => some sh.aBytes
  | .b, some sh => some sh.bBytes
  | _, none => none

/-- MXLD (R325, R326). -/
def execMxld (fn : MxldFn) (x : Args) (s : State) : Host.Outcome State Fault Refusal :=
  mxForm s (.mxld fn x) (fun w =>
    let n := shapeRows (immField x.imm 2 1)
    match mxldBytes fn (stepShape w.f.fmt) n with
    | none => .error (.cause 0x15 none)
    | some width =>
      let a := s.srcS w x.imm x.a
      .ok { MxPlan.plain with fail := s.rowsFail w a (s.strideOf w x) n width false, mem := true, a := a,
                              b := s.strideOf w x })

/-- The formats that MXST .cvt writes (R326). -/
def cvtFmt (n : Nat) : Option NumFmt :=
  match NumFmt.ofCode n with
  | some .bs8e => none
  | some .bs8i => none
  | some .i32 => none
  | f => f

/-- MXST (R325, R326, R369). -/
def execMxst (fn : MxstFn) (x : Args) (s : State) : Host.Outcome State Fault Refusal :=
  mxForm s (.mxst fn x) (fun w =>
    let n := shapeRows (immField x.imm 2 1)
    let a := s.srcS w x.imm x.a
    let st := s.strideOf w x
    match fn with
    | .f32 => .ok { MxPlan.plain with fail := s.rowsFail w a st n (4 * n) true, mem := true, a := a, b := st }
    | .cvt =>
      match s.tensorRecord w (.mxst fn x) with
      | .error e => .error e
      | .ok (clamp, f) =>
        match cvtFmt f with
        | none => .error (.cause 0x15 none)
        | some ff =>
          .ok { fail := s.rowsFail w a st n (packedBytes (fmtBits ff) n) true, mem := true, a := a, b := st, c := 0,
                clamp := clamp, recFmt := f })

/-- The tiles that a form reads or writes. -/
def mxTiles (i : Instr) : List Nat :=
  match i with
  | .mxloop x => [immField x.imm 16 2]
  | .mxstep x => [tileNo x]
  | .mxzero .one x => [tileNo x]
  | .mxzero .all _ => [0, 1, 2, 3]
  | .mxld .acc x => [tileNo x]
  | .mxst _ x => [tileNo x]
  | .mxepi _ x => [tileNo x]
  | _ => []

def isLoop (i : Instr) : Bool := match i with | .mxloop _ => true | _ => false

/-- An older accepted form of another group that runs on the half names one of these tiles, and is no MXLOOP that has begun
(R321). -/
def State.tileBefore (s : State) (gid half : Nat) (op : MxOp) : Bool :=
  s.groups.any (fun e => e.1 != gid && s.onCore e.2 && halfNo e.2.core == half &&
    e.2.eng.matrix.queue.any (fun o => decide (o.id < op.id) && (mxTiles o.instr).any (mxTiles op.instr).contains &&
      !(isLoop o.instr && e.2.eng.matrix.run && (e.2.eng.matrix.queue.head?.map (·.id)) == some o.id)))

/-- An MXLOOP of the group is executing: it has begun, or stands at the head with nothing before it on its tile (R328). -/
def State.looping (s : State) (gid : Nat) (g : Group) : Bool :=
  match g.eng.matrix.queue with
  | o :: _ => isLoop o.instr && (g.eng.matrix.run || !s.tileBefore gid (halfNo g.core) o)
  | [] => false

/-- MXPROG as CTLR and MXPROG .rd read it (R328); `run` is RUN. -/
def MxState.prog (m : MxState) (run : Bool) : W64 :=
  BitVec.ofNat 64 (m.step % 2 ^ 16 + (if run then 2 ^ 16 else 0) + (if m.sat then 2 ^ 20 else 0) +
    (if m.inv then 2 ^ 21 else 0) + (if m.ovf then 2 ^ 22 else 0) + (if m.tbad then 2 ^ 23 else 0))

/-- MXPROG .rd (R328, R330). -/
def execMxprogRd (x : Args) (s : State) : Host.Outcome State Fault Refusal :=
  run s (fun w =>
    let sh : Shape := ⟨x.cm, x.d, x.imm, [], 0⟩
    match s.pre w sh with
    | .error e => .error e
    | .ok () => .ok ((s.putScalar w sh (w.g.eng.matrix.prog (s.looping w.gid w.g))).advance w))

/-- MXPROG .wr (R328). -/
def execMxprogWr (x : Args) (s : State) : Host.Outcome State Fault Refusal :=
  mxForm s (.mxprogWr x) (fun w => .ok { MxPlan.plain with a := s.srcS w x.imm x.a })

/-- MXEPI (R325, R326). -/
def execMxepi (fn : MxepiFn) (x : Args) (s : State) : Host.Outcome State Fault Refusal :=
  mxForm s (.mxepi fn x) (fun w =>
    match fn with
    | .sb =>
      let b := s.srcS w x.imm x.b
      .ok { MxPlan.plain with fail := s.rowsFail w b 0 1 128 false, mem := true, a := s.srcS w x.imm x.a, b := b }
    | .clamp =>
      match s.tensorRecord w (.mxepi fn x) with
      | .error e => .error e
      | .ok (clamp, f) => .ok { MxPlan.plain with mem := true, clamp := clamp, recFmt := f }
    | _ => .ok MxPlan.plain)

/-- A staged tile: format, rows and blocks per row. -/
structure Staged where
  fn : BsFn
  rows : Nat
  blocks : Nat
  deriving DecidableEq, Repr

def qscaleShape (fn : BsFn) (x : Args) : Staged := ⟨fn, immField x.imm 0 7, immField x.imm 8 4⟩

/-- The tile that the group holds once its accepted forms have run (R334, R335). -/
def State.stagedFor (s : State) (gid : Nat) (g : Group) : Option Staged :=
  let now := match (s.halves.get (halfNo g.core)).bind (·.staging) with
    | some (k, fn, rows) => if k = gid then some ⟨fn, rows.length, (rows.headD []).length / 32⟩ else none
    | none => none
  g.eng.matrix.queue.foldl (fun a o =>
    match o.instr with
    | .qscale fn x => some (qscaleShape fn x)
    | .qcvt _ _ => none
    | _ => a) now

/-- QSCALE (R334). -/
def execQscale (fn : BsFn) (x : Args) (s : State) : Host.Outcome State Fault Refusal :=
  mxForm s (.qscale fn x) (fun w =>
    let q := qscaleShape fn x
    match s.stagedFor w.gid w.g with
    | some h => if h.fn ≠ fn then .error (.cause 0x15 none) else plan w q
    | none => plan w q)
where
  plan (w : Who) (q : Staged) : Except Stop MxPlan :=
    let a := s.srcS w x.imm x.a
    .ok { MxPlan.plain with fail := s.rowsFail w a (s.strideOf w x) q.rows (128 * q.blocks) false, mem := true, a := a,
                            b := s.strideOf w x }

/-- QCVT (R334). -/
def execQcvt (fn : BsFn) (x : Args) (s : State) : Host.Outcome State Fault Refusal :=
  mxForm s (.qcvt fn x) (fun w =>
    match s.stagedFor w.gid w.g with
    | none => .error (.cause 0x15 none)
    | some h =>
      if h.fn ≠ fn then .error (.cause 0x15 none)
      else
        let a := s.srcS w x.imm x.a
        .ok { MxPlan.plain with fail := s.rowsFail w a (s.strideOf w x) h.rows (33 * h.blocks) true, mem := true, a := a,
                                b := s.strideOf w x })

/-! ### Execution (R320, R321, R326-R328) -/

/-- The stream entries that an MXSTEP takes (R327). -/
def streamNeed (fmt : W32) (i : Instr) : Nat :=
  match i, stepShape fmt with
  | .mxstep x, some sh =>
    if immField x.imm 5 1 = 1 then (shapeRows (immField x.imm 2 1) * sh.aBytes + 127) / 128 else 0
  | _, _ => 0

/-- The form at the head waits for stream entries, for the staging buffer, or for an older form on its tile. -/
def State.mxWaits (s : State) (gid : Nat) (g : Group) (op : MxOp) : Bool :=
  s.tileBefore gid (halfNo g.core) op || g.eng.matrix.stream.length < streamNeed op.fmt op.instr ||
    (match op.instr with
     | .qscale _ _ =>
       (match (s.halves.get (halfNo g.core)).bind (·.staging) with | some (k, _, _) => k != gid | none => false)
     | _ => false)

/-- The places of n rows. -/
def State.rowLocs (s : State) (gid : Nat) (g : Group) (addr stride : W64) (width : Nat) :
    Nat → Except (Nat × WalkFail) (List (List Loc))
  | 0 => .ok []
  | n + 1 =>
    match s.engineLocs gid g addr width .load with
    | .error e => .error e
    | .ok l =>
      match State.rowLocs s gid g (addr + stride) stride width n with
      | .error e => .error e
      | .ok t => .ok (l :: t)

/-- Rows read at their point of coherence. -/
def State.rowsAt (s : State) (l : List (List Loc)) : List (List Byte) := l.map (fun r => r.map s.homeByte)

/-- The rows come through the slices of their home die (R376). -/
def State.l2Rows (s : State) (g : Group) (l : List (List Loc)) : State :=
  (s.touch noCore l.flatten).l2Lines g.ctx false (linesOf l.flatten)

/-- Bytes to n rows, as moves. -/
def State.rowMoves (s : State) (gid : Nat) (g : Group) (addr stride : W64) :
    List (List Byte) → Except (Nat × WalkFail) (List Moving)
  | [] => .ok []
  | b :: t =>
    match s.engineLocs gid g addr b.length .store with
    | .error e => .error e
    | .ok d =>
      match State.rowMoves s gid g (addr + stride) stride t with
      | .error e => .error e
      | .ok r =>
        .ok ((wordParts b.length addr.toNat b.length).map (fun p =>
          { src := .bytes ((b.drop (p.1 - addr.toNat)).take p.2) false, dst := (d.drop (p.1 - addr.toNat)).take p.2 }) ++ r)

def State.tile (s : State) (g : Group) (t : Nat) : Tile :=
  match s.halves.get (halfNo g.core) with
  | some h => h.tiles.getD t []
  | none => []

def State.setTile (s : State) (g : Group) (t : Nat) (x : Tile) : State :=
  s.updHalf (halfNo g.core) (fun h => { h with tiles := setAt [] h.tiles t x })

def MxState.raise (m : MxState) (fl : FlagSet) : MxState :=
  { m with tbad := m.tbad || fl &&& flagTBAD != 0, ovf := m.ovf || fl &&& flagOF != 0,
           inv := m.inv || fl &&& flagNV != 0, sat := m.sat || fl &&& flagSAT != 0 }

def State.updMx (s : State) (gid : Nat) (f : MxState → MxState) : State :=
  s.updGroup gid (fun g => { g with eng := { g.eng with matrix := f g.eng.matrix } })

/-- A tile written with the flags of the form. -/
def State.writeTile (s : State) (gid : Nat) (g : Group) (t : Nat) (r : Tile × FlagSet) : State :=
  (s.setTile g t r.1).updMx gid (fun m => m.raise r.2)

/-- Rows of the operand stream's bytes. -/
def streamRows (l : List Row) (n width : Nat) : List (List Byte) :=
  let b := l.flatMap (fun r => r.flatMap (fun x => natBytes 4 x.toNat))
  (List.range n).map (fun r => (b.drop (width * r)).take width)

/-- Slot rows 0 to n − 1 replaced (R321): a row loaded narrower than a later step reads it holds zero beyond its width (DESIGN CHOICE,
log 169). -/
def loadSlot (slots : List (List (List Byte))) (k : Nat) (rows : List (List Byte)) : List (List (List Byte)) :=
  let old := slots.getD k []
  setAt [] slots k (rows ++ old.drop rows.length)

/-- What one event of the half does for the form at a group's head. -/
inductive MxDone where
  | blocked (gva : Nat) (f : WalkFail)
  | more (s : State)                    -- one step of an MXLOOP that has steps left
  | done (s : State)
  deriving Repr

/-- A completed step counts (R362); its cycles follow timing that the model leaves out. -/
def State.countStep (s : State) (g : Group) : State :=
  s.updHalf (halfNo g.core) (fun h => { h with steps := h.steps + 1 })

/-- The half's cycle counters move by amounts that the model leaves open (R362). -/
def State.countCycles (s : State) (g : Group) : State :=
  let s1 := s.updHalf (halfNo g.core) (fun h =>
    { h with busy := h.busy + Config.freeWord s.free, wait := h.wait + Config.freeWord (s.free + 1) })
  { s1 with free := s.free + 2 }

/-- One step of an MXLOOP, or its end (R326, R328). -/
def State.runLoop (s : State) (gid : Nat) (g : Group) (op : MxOp) (x : Args) : MxDone :=
  let m := g.eng.matrix
  let fin (s : State) : State := s.updMx gid (fun m => { m with step := 0, run := false })
  if immField x.imm 0 16 ≤ m.step then .done (fin s)
  else
    match stepShape op.fmt with
    | none => .done (fin s)
    | some sh =>
      let n := shapeRows (immField x.imm 18 1)
      let at_ (base : W64) (k : Nat) : W64 := base + BitVec.ofNat 64 (m.step * loopField op.c k)
      match s.rowLocs gid g (at_ op.a 2) (BitVec.ofNat 64 (loopField op.c 0)) sh.aBytes n with
      | .error (a, f) => .blocked a f
      | .ok ar =>
        match s.rowLocs gid g (at_ op.b 3) (BitVec.ofNat 64 (loopField op.c 1)) sh.bBytes n with
        | .error (a, f) => .blocked a f
        | .ok br =>
          let t := immField x.imm 16 2
          let s1 := (((s.l2Rows g ar).l2Rows g br).writeTile gid g t (stepTile op.fmt n (s.tile g t) (s.rowsAt ar) (s.rowsAt br))).countStep g
          if m.step + 1 < immField x.imm 0 16 then
            .more (s1.updMx gid (fun m => { m with step := m.step + 1, run := true }))
          else .done (fin s1)

/-- MXSTEP (R326, R327). -/
def State.runStep (s : State) (gid : Nat) (g : Group) (op : MxOp) (x : Args) : State :=
  match stepShape op.fmt with
  | none => s
  | some sh =>
    let n := shapeRows (immField x.imm 2 1)
    let m := g.eng.matrix
    let need := streamNeed op.fmt op.instr
    let ar := if need = 0 then m.aSlots.getD (immField x.imm 3 1) [] else streamRows m.stream n sh.aBytes
    let br := m.bSlots.getD (immField x.imm 4 1) []
    let s1 := s.updMx gid (fun m => { m with stream := m.stream.drop need })
    (s1.writeTile gid g (tileNo x) (stepTile op.fmt n (s.tile g (tileNo x)) ar br)).countStep g

/-- MXST's rows (R326, R369). -/
def State.storeRows (s : State) (g : Group) (op : MxOp) (fn : MxstFn) (x : Args) : List (List Byte) × FlagSet :=
  let n := shapeRows (immField x.imm 2 1)
  let t := s.tile g (tileNo x)
  match fn with
  | .f32 => ((List.range n).map (fun i => (List.range n).flatMap (fun j => natBytes 4 (Tile.at_ t i j).toNat)), 0)
  | .cvt =>
    match cvtFmt op.recFmt with
    | none => ([], 0)
    | some f =>
      let e (i j : Nat) : Nat × FlagSet :=
        cvtOut f (rmodeOf (fmtRM op.fmt)) op.clamp
          (readFmt (if fmtCF op.fmt then .i32 else .f32) (Tile.at_ t i j).toNat).1
      ((List.range n).map (fun i =>
        natBytes (packedBytes (fmtBits f) n) (packBits (fmtBits f) ((List.range n).map (fun j => (e i j).1)))),
       flagsOver n (fun i j => (e i j).2))

/-- Words of a row of bytes. -/
def wordsOf : List Byte → List W32
  | a :: b :: c :: d :: t => BitVec.ofNat 32 (bytesNat [a, b, c, d]) :: wordsOf t
  | _ => []

/-- The rows of memory that the form at the head of a queue reads or writes next: address and bytes (R325, R326, R334). -/
def State.mxRows (s : State) (g : Group) (op : MxOp) : List (W64 × Nat) :=
  let rows (base stride : W64) (n width : Nat) : List (W64 × Nat) :=
    (List.range n).map (fun i => (base + BitVec.ofNat 64 i * stride, width))
  match op.instr with
  | .mxloop x =>
    match stepShape op.fmt with
    | none => []
    | some sh =>
      let n := shapeRows (immField x.imm 18 1)
      let step (base : W64) (k : Nat) : W64 := base + BitVec.ofNat 64 (g.eng.matrix.step * loopField op.c k)
      rows (step op.a 2) (BitVec.ofNat 64 (loopField op.c 0)) n sh.aBytes ++
        rows (step op.b 3) (BitVec.ofNat 64 (loopField op.c 1)) n sh.bBytes
  | .mxld fn x =>
    let n := shapeRows (immField x.imm 2 1)
    rows op.a op.b n ((mxldBytes fn (stepShape op.fmt) n).getD 0)
  | .mxst .f32 x => rows op.a op.b (shapeRows (immField x.imm 2 1)) (4 * shapeRows (immField x.imm 2 1))
  | .mxst .cvt x =>
    let n := shapeRows (immField x.imm 2 1)
    rows op.a op.b n (((cvtFmt op.recFmt).map (fun f => packedBytes (fmtBits f) n)).getD 0)
  | .mxepi .sb _ => [(op.b, 128)]
  | .qscale fn x => rows op.a op.b (qscaleShape fn x).rows (128 * (qscaleShape fn x).blocks)
  | .qcvt _ _ =>
    match (s.halves.get (halfNo g.core)).bind (·.staging) with
    | some (_, _, l) => rows op.a op.b l.length (33 * ((l.headD []).length / 32))
    | none => []
  | _ => []

/-- Their pages are known to the tiers (R383). -/
def State.noteMx (s : State) (g : Group) (op : MxOp) : State :=
  (s.mxRows g op).foldl (fun s r => s.noteEngine g r.1 r.2) s

/-- The form at the head of a group's queue is executed. -/
def State.runMx (s : State) (gid : Nat) (g : Group) (op : MxOp) : MxDone :=
  match op.instr with
  | .mxloop x => s.runLoop gid g op x
  | .mxstep x => .done (s.runStep gid g op x)
  | .mxzero .one x => .done (s.setTile g (tileNo x) [])
  | .mxzero .all _ => .done (s.updHalf (halfNo g.core) (fun h => { h with tiles := [] }))
  | .mxld fn x =>
    let n := shapeRows (immField x.imm 2 1)
    match s.rowLocs gid g op.a op.b ((mxldBytes fn (stepShape op.fmt) n).getD 0) n with
    | .error (a, f) => .blocked a f
    | .ok l =>
      let rows := s.rowsAt l
      let s := s.l2Rows g l
      let k := immField x.imm 0 1
      match fn with
      | .a => .done (s.updMx gid (fun m => { m with aSlots := loadSlot m.aSlots k rows }))
      | .b => .done (s.updMx gid (fun m => { m with bSlots := loadSlot m.bSlots k rows }))
      | .acc =>
        let t := s.tile g (tileNo x)
        let new := rows.map wordsOf
        .done (s.setTile g (tileNo x)
          (tileOf (fun i j => if i < n ∧ j < n then (new.getD i []).getD j 0 else Tile.at_ t i j)))
  | .mxst fn x =>
    let r := s.storeRows g op fn x
    match s.rowMoves gid g op.a op.b r.1 with
    | .error (a, f) => .blocked a f
    | .ok m => .done ((s.moveAll gid g m).updMx gid (fun q => q.raise r.2))
  | .mxprogWr _ =>
    .done (s.updMx gid (fun m =>
      { m with step := op.a.toNat % 2 ^ 16, sat := op.a.getLsbD 20, inv := op.a.getLsbD 21, ovf := op.a.getLsbD 22,
               tbad := op.a.getLsbD 23 }))
  | .mxepi fn x =>
    match fn with
    | .sb =>
      match s.rowLocs gid g op.b 0 128 1 with
      | .error (a, f) => .blocked a f
      | .ok l =>
        let rows := s.rowsAt l
        .done ((s.l2Rows g l).writeTile gid g (tileNo x)
          (epiTile .sb op.fmt (op.a.setWidth 32) 0 (wordsOf (rows.headD [])) (s.tile g (tileNo x))))
    | fn => .done (s.writeTile gid g (tileNo x) (epiTile fn op.fmt 0 op.clamp [] (s.tile g (tileNo x))))
  | .qscale fn x =>
    let q := qscaleShape fn x
    match s.rowLocs gid g op.a op.b (128 * q.blocks) q.rows with
    | .error (a, f) => .blocked a f
    | .ok l =>
      .done ((s.l2Rows g l).updHalf (halfNo g.core) (fun h =>
        { h with staging := some (gid, fn, (s.rowsAt l).map wordsOf) }))
  | .qcvt fn _ =>
    match (s.halves.get (halfNo g.core)).bind (·.staging) with
    | none => .done s
    | some (k, _, rows) =>
      -- the buffer of another group, where this group's own QSCALE was refused (R250, R335)
      if k ≠ gid then .done s
      else
      match s.rowMoves gid g op.a op.b (rows.map (qcvtRow fn)) with
      | .error (a, f) => .blocked a f
      | .ok m => .done ((s.moveAll gid g m).updHalf (halfNo g.core) (fun h => { h with staging := none }))
  | _ => .done s

end Sys2Proof.Machine
end

