-- ==== Sys2Proof/Machine/Ring.lean ====
section
/-! DEFINITION. Byte rings: the control block, records and headers, and the two forms that push and pop them, each served
whole by the ring unit (spec/12 R263-R266). -/

namespace Sys2Proof.Machine

open Sys2Proof

/-- A control block as it is read (R263). -/
structure Ring where
  base : Nat
  size : Nat
  tail : Nat
  head : Nat
  done : Nat
  ready : Nat
  deriving DecidableEq, Repr

def State.ringBlock (s : State) (l : List Loc) : Ring :=
  ⟨s.homeNat l 0 8, s.homeNat l 8 8, s.homeNat l 16 8, s.homeNat l 24 8, s.homeNat l 32 8, s.homeNat l 40 8⟩

/-- A power of two from 4,096 to 2^40. -/
def ringSize (n : Nat) : Bool := (range 12 29).any (fun k => n == 2 ^ k)

/-- The block keeps the form of R263: base, size, and counters in their order. -/
def Ring.ok (r : Ring) : Bool :=
  r.base % 4096 == 0 && ringSize r.size &&
    [r.tail, r.head, r.done, r.ready].all (fun x => x % 8 == 0) &&
    r.done ≤ r.head && r.head ≤ r.ready && r.ready ≤ r.tail && r.tail ≤ r.done + r.size

/-- The bytes of a record with this payload (R264). -/
def recordBytes (len : Nat) : Nat := 8 * ((4 + len + 7) / 8)

/-- A header (R264). -/
def headerOf (skip : Bool) (tag len : Nat) : Nat := 2 ^ 31 + (if skip then 2 ^ 30 else 0) + tag % 64 * 2 ^ 24 + len

def headerRdy (h : Nat) : Bool := h / 2 ^ 31 % 2 == 1
def headerSkip (h : Nat) : Bool := h / 2 ^ 30 % 2 == 1
def headerLen (h : Nat) : Nat := h % 2 ^ 24

/-- The ring bytes of the record with this header. -/
def headerBytes (h : Nat) : Nat := if headerSkip h then headerLen h + 4 else recordBytes (headerLen h)

/-- A ring with the places of its block and its bytes. -/
structure RingAt where
  ctl : List Loc
  r : Ring
  bytes : List Loc                  -- from BASE, SIZE bytes
  deriving DecidableEq, Repr

/-- n ring bytes from a counter value. -/
def RingAt.at_ (x : RingAt) (pos n : Nat) : List Loc := (x.bytes.drop (pos % x.r.size)).take n

def State.headerAt (s : State) (x : RingAt) (pos : Nat) : Nat := bytesNat ((x.at_ pos 4).map s.homeByte)

/-- A write of the ring unit, at the point of coherence. -/
def State.ringPut (s : State) (w : Who) (own : Bool) (l : List Loc) (b : List Byte) : State :=
  s.writeHome w.g.core w.g.ctx w.gid own l b

/-- One 64-bit field of the block written. -/
def State.ringField (s : State) (w : Who) (x : RingAt) (off v : Nat) : State :=
  s.ringPut w false ((x.ctl.drop off).take 8) (natBytes 8 v)

/-- Records that are ready from `pos` on: READY goes over them (R265). -/
def State.readyTo (s : State) (x : RingAt) (tail : Nat) : Nat → Nat → Nat
  | 0, pos => pos
  | k + 1, pos =>
    if tail ≤ pos then pos
    else
      let h := s.headerAt x pos
      if headerRdy h then State.readyTo s x tail k (pos + headerBytes h) else pos

/-- Headers from `pos` up to `stop` zeroed, in ring order (R266). -/
def State.zeroHeaders (s : State) (w : Who) (x : RingAt) (stop : Nat) : Nat → Nat → State
  | 0, _ => s
  | k + 1, pos =>
    if stop ≤ pos then s
    else State.zeroHeaders (s.ringPut w false (x.at_ pos 4) [0, 0, 0, 0]) w x stop k (pos + headerBytes (s.headerAt x pos))

/-! ### Requests in order of arrival -/

def ringKey (l : List Loc) : Nat := (recordKey l).2

/-- An older request of the same side waits at the ring. -/
def State.olderRing (s : State) (w : Who) (push : Bool) (key : Nat) : Bool :=
  match s.rings.filter (fun r => r.push == push && r.ctl == key) with
  | [] => false
  | r :: _ => !(r.gid == w.gid && r.fid == w.fid)

/-- The request joins those that wait, once, with its operands. -/
def State.joinRing (s : State) (r : RingWait) : State :=
  if s.rings.any (fun q => q.gid == r.gid && q.fid == r.fid) then s else { s with rings := s.rings ++ [r] }

/-- The request is served: it leaves its queue, and every request of the ring is looked at again. -/
def State.ringServed (s : State) (w : Who) (key : Nat) : State :=
  let left := s.rings.filter (fun r => !(r.gid == w.gid && r.fid == w.fid))
  (left.filter (fun r => r.ctl == key)).foldl (fun s r => s.push (.ringWaitWake r.gid r.fid)) { s with rings := left }

/-! ### Checks -/

/-- R249 on the block, and its alignment and window. -/
def State.ringCtlFail (s : State) (w : Who) (ctl : W64) : Option (Nat × Option W64) :=
  lowerCause (toCause (s.engineCheck w.gid w.g ctl 64 true))
    (if ctl.toNat % 64 ≠ 0 ∨ apertureOf ctl ≠ .global then some (0x25, none) else none)

/-- The block and the ring, translated and checked; a missing translation holds as a load does (R250). -/
def State.openRing (s : State) (w : Who) (i : Instr) (ctl : W64) : Except Stop RingAt :=
  match s.engineLocs w.gid w.g ctl 64 .store with
  | .error (a, f) =>
    match s.hold w i a f with
    | .error e => .error e
    | .ok _ => .error (.wait .ring s)
  | .ok l =>
    let r := s.ringBlock l
    if !r.ok then .error (.cause 0x25 none)
    else
      match firstFail [s.engineCheck w.gid w.g (BitVec.ofNat 64 r.base) r.size true,
          regionFail (s.launchOf w.g.task) (BitVec.ofNat 64 r.base) r.size true] with
      | some (c, a) => .error (.cause c (some a))
      | none =>
        match s.engineLocs w.gid w.g (BitVec.ofNat 64 r.base) r.size .store with
        | .error (a, f) =>
          match s.hold w i a f with
          | .error e => .error e
          | .ok _ => .error (.wait .ring s)
        | .ok b => .ok ⟨l, r, b⟩

/-- The block as the ring unit reads it at its point of coherence, ahead of its own writes. -/
def State.freshBlock (s : State) (w : Who) (ctl : W64) : State :=
  match s.engineLocs w.gid w.g ctl 64 .store with
  | .ok l =>
    let r := s.ringBlock l
    ((s.noteEngine w.g ctl 64).noteEngine w.g (BitVec.ofNat 64 r.base) (min r.size (2 ^ 40))).prepareHome w.g.core w.g.ctx true
      (linesOf l)
  | .error _ => s

/-! ### RPUSH (R265) -/

/-- The bytes that a copy writes from poisoned bytes (R459). -/
def badTargets (s : State) (src dst : List Loc) : List Loc :=
  ((src.zip dst).filter (fun p => isPoisoned s.mem.poison p.1)).map (·.2)

/-- The unit's writes for one record, from its space to READY, in one step (DESIGN CHOICE, log 130). -/
def State.pushRecord (s : State) (w : Who) (x : RingAt) (pad len tag : Nat) (src : List Loc) : State :=
  let total := recordBytes len
  let s1 := if pad = 0 then s
    else s.ringPut w false (x.at_ x.r.tail 4) (natBytes 4 (headerOf true 0 (pad - 4)))
  let start := x.r.tail + pad
  let s2 := s1.ringField w x 16 (start + total)
  let body := (src.map s2.homeByte) ++ List.replicate (total - 4 - len) 0
  let s3 := s2.ringPut w false (x.at_ (start + 4) (total - 4)) body
  let s4 := s3.poisonFrom w.g.ctx ((badTargets s2 src (x.at_ (start + 4) len)))
  let s5 := s4.ringPut w false (x.at_ start 4) (natBytes 4 (headerOf false tag len))
  s5.ringField w x 40 (s5.readyTo x (start + total) (x.r.size / 8) x.r.ready)

def State.putOne (s : State) (w : Who) (x : Args) (v : W64) : State := s.putScalar w ⟨x.cm, x.d, x.imm, [], 0⟩ v

/-- RPUSH once its request has passed R249. -/
def State.ringPush (s : State) (w : Who) (fn : NbFn) (x : Args) (ctl src : W64) (len : Nat) : Except Stop State :=
  match s.openRing w (.rpush fn x) ctl with
  | .error e => .error e
  | .ok r =>
    if 2 ^ 24 - 1 < len ∨ r.r.size / 2 < recordBytes len then .error (.cause 0x25 none)
    else
      match s.engineLocs w.gid w.g src len .load with
      | .error (a, f) => s.hold w (.rpush fn x) a f
      | .ok l =>
        let total := recordBytes len
        let left := r.r.size - r.r.tail % r.r.size
        let pad := if left < total then left else 0
        if r.r.done + r.r.size < r.r.tail + pad + total || s.olderRing w true (ringKey r.ctl) then
          match fn with
          | .nb => .ok (((s.putOne w x 0xFFFFFFFFFFFFFFFF).spoil w).advance w)
          | .blocking => .error (.wait .ring ((s.disarm w).joinRing ⟨true, ringKey r.ctl, w.gid, w.fid, x, ctl, src, len⟩))
        else
          let s1 := (s.cleanTeam w.g.core w.gid).pushRecord w r pad len (immField x.imm 0 6) l
          .ok ((((s1.putOne w x (BitVec.ofNat 64 (r.r.tail + pad))).spoil w).ringServed w (ringKey r.ctl)).advance w)

/-- RPUSH (R249, R250, R252, R265): of the causes that its request gives, the lowest (DEDUCED, log 152). -/
def execRpush (fn : NbFn) (x : Args) (s : State) : Host.Outcome State Fault Refusal :=
  engineForm s (fun w =>
    let ctl := s.srcS w x.imm x.a
    let src := s.srcS w x.imm x.b
    let len := (s.srcS w x.imm x.c).toNat
    let sh : Shape := ⟨x.cm, x.d, x.imm, [], 0⟩
    let fail := lowerCause (s.ringCtlFail w ctl) (lowerCause (toCause (s.engineCheck w.gid w.g src len false))
      (if 2 ^ 24 - 1 < len then some (0x25, none) else none))
    match s.pre w sh, fail with
    | .error e, _ => .error e
    | .ok (), some (c, tv) => .error (.cause c tv)
    | .ok (), none =>
      if !s.settled w.gid then .error (.wait .fence s) else (s.freshBlock w ctl).ringPush w fn x ctl src len)

/-! ### RPOP (R266) -/

/-- Skip records at the head are passed over; the counter after them. -/
def State.passSkips (s : State) (x : RingAt) : Nat → Nat → Nat
  | 0, pos => pos
  | k + 1, pos =>
    if x.r.tail ≤ pos ∨ x.r.ready ≤ pos then pos
    else if headerSkip (s.headerAt x pos) then State.passSkips s x k (pos + headerBytes (s.headerAt x pos)) else pos

/-- The unit's writes for one record popped. -/
def State.popRingRecord (s : State) (w : Who) (x : RingAt) (pos len : Nat) (dst : List Loc) : State :=
  let stop := pos + recordBytes len
  let s1 := s.ringField w x 24 stop
  let from_ := x.at_ (pos + 4) len
  let s2 := s1.ringPut w true dst (from_.map s1.homeByte)
  let s3 := s2.poisonFrom w.g.ctx (badTargets s1 from_ dst)
  (s3.zeroHeaders w x stop (x.r.size / 8) x.r.done).ringField w x 32 stop

/-- RPOP with its ring open. -/
def State.ringPop (s : State) (w : Who) (fn : NbFn) (x : Args) (ctl dst : W64) (cap : Nat) : Except Stop State :=
  match s.openRing w (.rpop fn x) ctl with
  | .error e => .error e
  | .ok r =>
    let key := ringKey r.ctl
    let older := s.olderRing w false key
    let pos := if older then r.r.head else s.passSkips r (r.r.size / 8) r.r.head
    if older ∨ r.r.tail ≤ pos ∨ r.r.ready ≤ pos then
      let s1 := if pos = r.r.head then s else s.ringField w r 24 pos
      match fn with
      | .nb => .ok (((s1.putOne w x 0).spoil w).advance w)
      | .blocking => .error (.wait .ring ((s1.disarm w).joinRing ⟨false, key, w.gid, w.fid, x, ctl, dst, cap⟩))
    else
      let h := s.headerAt r pos
      let len := headerLen h
      let s := s.l2Lines w.g.ctx false (linesOf (r.at_ pos (recordBytes len)))   -- header and payload pass their slices (R376)
      if cap < len then .error (.cause 0x25 (some (BitVec.ofNat 64 h)))
      else
        match s.engineLocs w.gid w.g dst len .store with
        | .error (a, f) => s.hold w (.rpop fn x) a f
        | .ok d =>
          let s1 := ((s.noteEngine w.g dst len).popRingRecord w r pos len d).acquire w.g .device
          .ok ((((s1.putOne w x (BitVec.ofNat 64 h)).spoil w).ringServed w key).advance w)

/-- An RPOP comes behind what the operand log holds of its group, and behind a side-logged entry that its destination overlaps; no
other side-logged entry holds it back (R135, R228). -/
def State.popWaits (s : State) (w : Who) (dst : W64) (cap : Nat) : Bool :=
  s.ops.any (fun o => o.gid == w.gid &&
    (o.stage != .sideLogged || lanesOverlap w.g.who o.lanes (opBytes o) [⟨0, dst, [], 0⟩] cap))

/-- RPOP (R249, R250, R252, R266): its destination is checked as it names it, from dst over cap bytes (log 133). -/
def execRpop (fn : NbFn) (x : Args) (s : State) : Host.Outcome State Fault Refusal :=
  engineForm s (fun w =>
    let ctl := s.srcS w x.imm x.a
    let sh : Shape := ⟨x.cm, x.d, x.imm, [], 0⟩
    let fail := lowerCause (s.ringCtlFail w ctl)
      (toCause (s.engineCheck w.gid w.g (s.srcS w x.imm x.b) (s.srcS w x.imm x.c).toNat true))
    match s.pre w sh, fail with
    | .error e, _ => .error e
    | .ok (), some (c, tv) => .error (.cause c tv)
    | .ok (), none =>
      let dst := s.srcS w x.imm x.b
      let cap := (s.srcS w x.imm x.c).toNat
      if s.popWaits w dst cap then .error (.wait .hold s) else (s.freshBlock w ctl).ringPop w fn x ctl dst cap)

/-- A waiting request evaluated again, with the operands of its arrival (R265, R266). -/
def State.retryRing (s : State) (w : Who) (r : RingWait) : Except Stop State :=
  let s1 := s.freshBlock w r.block
  if r.push then s1.ringPush w .blocking r.x r.block r.buf r.len else s1.ringPop w .blocking r.x r.block r.buf r.len

/-- The request with which a fragment waits at the ring unit. -/
def State.ringOf (s : State) (w : Who) : Option RingWait :=
  if w.f.status == .waiting .ring then s.rings.find? (fun r => r.gid == w.gid && r.fid == w.fid) else none

/-- The waiting request would go on now. -/
def State.ringGoes (s : State) (w : Who) : Bool :=
  match (s.ringOf w).map (s.retryRing w) with
  | some (.error (.wait .ring _)) => false
  | some _ => true
  | none => false

end Sys2Proof.Machine
end

