-- ==== Sys2Proof/Machine/Done.lean ====
section
/-! DEFINITION. The events by which the engines complete what a group started, or stop on a refused mapping (spec/11 R241-R245;
spec/12 R250-R266; spec/17 R320, R326). -/

namespace Sys2Proof.Machine

open Sys2Proof

/-! ### Counters and owed causes (R199, R250) -/

/-- A cause owed to the instruction that waits for operation number n of a class; causes of a class stand in start order. -/
def Engines.owe (e : Engines) (cls : WaitcFn) (n code : Nat) (tval : Option W64) : Engines :=
  let later (o : WaitcFn × Nat × Nat × Option W64) : Bool := o.1 == cls && decide (n < o.2.1)
  { e with owed := e.owed.filter (fun o => !later o) ++ [(cls, n, code, tval)] ++ e.owed.filter later }

/-- The oldest outstanding operation of a class ends; a cause is owed to the instruction that waits for it. -/
def Engines.endWith (e : Engines) (cls : WaitcFn) (code : Nat) (tval : Option W64) : Engines :=
  (e.finish cls).owe cls (e.started cls - e.count cls) code tval

/-- One operation of a group is complete. -/
def State.endOne (s : State) (gid : Nat) (cls : WaitcFn) : State :=
  (s.updGroup gid (fun g => { g with eng := g.eng.finish cls })).engineMoved gid

/-- One operation of a group has stopped with a cause owed. -/
def State.endOwing (s : State) (gid : Nat) (cls : WaitcFn) (code : Nat) (tval : Option W64) : State :=
  (s.updGroup gid (fun g => { g with eng := g.eng.endWith cls code tval })).engineMoved gid

/-- An operation of class .coll is done, with the cause that it leaves owed (R199, R250). -/
def State.endColl (s : State) (gid op : Nat) (why : Option (Nat × Option W64)) : State :=
  (s.updGroup gid (fun g =>
    { g with eng := (match why with
        | some (code, tval) => g.eng.owe .coll (g.eng.collPlace op) code tval
        | none => g.eng).doneColl op })).engineMoved gid

/-! ### Copies (R243, R254, R257) -/

/-- What the copies of a group come to in one pass: words to move, and for each copy what becomes of it. -/
structure CopyPass where
  moves : List Moving
  done : List Nat
  held : List (Nat × Nat × WalkFail)
  refused : List (Nat × Nat × W64)
  deriving Repr

/-- A copy that the pass looks at. -/
def State.copyLive (s : State) (g : Group) (c : CopyOp) : Bool := !c.done && c.refused.isNone && !s.stillHeld g c.held

def State.copyPass (s : State) (gid : Nat) (g : Group) : List CopyOp → CopyPass
  | [] => ⟨[], [], [], []⟩
  | c :: t =>
    let p := State.copyPass s gid g t
    if s.copyLive g c then
      match s.copyMoves gid g c with
      | .ok m => { p with moves := m ++ p.moves, done := c.id :: p.done }
      | .error (a, f) =>
        match malformedAt a f with
        | some (code, tv) => { p with refused := (c.id, code, tv) :: p.refused }
        | none => { p with held := (c.id, a, f) :: p.held }
    else p

/-- A copy after a pass. -/
def CopyPass.mark (p : CopyPass) (c : CopyOp) : CopyOp :=
  if p.done.contains c.id then { c with done := true, held := none }
  else
    match p.refused.find? (fun r => r.1 == c.id), p.held.find? (fun h => h.1 == c.id) with
    | some r, _ => { c with refused := some r.2, held := none }
    | none, some h => { c with held := some (BitVec.ofNat 64 h.2.1) }
    | none, none => c

/-- Copies marked; a closed batch whose copies are all done is complete. -/
def Engines.markCopies (e : Engines) (f : CopyOp → CopyOp) : Engines :=
  { e with
    openBatch := e.openBatch.map f,
    closed := (e.closed.map (fun b => (b.1, b.2.map f))).filter (fun b => !batchDone b.2) }

/-- The copies of one batch of a group; 65,536 names the open batch. -/
def Engines.batch (e : Engines) (n : Nat) : List CopyOp :=
  if n = 65536 then e.openBatch else ((e.closed.find? (fun b => b.1.toNat == n)).map (·.2)).getD []

/-- The engines of a saved team stand still, but for collectives (R251). -/
def State.enginesRun (s : State) (g : Group) : Bool := s.onCore g

/-- COPY_BATCH_COMPLETE (R243, R250, R254, R257). -/
def execCopyBatchComplete (g batch : Nat) (s : State) : Host.Outcome State Fault Refusal :=
  .next (match s.groups.get g with
    | none => s
    | some x =>
      if s.enginesRun x then
        let s := (x.eng.batch batch).foldl (fun s c => s.noteCopy x c) s
        let p := s.copyPass g x (x.eng.batch batch)
        let s1 := s.moveAll g x p.moves
        let s2 := s1.updGroup g (fun x => { x with eng := x.eng.markCopies p.mark })
        (p.held.foldl (fun s h => s.reportEngine g h.2.1 h.2.2) s2).engineMoved g
      else s)

/-! ### Gathers, scatters and sends (R256, R259) -/

/-- The head of a queue meets a missing mapping: it holds, or stops with its cause owed (R250). -/
def State.headBlocked (s : State) (gid : Nat) (cls : WaitcFn) (a : Nat) (f : WalkFail) (hold : Engines → Engines)
    (drop : Engines → Engines) : State :=
  match malformedAt a f with
  | some (code, tv) => (s.updGroup gid (fun g => { g with eng := drop g.eng })).endOwing gid cls code (some tv)
  | none => (s.updGroup gid (fun g => { g with eng := hold g.eng })).reportEngine gid a f

/-- GATHER_COMPLETE (R256). -/
def execGatherComplete (g : Nat) (s : State) : Host.Outcome State Fault Refusal :=
  .next (match s.groups.get g with
    | none => s
    | some x =>
      match x.eng.gathers with
      | [] => s
      | o :: t =>
        if !s.enginesRun x || s.stillHeld x o.held then s
        else
          let s := s.noteSpans x o.spans
          match s.spansMoves g x o.spans with
          | .error (a, f) =>
            s.headBlocked g .gth a f (fun e => { e with gathers := { o with held := some (BitVec.ofNat 64 a) } :: t })
              (fun e => { e with gathers := t })
          | .ok m => ((s.moveAll g x m).updGroup g (fun x => { x with eng := { x.eng with gathers := t } })).endOne g .gth)

/-- NETWORK_ENTRY_PERFORMED (R259). -/
def execNetworkEntryPerformed (g : Nat) (s : State) : Host.Outcome State Fault Refusal :=
  .next (match s.groups.get g with
    | none => s
    | some x =>
      match x.eng.sends with
      | [] => s
      | o :: t =>
        if !s.enginesRun x || s.stillHeld x o.held then s
        else
          let s := s.noteEngine x o.addr 128
          match s.entryMoves g x o.addr o.row with
          | .error (a, f) =>
            s.headBlocked g .net a f (fun e => { e with sends := { o with held := some (BitVec.ofNat 64 a) } :: t })
              (fun e => { e with sends := t })
          | .ok m => ((s.moveAll g x m).updGroup g (fun x => { x with eng := { x.eng with sends := t } })).endOne g .net)

/-! ### Reductions (R258) -/

/-- One lane over the entries of a generation: OP 0 to 3. -/
def redLane (op : Nat) (l : List W32) : W32 :=
  match l with
  | [] => 0
  | x :: t =>
    if op = 1 then (canonNan (t.foldl fadd32 x)).1
    else if op = 2 then t.foldl (minMax .max) x
    else if op = 3 then t.foldl (minMax .min) x
    else t.foldl (· + ·) x

/-- The combined row; the order of an FP32 sum is open (R258). -/
def State.redRow (s : State) (r : RedGen) : Row :=
  let rows := if r.op = 1 then s.freeOrder (r.rows.map (·.2.2)) else r.rows.map (·.2.2)
  rowOf (fun l => redLane r.op (rows.map (fun x => x.getD l 0)))

/-- The row written at DEST as one engine write. -/
def State.writeRed (s : State) (cluster : Nat) (r : RedGen) : State :=
  let gid := (r.rows.headD (0, 0, [])).1
  let locs := (range r.dest 128).map (Loc.sram cluster r.task)
  let g := s.groups.get gid
  let s1 := s.writeHome ((g.map (·.core)).getD (8 * cluster)) ((g.map (·.ctx)).getD 0) gid false locs
    ((s.redRow r).flatMap (fun x => natBytes 4 x.toNat))
  if r.op = 1 then { s1 with free := s1.free + r.rows.length } else s1

/-- Contributions that came with their groups join generations of the cluster as far as these take them, oldest first (R258). -/
def State.joinWaiting (s : State) (cluster : Nat) : List RedEntry → State
  | [] => s
  | e :: t =>
    match s.clusters.get cluster with
    | none => s
    | some c =>
      if redFits c.reds e.task e.dest then
        let l := joinEntry c.reds e
        let s1 := s.updCluster cluster (fun c => { c with reds := l, redWait := c.redWait.erase e })
        State.joinWaiting (if redFull l e.task e.dest then s1.push (.reductionGenerationComplete cluster e.task e.dest) else s1)
          cluster t
      else State.joinWaiting s cluster t

/-- A generation of the cluster has closed: contributions that wait for one join, and what the results of its groups owe is offered
again (R35, R258). -/
def State.offerCluster (s0 : State) (cluster : Nat) : State :=
  let s := s0.joinWaiting cluster (((s0.clusters.get cluster).map (·.redWait)).getD [])
  (s.groups.filter (fun e => clusterNo e.2.core == cluster && !e.2.owing.isEmpty)).foldl (fun s e => s.offerOwed e.1) s

/-- REDUCTION_GENERATION_COMPLETE (R258). -/
def execReductionGenerationComplete (cluster task dest : Nat) (s : State) : Host.Outcome State Fault Refusal :=
  .next (match (s.clusters.get cluster).bind (fun c => c.reds.find? (fun r => r.task == task && r.dest == dest)) with
    | none => s
    | some r =>
      if r.rows.length < r.count then s
      else
        let s1 := s.updCluster cluster (fun c =>
          { c with reds := c.reds.filter (fun r => !(r.task == task && r.dest == dest)) })
        let s2 := if r.mixed then s1 else s1.writeRed cluster r
        (r.rows.foldl (fun s x => s.endColl x.1 x.2.1 (if r.mixed then some (0x25, none) else none)) s2).offerCluster cluster)

/-! ### Collectives (R261, R262) -/

/-- The byte that a key names, for the levels where a record may stand. -/
def keyLoc (level n : Nat) : Loc :=
  if level = 3 then .sram (n / 2 ^ 54) (n / 2 ^ 22 % 2 ^ 32) (n % 2 ^ 22)
  else if level = 4 then .bank (n / 2 ^ 26) (n / 2 ^ 18 % 256) (n % 2 ^ 18)
  else .spa n

/-- Where a record's GEN stands. -/
def CollGen.genLocs (c : CollGen) : List Loc := (range (c.record.2 + 8) 8).map (keyLoc c.record.1)

/-- GEN rises by 1. -/
def State.genUp (s : State) (c : CollGen) (gid : Nat) (g : Group) : State := s.addHome g.core g.ctx gid c.genLocs 1

/-- What becomes of a result at one participant's destination: its words move, or it is written later. -/
inductive CollDst where
  | ready (m : List Moving)
  | later (why : Option (Nat × WalkFail))

/-- A participant's destination: unmapped, it holds alone; a saved group's cluster or bank memory is written at its restore
(R250, R251). -/
def State.collDst (s : State) (gid : Nat) (dst : W64) (v : List (W32 × Bool)) : CollDst :=
  match s.groups.get gid with
  | none => .ready []
  | some g =>
    if !s.enginesRun g && apertureOf dst != .global then .later none
    else
      match s.engineLocs gid g dst (4 * v.length) .store with
      | .error e => .later (some e)
      | .ok d => .ready (valMoves dst (4 * v.length) d v)

/-- The result waits in the participant's engine for its destination; one that can never be written is refused (R250, R445). -/
def State.keepResult (s : State) (gid op : Nat) (dst : W64) (v : List (W32 × Bool)) (why : Option (Nat × WalkFail)) : State :=
  let keep (held : Option W64) : State := s.updGroup gid (fun g =>
    { g with eng := { g.eng with collWrites := g.eng.collWrites ++ [⟨op, dst, v, held⟩] } })
  match why with
  | none => keep none
  | some (a, f) =>
    match malformedAt a f with
    | some (code, tv) => s.endColl gid op (some (code, some tv))
    | none => (keep (some (BitVec.ofNat 64 a))).reportEngine gid a f

/-- A participant's operation ends, its destination written or still to be. -/
def State.endArrival (s : State) (c : CollGen) (v : List (W32 × Bool)) (a : Arrival) : State :=
  if c.mixed then s.endColl a.gid a.op (some (0x25, none))
  else
    match s.collDst a.gid a.dst v with
    | .ready _ => s.endColl a.gid a.op none
    | .later why => s.keepResult a.gid a.op a.dst v why

/-- The pages of a result's destination are known to the tiers (R383). -/
def State.noteResult (s : State) (gid : Nat) (dst : W64) (words : Nat) : State :=
  match s.groups.get gid with
  | some g => s.noteEngine g dst (4 * words)
  | none => s

/-- COLLs that waited for a generation of their record go on where there is one for them (R262). -/
def State.wakeColls (s : State) : State :=
  s.wakeAll (fun _ f => match f.status with | .waiting (.third l b r) => s.collRoom (l, b) r | _ => false)

/-- The generation ends: destinations that are mapped are written, GEN is advanced, counters fall, and who waited to open a
generation looks again. -/
def State.finishColl (s : State) (id : Nat) (c : CollGen) : State :=
  match c.arrivals with
  | [] => { s with colls := s.colls.del id }
  | x :: _ =>
    match s.groups.get x.gid with
    | none => { s with colls := s.colls.del id }
    | some g =>
      let v := s.collResult c
      let moves : List (Nat × List Moving) := if c.mixed then [] else
        c.arrivals.filterMap (fun a => match s.collDst a.gid a.dst v with
          | .ready m => some (a.gid, m.map (fun x => { x with op := a.op }))
          | .later _ => none)
      let gen : List Moving := [{ src := .bytes [] false, dst := c.genLocs }]      -- GEN's line too has been written (R244)
      let s0 := c.arrivals.foldl (fun s a => s.noteResult a.gid a.dst v.length) s
      let s1 := (c.arrivals.foldl (fun s a => s.noteWrote a.gid gen) (moves.foldl (fun s y => s.noteWrote y.1 y.2)
        (s0.moveWords g.core g.ctx x.gid (moves.flatMap (·.2))))).genUp c x.gid g
      let s2 := { s1 with colls := s1.colls.del id,
                          free := if c.fn = .fsum then s1.free + c.npart else s1.free }
      State.wakeColls (c.arrivals.foldl (fun s a => s.endArrival c v a) s2)

/-- A COLL that holds is looked at again: it arrives, holds on, or leaves owed what its record gives (R250). -/
def State.retryStart (s : State) (gid : Nat) (g : Group) (o : CollStart) : State :=
  let drop (s : State) : State := s.updGroup gid (fun g =>
    { g with eng := { g.eng with collStarts := g.eng.collStarts.filter (fun c => c.id != o.id) } })
  let hold (s : State) (held : Option W64) : State := s.updGroup gid (fun g =>
    { g with eng := { g.eng with collStarts := g.eng.collStarts.map (fun c => if c.id = o.id then { c with held := held } else c) } })
  match (s.noteColl g o).readColl gid g o with
  | .arrived s1 => drop s1
  | .third _ => hold s none
  | .blocked a f =>
    match malformedAt a f with
    | some (code, tv) => (drop s).endColl gid o.id (some (code, some tv))
    | none => (hold s (some (BitVec.ofNat 64 a))).reportEngine gid a f
  | .bad code tv => (drop s).endColl gid o.id (some (code, tv))

/-- A result that waits for its destination is written where it can be. -/
def State.retryWrite (s : State) (gid : Nat) (g : Group) (o : CollWrite) : State :=
  let s1 := s.updGroup gid (fun g =>
    { g with eng := { g.eng with collWrites := g.eng.collWrites.filter (fun c => c.id != o.id) } })
  match s.collDst gid o.dst o.words with
  | .ready m => ((s1.noteResult gid o.dst o.words.length).moveAll gid g m).endColl gid o.id none
  | .later why => s1.keepResult gid o.id o.dst o.words why

/-- A COLL of a group that can be looked at again. -/
def State.startLive (s : State) (gid : Nat) (g : Group) (o : CollStart) : Bool :=
  s.enginesRun g && !s.stillHeld g o.held && (match s.readColl gid g o with | .third _ => false | _ => true)

def State.writeLive (s : State) (g : Group) (o : CollWrite) : Bool := s.enginesRun g && !s.stillHeld g o.held

/-- The held COLL or the waiting result with this number. -/
def State.retryColl (s : State) (op : Nat) : State :=
  match s.groups.find? (fun e => e.2.eng.collStarts.any (fun o => o.id == op) || e.2.eng.collWrites.any (fun o => o.id == op)) with
  | none => s
  | some (gid, g) =>
    match g.eng.collStarts.find? (fun o => o.id == op), g.eng.collWrites.find? (fun o => o.id == op) with
    | some o, _ => if s.startLive gid g o then s.retryStart gid g o else s
    | none, some o => if s.writeLive g o then s.retryWrite gid g o else s
    | none, none => s

/-- COLL_GENERATION_COMPLETE (R250, R262): a generation in which every rank has arrived; or, by its own number, a COLL that held
for its record or source, or a result that held for its destination. -/
def execCollGenerationComplete (coll : Nat) (s : State) : Host.Outcome State Fault Refusal :=
  .next (match s.colls.get coll with
    | none => s.retryColl coll
    | some c => if c.full then s.finishColl coll c else s)

/-! ### Rings (R265, R266) -/

/-- RING_WAIT_WAKE: the request is evaluated again, and completed where it can be; one that stops, or whose page has gone, leaves
the wait (R250, R265, R266). A cause of a group that handles another is raised once its fragment issues again. -/
def execRingWaitWake (g f : Nat) (s : State) : Host.Outcome State Fault Refusal :=
  .next (match s.who? g f with
    | none => s
    | some w =>
      match (s.ringOf w).map (s.retryRing w) with
      | some (.ok s1) => s1
      | some (.error (.wait (.access k) s1)) => s1.setStatus g f (.waiting (.access k))
      | some (.error (.cause c tv)) =>
        let s1 := (s.leaveWaits g (fun k => k == f)).wake g f
        if w.g.hm && !w.inHandler then s1 else s1.raisePrecise w c tv w.f.pc.addr
      | _ => s)

/-! ### Refused operations (R250) -/

/-- A matrix form that leaves the queue unfinished; an MXLOOP ends with it (R328). -/
def MxState.dropForm (m : MxState) (op : Nat) : MxState :=
  let ends := m.queue.any (fun o => o.id == op && isLoop o.instr)
  { m with queue := m.queue.filter (fun o => o.id != op), step := if ends then 0 else m.step, run := m.run && !ends }

/-- The operation of a group that a refusal stops; what it has written stands. -/
def State.refuseEngine (s : State) (gid op code : Nat) (addr : W64) : State :=
  match s.groups.get gid with
  | none => s
  | some g =>
    let e := g.eng
    let put (e : Engines) : State := s.updGroup gid (fun g => { g with eng := e })
    if e.copies.any (fun c => c.id == op && !c.done && c.refused.isNone) then
      (put (e.markCopies (fun c => if c.id = op then { c with refused := some (code, addr), held := none } else c))).engineMoved
        gid
    else if e.gathers.any (fun o => o.id == op) then
      (put { e with gathers := e.gathers.filter (fun o => o.id != op) }).endOwing gid .gth code (some addr)
    else if e.sends.any (fun o => o.id == op) then
      (put { e with sends := e.sends.filter (fun o => o.id != op) }).endOwing gid .net code (some addr)
    else if e.matrix.queue.any (fun o => o.id == op) then
      (put { e with matrix := e.matrix.dropForm op }).endOwing gid .mx code (some addr)
    else
      match e.collStarts.find? (fun o => o.id == op) with
      | some _ => (put { e with collStarts := e.collStarts.filter (fun o => o.id != op) }).endColl gid op (some (code, some addr))
      | none =>
        if e.collWrites.any (fun o => o.id == op) then
          (put { e with collWrites := e.collWrites.filter (fun o => o.id != op) }).endColl gid op (some (code, some addr))
        else s

/-- ENGINE_OPERATION_REFUSED (R250). -/
def execEngineOperationRefused (g op : Nat) (code : Nat) (addr : W64) (s : State) : Host.Outcome State Fault Refusal :=
  .next (s.refuseEngine g op code addr)

/-! ### Matrix forms (R320, R326) -/

/-- The form at the head of a group's queue that can run now. -/
def State.mxHead (s : State) (gid : Nat) (g : Group) : Option MxOp :=
  match g.eng.matrix.queue with
  | [] => none
  | o :: _ => if !s.enginesRun g || s.stillHeld g o.held || s.mxWaits gid g o then none else some o

/-- MATRIX_FORM_COMPLETE (R320, R326, R362): the form, or one step of an MXLOOP. -/
def execMatrixFormComplete (g : Nat) (s : State) : Host.Outcome State Fault Refusal :=
  .next (match s.groups.get g with
    | none => s
    | some x =>
      match s.mxHead g x with
      | none => s
      | some o =>
        let s := s.noteMx x o
        match s.runMx g x o with
        | .blocked a f =>
          match malformedAt a f with
          | some (code, tv) => s.refuseEngine g o.id code tv
          | none =>
            (s.updMx g (fun m => { m with queue := m.queue.map (fun p =>
              if p.id = o.id then { p with held := some (BitVec.ofNat 64 a) } else p) })).reportEngine g a f
        | .more s1 => s1.countCycles x
        | .done s1 => ((s1.countCycles x).updMx g (fun m => { m with queue := m.queue.drop 1 })).endOne g .mx)

end Sys2Proof.Machine
end

