-- ==== Sys2Proof/Machine/Leave.lean ====
section
/-! DEFINITION. The end of groups, teams and tasks, and the edges between tasks (spec/03 R79, R80; spec/12 R250, R268; spec/14
R280-R282; spec/24 R422-R428). -/

namespace Sys2Proof.Machine

open Sys2Proof

/-! ### The end of a group (R79, R80) -/

/-- The fragment that waits at the group's last EXIT. -/
def Group.exitWait (g : Group) : Option Frag :=
  match g.frags with
  | [f] => if f.status = .waiting .exit then some f else none
  | _ => none

/-- Every engine operation of the group has completed. -/
def Engines.idle (e : Engines) : Bool :=
  e.copies.all (fun c => c.done) && e.mx == 0 && e.gth == 0 && e.coll == 0 && e.net == 0

/-- The cause that a refused operation owes to the group's EXIT, and the engines without it (R250). -/
def Engines.owedAtExit (e : Engines) : Option (Nat × Option W64 × Engines) :=
  match e.copies.findSome? (fun c => c.refused.map (fun r => (c.id, r))) with
  | some (id, code, a) => some (code, some a, e.dropCopy id)
  | none =>
    match e.owed with
    | [] => none
    | o :: t => some (o.2.2.1, o.2.2.2, { e with owed := t })

/-- A group and its bobbin, or the group alone. -/
def State.pairOf (s : State) (gid : Nat) (g : Group) : List (Nat × Group) :=
  (gid, g) :: (match g.partner with
    | some p => (match s.groups.get p with | some q => if q.dead then [] else [(p, q)] | none => [])
    | none => [])

/-- No other group of the team is left. -/
def State.lastOfTeam (s : State) (t : Team) (pair : List (Nat × Group)) : Bool :=
  (s.liveGroups t).all (fun e => pair.any (fun x => x.1 == e.1))

/-- The wait at EXIT is over for one group (R79). -/
def State.mayLeave (s : State) (e : Nat × Group) : Bool :=
  e.2.exitWait.isSome && e.2.stopped.isNone && e.2.bobCause.isNone && s.settled e.1 && e.2.eng.idle &&
    e.2.eng.owedAtExit.isNone

/-- Blocks of the group's octet that its leaving frees: its window, and the pair's queue window. -/
def Group.allBlocks (g : Group) : Nat :=
  g.blocks + (if !g.access && g.partner.isSome then 8 else 0) + (match g.tryR with | some t => t.blocks | none => 0)

/-- The half's staging buffer is free again (R335). -/
def State.dropStaging (s : State) (gid : Nat) (g : Group) : State :=
  s.updHalf (halfNo g.core) (fun h =>
    match h.staging with
    | some (k, _, _) => if k = gid then { h with staging := none } else h
    | none => h)

/-- Slot, blocks, staging buffer and waits of a group are given up. -/
def State.releaseGroup (s : State) (gid : Nat) (g : Group) : State :=
  (((s.leaveWaits gid (fun _ => true)).updCore g.core (fun c => { c with slots := setAt none c.slots g.slot none })).freeBlocks
    g.core g.octet g.allBlocks).dropStaging gid g

/-- Counts after one group's exit (R281). -/
def State.countExit (s : State) (task : Nat) : State :=
  match s.tasks.get task with
  | none => s
  | some t =>
    { s.updTask task (fun t => { t with groupsLive := t.groupsLive - 1 })
      with cmds := s.cmds.upd t.cmd (fun c => { c with count := c.count - 1 }) }

/-- The group's lane-private slices go. -/
def dropPriv (t : Table Mem) (gid : Nat) : Table Mem := t.filter (fun e => e.1 / 32 != gid)

/-- A group leaves the core: its stores have been performed, and what it held is free (R79). -/
def State.leave (s : State) (gid : Nat) (g : Group) : State :=
  let s1 := ((s.cleanCore g.core gid).releaseGroup gid g).countExit g.task
  { s1.updGroup gid (fun g => { g with dead := true, frags := [], exited := 0xFF, retired := g.retired + 1 })
    with mem := { s1.mem with priv := dropPriv s1.mem.priv gid } }

/-! ### Edges (R422-R424, R428) -/

/-- The lines with a byte in both of two records, as one run. -/
def lineMeet (a b : W64 × W64) : Option (W64 × W64) :=
  let lo := max a.1.toNat b.1.toNat
  let hi := min (a.1.toNat + a.2.toNat) (b.1.toNat + b.2.toNat)
  if lo < hi then
    some (BitVec.ofNat 64 (lo / 128 * 128), BitVec.ofNat 64 ((hi + 127) / 128 * 128 - lo / 128 * 128))
  else none

def lineMeets (a b : List (W64 × W64)) : List (W64 × W64) := a.flatMap (fun x => b.filterMap (lineMeet x))

/-- The region of an edge (R423); of two overlapping tasks, in both directions (R428). -/
def edgeRegion (p q : Launch) (both : Bool) : List (W64 × W64) :=
  lineMeets p.writes (q.reads ++ q.writes) ++ (if both then lineMeets q.writes (p.reads ++ p.writes) else [])

/-- A byte of a WRITE record of one lies in a record of the other (R428). -/
def tasksOverlap (p q : Launch) : Bool := !(edgeRegion p q true).isEmpty

/-- The later of two overlapping tasks of different commands of a context waits for the earlier (R428). -/
def serialised (p : Nat × Task) (q : Nat × Task) : Bool :=
  p.1 < q.1 && p.2.ctx == q.2.ctx && p.2.cmd != q.2.cmd && tasksOverlap p.2.launch q.2.launch

/-- Q declares a dependence on P's DONE (R422). -/
def dependsOn (p q : Task) : Bool :=
  p.launch.done != 0 && p.ctx == q.ctx && q.launch.deps.any (fun d => d.1 == p.launch.done)

/-- The task may be handed to the distributor (R280, R428). -/
def State.eligible (s : State) (id : Nat) (t : Task) : Bool :=
  !t.completed && t.deps.all (fun d => d) &&
    s.tasks.all (fun e => e.2.completed || !serialised e (id, t))

/-- One more edge of a command. -/
def State.addEdge (s : State) (p q : Nat) (cmd : Nat) (ranges : List (W64 × W64)) : State :=
  State.push { s with edges := s.edges.set s.nextId ⟨p, q, ranges⟩, nextId := s.nextId + 1,
                      cmds := s.cmds.upd cmd (fun c => { c with edges := c.edges + 1 }) } (.edgeFlushEnd s.nextId)

/-- The task completes: the work of all its edges starts (R422). -/
def State.completeTask (s : State) (id : Nat) (t : Task) : State :=
  let s1 := s.updTask id (fun t => { t with completed := true })
  let s2 := (s.tasks.filter (fun e => e.1 != id && !e.2.completed &&
      (dependsOn t e.2 || serialised (id, t) e))).foldl (fun s e =>
        s.addEdge id e.1 t.cmd (edgeRegion t.launch e.2.launch (serialised (id, t) e))) s1
  s2.push (.commandComplete t.cmd)

def State.lookTask (s : State) (id : Nat) : State :=
  match s.tasks.get id with
  | none => s
  | some t => if t.groupsLive = 0 ∧ t.groupsLeft = 0 ∧ !t.completed then s.completeTask id t else s

/-! ### The end of a team -/

/-- Another resident team of the task holds groups on the cluster. -/
def State.taskOnCluster (s : State) (task die cluster team : Nat) : Bool :=
  s.teams.any (fun e => e.1 != team && e.2.task == task && e.2.die == die && e.2.cluster == cluster &&
    (match e.2.state with | .resident => true | .draining _ => true | _ => false))

/-- The task's CSRAM reservation on a cluster ends with its last team there (R278). -/
def State.freeSram (s : State) (id : Nat) (t : Team) : State :=
  if s.taskOnCluster t.task t.die t.cluster id then s
  else s.updCluster (22 * t.die + t.cluster) (fun c => { c with sram := c.sram.del t.task, taken := c.taken.del t.task })

/-- The team ends with its last group. -/
def State.lookTeam (s : State) (id : Nat) : State :=
  match s.teams.get id with
  | none => s
  | some t =>
    if (s.liveGroups t).isEmpty then
      let s1 := (s.freeSram id t).updTeam id (fun t => { t with state := .ended, groups := [] })
      { s1 with groups := s1.groups.filter (fun e => !t.groups.contains e.1) }
    else s

/-- A cause owed to a group at EXIT; in handler mode it is held pending, and the wait at EXIT stands (R250, R439). -/
def State.raiseAtExit (s : State) (w : Who) (code : Nat) (tv : Option W64) : State :=
  if w.g.hm && !w.g.access then
    let (x, s1) := s.orFree tv
    s1.raiseIn w.gid w.fid code w.f.pc.addr x
  else s.raiseOwed w code tv

/-- GROUP_LEAVES_CORE (R79, R80, R250, R280, R282): a refused operation's cause comes first; then the pair leaves together
once both groups may, and the team's last group only with an empty pending-launch queue. -/
def State.tryLeave (s : State) (gid : Nat) (g : Group) (f : Frag) : State :=
  let w : Who := ⟨gid, f.id, g, f⟩
  match s.teams.get g.team with
  | none => s
  | some t =>
    let pair := s.pairOf gid g
    let last := s.lastOfTeam t pair
    match g.eng.owedAtExit with
    | some (code, tv, e) => (s.updGroup gid (fun g => { g with eng := e })).raiseAtExit w code tv
    | none =>
      match (if last && !g.access then s.droppedCause w else none) with
      | some (a, s1) => s1.raiseAtExit w 0x1B (some a)
      | none =>
        if pair.all s.mayLeave && (!last || t.pendingQ.isEmpty) then
          (((pair.foldl (fun s e => s.leave e.1 e.2) s).lookTeam g.team).lookTrigger g.task).lookTask g.task
        else s

/-- GROUP_LEAVES_CORE (R79, R80). -/
def execGroupLeavesCore (g : Nat) (s : State) : Host.Outcome State Fault Refusal :=
  .next (match s.groups.get g with
    | none => s
    | some x =>
      match x.exitWait with
      | none => s
      | some f => if x.stopped.isSome || x.bobCause.isSome || !s.onCore x then s else s.tryLeave g x f)

/-! ### The flush of an edge (R424) -/

/-- The front end stands on no core: it uses no TLB and holds no L1. -/
def feCore : Nat := 704

/-- Runs of lines joined in ascending order. -/
def insertRun (x : Nat × Nat) : List (Nat × Nat) → List (Nat × Nat)
  | [] => [x]
  | y :: t =>
    if x.2 < y.1 then x :: y :: t
    else if y.2 < x.1 then y :: insertRun x t
    else insertRun (min x.1 y.1, max x.2 y.2) t

/-- The number of distinct lines of a region. -/
def regionLines (l : List (W64 × W64)) : Nat :=
  ((l.map (fun r => (r.1.toNat / 128, (r.1.toNat + r.2.toNat) / 128))).foldl (fun a x => insertRun x a) []).foldl
    (fun n x => n + (x.2 - x.1)) 0

/-- One core's lines among some system ranges are written back and dropped. -/
def State.flushCore (s : State) (core : Nat) (p : Nat → Bool) : State :=
  match s.cores.get core with
  | none => s
  | some c => ((c.l1.map (·.line)).filter p).foldl (fun s k => (s.writeBack core k).evictCopy core k) s

/-- The flush of a region over every L1 of the package; above 65,536 lines, of every line. -/
def State.flushRegion (s : State) (ctx : Nat) (ranges : List (W64 × W64)) : State :=
  let spans := ranges.flatMap (fun r =>
    s.mapRange ctx feCore (r.1.toNat + r.2.toNat) (r.2.toNat / 65536 + 2) r.1.toNat)
  let p (line : Nat) : Bool := 65536 < regionLines ranges || touches spans line
  (s.cores.map (·.1)).foldl (fun s c => s.flushCore c p) s

/-- EDGE_FLUSH_END (R424, R281). -/
def execEdgeFlushEnd (edge : Nat) (s : State) : Host.Outcome State Fault Refusal :=
  .next (match s.edges.get edge with
    | none => s
    | some e =>
      match s.tasks.get e.pred with
      | none => { s with edges := s.edges.del edge }
      | some p =>
        let s1 := s.flushRegion p.ctx e.ranges
        State.push { s1 with edges := s1.edges.del edge,
                             cmds := s1.cmds.upd p.cmd (fun c => { c with edges := c.edges - 1 }) }
          (.commandComplete p.cmd))

end Sys2Proof.Machine
end

