-- ==== Sys2Proof/Machine/Fetch.lean ====
section
/-! DEFINITION. From a chosen fragment to its instruction: the line and its check (spec/01 R19-R24; spec/25 R447), and the
choice's second start (spec/15 R309). -/

namespace Sys2Proof.Machine

open Sys2Proof

/-! ### The fetch -/

/-- What a step does. -/
inductive Pick where
  | run (i : Instr) (s : State)
  | stay (s : State)
  deriving Repr

/-- A line fetched with a good check: its count of restarts ends (R22), its page is known (R383), its translation is cached (R446), and
its slice has read it (R376). -/
def State.lineGood (s : State) (w : Who) : State :=
  let a := w.f.pc.line.toNat
  let s1 := if w.f.crcTries = 0 then s else s.updFrag w.gid w.fid (fun f => { f with crcTries := 0 })
  let s2 := s1.cacheTlb w.g.ctx w.g.core a .fetch
  match s.spa w.g.ctx w.g.core a .fetch with
  | .ok p => s2.fetchUse w.g.ctx p
  | .error _ => s2

/-- The chosen fragment's next instruction. -/
def State.fetch (s : State) (c : Issuer) : Pick :=
  match s.who? c.gid c.fid with
  | none => .stay { s with cur := none }
  | some w =>
    match s.fetchLine w.g.ctx w.g.core w.f.pc.line with
    | .error f => .stay (settle s w (.error (s.fetchHold w w.f.pc.addr f)))
    | .ok line =>
      if !lineCheckOk line then .run (.fetchCheckFail c.gid c.fid) s.endIssue
      else if w.entering && !(lineWord line).target.getLsbD w.f.pc.slot then .stay ((s.lineGood w).entryFails w).endIssue
      else
        match (s.lineGood w).word w line with
        | .ok i => .run i (s.lineGood w)
        | .error e => .stay (settle (s.lineGood w) w (.error e))

/-- The second start of the cycle: its fragment issues if it still stands there ready (R309). -/
def State.startSecond (s : State) (x : Start) : State :=
  match s.who? x.gid x.fid with
  | some w =>
    if w.f.pc = x.pc ∧ s.isReady w then { s with cur := some ⟨x.gid, x.fid⟩, second := none }
    else { s with second := none }
  | none => { s with second := none }

end Sys2Proof.Machine
end

