-- ==== Sys2Proof/Machine/Fresh.lean ====
section
/-! DEFINITION. Records as they are when they begin: engines, groups, teams, cores, clusters, halves, dies and contexts
(spec/03 R66; spec/06 R149-R168; spec/20 R372; spec/22 R404; spec/26 R467). -/

namespace Sys2Proof.Machine

open Sys2Proof

def MxState.fresh : MxState :=
  { queue := [], aSlots := [], bSlots := [], stream := [], tbad := false, ovf := false, inv := false, sat := false,
    run := false, step := 0 }

def Engines.fresh : Engines :=
  { batchNo := 0, openBatch := [], closed := [], mx := 0, gth := 0, coll := 0, net := 0, gathers := [], sends := [],
    starts := [0, 0, 0, 0], collOrder := [], collStarts := [],
    collWrites := [], owed := [], wrote := [], cpq := 0, red := 0, netAddr := 0, matrix := MxState.fresh }

def zeroRow : Row := List.replicate 32 0

/-- The first fragment of a group: every slice, fmt 0, at the entry point, which R24 checks (R372). -/
def Frag.first (id : Nat) (pc : Pc) : Frag :=
  { id := id, slices := 0xFF, pc := pc, fmt := 0, stack := [], dormant := [], age := 0, status := .ready,
    byTransfer := true, crcTries := 0, landTries := 0, retiredHere := 0, waitFrom := none, begun := false,
    afterJoin := false }

/-- What a new group is given. -/
structure Birth where
  team : Nat
  index : Nat
  access : Bool
  partner : Option Nat
  ctx : Nat
  task : Nat
  core : Nat
  slot : Nat
  octet : Nat
  blocks : Nat
  pc : Pc
  frag : Nat
  idem : Bool                       -- the launch IDEM flag (R407)
  deriving DecidableEq, Repr

/-- A new group: registers zero (R66, R161), queues empty (R165), control registers at their reset values (R404, R407). -/
def Group.fresh (b : Birth) : Group :=
  { team := b.team, index := b.index, access := b.access, partner := b.partner, ctx := b.ctx, task := b.task,
    core := b.core, slot := b.slot, octet := b.octet, blocks := b.blocks,
    s := List.replicate 64 0, v := List.replicate (8 * b.blocks) zeroRow,
    queues := if b.access || b.partner.isNone then [] else List.replicate 8 (List.replicate 32 []),
    exited := 0, frags := [Frag.first b.frag b.pc], bindings := [], hm := false, code := 0, idem := b.idem, cause := 0,
    pendTval := [], epc := 0, tval := 0, idemPc := b.pc.addr, idemFmt := 0, idemStack := [], restarts := 0, written := [],
    trtab := 0, shadow := List.replicate 8 0, handling := none, replay := none, stalled := [], stopped := none, bobCause := none,
    dead := false, triggered := false, arrivals := [], barWait := [], tryR := none, sent := [], owing := [], eng := Engines.fresh, retired := 0 }

def Barrier.fresh : Barrier := ⟨0, 0, 0, []⟩

def Core.fresh : Core :=
  { slots := List.replicate 64 none, free := List.replicate 8 48, waiters := [], urgentC := [], urgentP := [],
    lastC := [], lastP := [], startsC := [], startsP := [], l1 := [], peers := [], seen := [], peersFrom := 0, tlb := [], replays := [], state := .inService }

def Cluster.fresh : Cluster := { sram := [], taken := [], reds := [], redWait := [], tlb := [] }

def Half.fresh : Half := { tiles := [], owner := none, staging := none, steps := 0, busy := 0, wait := 0 }

def Plan.fresh : Plan := ⟨0, []⟩

def Die.fresh : Die :=
  { reserve := PerClass.all 0, px := PerClass.all 0, banks := [], nested := [], retiredSlices := [], retiredChans := [],
    rebuilding := [], slotUnits := 0, cluUnits := [], progressHalf := 0, plan := Plan.fresh, staged := [],
    apply := false, gated := false, failed := [], deadRouters := [], physical := range 0 22, evicting := false,
    lostBytes := 0 }

def BidReg.none : BidReg := ⟨0, 0⟩

def Holding.none : Holding := { units := PerClass.all [], price := PerClass.all 0, progress := Option.none }

def Ctx.fresh : Ctx :=
  { purse := 0, refill := 0, spent := 0, pkg := 0, reach := 0, mig := false, home := 0, purseWrite := none,
    bids := PerClass.all BidReg.none, held := Holding.none, next := Holding.none, moveTo := none, offer := none, away := none,
    trapvec := 0, lpext := 0, relcnt := 0, root1 := 0, root2 := 0, saveArea := 0, vlan := 0, hostAddr := 0, ip4 := 0, ip6 := 0,
    vi := Option.none, windows := [], slotBase := [], anchor := none, notify := 0, qcb := [], notes := 0, replies := [], born := 0 }

end Sys2Proof.Machine
end

