-- ==== Sys2Proof/Machine/Load.lean ====
section
/-! DEFINITION. Where a word is laid so that the next step fetches it: the line at the chosen fragment's PC, or, where no
fragment can fetch, a package brought up with one context, one task and one resident group (log 17). -/

namespace Sys2Proof.Machine

open Sys2Proof

/-- The line with the word in a slot that is a legal target, no pair, and its check. -/
def lineWith (old : List Byte) (slot : Nat) (w : InsnWord) : List Byte :=
  let ws := (range 0 5).map (fun k => if k = slot then w else lineSlot old k)
  lineBytes ws 0 ((lineWord old).target ||| oneBit 5 slot)

/-- A page-table entry (R444): a table, or a leaf with every permission at output address 0. -/
def tableEntry (at_ : Nat) : Nat := at_ + 1

def leafEntry : Nat := 0x3D

/-- Both stages map the first GiB to itself: stage 1 from 0x1000, stage 2 from 0x4000. -/
def identityTables (m : Mem) : Mem :=
  let s1 := ((m.writeNat 0x1000 8 (tableEntry 0x2000)).writeNat 0x2000 8 (tableEntry 0x3000)).writeNat 0x3000 8 leafEntry
  ((s1.writeNat 0x4000 8 (tableEntry 0x5000)).writeNat 0x5000 8 (tableEntry 0x6000)).writeNat 0x6000 8 leafEntry

/-- The address of the code line. -/
def loadLine : Nat := 0x10000

def loadedLaunch : Launch :=
  { Launch.empty with entry := BitVec.ofNat 64 loadLine, gridX := 1, gridY := 1, gridZ := 1, ncomp := 1, spread := 1,
                      vregc := 256, reads := [(0, 0x40000000)], writes := [(0, 0x40000000)] }

def loadedTask : Task :=
  { ctx := 0, cmd := 0, parent := none, launch := loadedLaunch, deps := [], seedOnly := false, entryBad := false,
    nextTeam := 1, groupsLive := 1, groupsTriggered := 0, groupsLeft := 0, triggered := false, completed := false,
    placedOn := [0], images := [], held := [], forwarded := false }

def loadedTeam : Team :=
  { task := 0, ctx := 0, index := 0, die := 0, cluster := 0, cores := [0], groups := [0], state := .resident,
    barriers := List.replicate 16 Barrier.fresh, pendingQ := [], waitingEnqs := [], progress := false, spoiled := false,
    tiles := [], stagings := [], owed3A := none, dropped := [], avoid := none, moved := none }

def loadedGroup : Group :=
  Group.fresh { team := 0, index := 0, access := false, partner := none, ctx := 0, task := 0, core := 0, slot := 0,
                octet := 0, blocks := 32, pc := ⟨BitVec.ofNat 64 loadLine, 0⟩, frag := 0, idem := false }

def loadedCtx : Ctx := { Ctx.fresh with root1 := 0x1000, root2 := 0x4000, lpext := 0x10000 }

/-- A package that runs one group whose next instruction is `w`. -/
def State.loadFresh (s : State) (w : InsnWord) : State :=
  { s with
    mode := .up, cur := some ⟨0, 0⟩, due := [], cycle := [], agenda := [], nextId := s.nextId + 1,
    mem := { s.mem with sys := (identityTables s.mem.sys).writeL loadLine (lineWith [] 0 w) },
    groups := s.groups.set 0 loadedGroup,
    teams := s.teams.set 0 loadedTeam,
    tasks := s.tasks.set 0 loadedTask,
    cores := s.cores.set 0 { Core.fresh with slots := setAt none Core.fresh.slots 0 (some 0),
                                             free := setAt 0 Core.fresh.free 0 16 },
    clusters := s.clusters.set 0 Cluster.fresh,
    halves := s.halves.set 0 Half.fresh,
    dies := s.dies.set 0 Die.fresh,
    ctxs := s.ctxs.set 0 loadedCtx }

/-- The word at the fragment that would fetch next, or in a fresh package. -/
def State.placeWord (s : State) (w : InsnWord) : State :=
  match s.cur.bind (fun c => s.who? c.gid c.fid) with
  | none => s.loadFresh w
  | some i =>
    match s.spa i.g.ctx i.g.core i.f.pc.line.toNat .fetch with
    | .error _ => s.loadFresh w
    | .ok a => { s with mem := { s.mem with sys := s.mem.sys.writeL a (lineWith (s.mem.sys.readN a 64) i.f.pc.slot w) } }

end Sys2Proof.Machine
end

