-- ==== Sys2Proof/Machine/Market.lean ====
section
/-! DEFINITION. The market forms, and the capacities and instants that they and the clearing share (spec/17 R336-R339;
spec/00 R7). -/

namespace Sys2Proof.Machine

open Sys2Proof

/-- The most units that a bid register holds (R337). -/
def capacityOf : MktClass → Nat
  | .clu => 43
  | .bank => 256
  | .way => 16
  | .slot => 256
  | .link => 24

/-- Cycles of an interval (R7). -/
def intervalCycles : Nat := 450000

/-- The cycle within the interval (R7). -/
def State.intervalCycle (s : State) : Nat := (s.clock - s.market.t0).toNat % intervalCycles

/-- The clearing of this interval has been published (R352). -/
def State.published (s : State) : Bool := s.market.stage == .published || s.market.stage == .released

/-- BID (R336, R337). -/
def execBid (cls : MktClass) (x : Args) (s : State) : Host.Outcome State Fault Refusal :=
  engineForm s (fun w =>
    let price := s.srcS w x.imm x.a
    let units := min (s.srcS w x.imm x.b).toNat (capacityOf cls)
    .ok (((s.updCtx w.g.ctx (fun c => { c with bids := c.bids.put cls ⟨price, units⟩ })).disarm w).advance w))

/-- BIDRD (R338). -/
def execBidrd (cls : MktClass) (x : Args) (s : State) : Host.Outcome State Fault Refusal :=
  run s (fun w =>
    let sh : Shape := ⟨x.cm, x.d, x.imm, [], 0⟩
    match s.pre w sh with
    | .error e => .error e
    | .ok () =>
      let b : BidReg := match s.ctxOf w.g with | some c => c.bids.at_ cls | none => ⟨0, 0⟩
      .ok ((s.putScalar w sh (if immField x.imm 0 1 = 0 then b.price else BitVec.ofNat 64 b.units)).advance w))

/-- Units of a class that a holding has on a die; progress grants count as CLU (R223, R338). -/
def Holding.on (h : Holding) (home die : Nat) (cls : MktClass) : Nat :=
  let own := if cls = .link ∨ home = die then (h.units.at_ cls).length else 0
  let grant := if cls = .clu then (match h.progress with | some p => if p.1 = die then 1 else 0 | Option.none => 0) else 0
  own + grant

/-- What LEASE reports of one holding: units, or the price paid for them; no price where no unit is bought (R338). -/
def Holding.report (h : Holding) (home die : Nat) (cls : MktClass) (price : Bool) : Option W64 :=
  if !price then some (BitVec.ofNat 64 (h.on home die cls))
  else if (cls = .link ∨ home = die) ∧ h.units.at_ cls ≠ [] then some (h.price.at_ cls)
  else if h.on home die cls ≠ 0 then some 0
  else Option.none

/-- LEASE (R338). -/
def execLease (cls : MktClass) (x : Args) (s : State) : Host.Outcome State Fault Refusal :=
  run s (fun w =>
    let sh : Shape := ⟨x.cm, x.d, x.imm, [], 0⟩
    match s.pre w sh with
    | .error e => .error e
    | .ok () =>
      let sel := immField x.imm 0 2
      let v : Option W64 :=
        match s.ctxOf w.g with
        | none => some 0
        | some c =>
          let home := (if sel < 2 then c.home.toNat else c.moveTo.getD c.home.toNat)
          if sel < 2 then c.held.report home (coreDie w.g.core) cls (sel == 1)
          else if !s.published then some 0xFFFFFFFFFFFFFFFF
          else c.next.report home (coreDie w.g.core) cls (sel == 3)
      let r := s.orFree v
      .ok ((r.2.putScalar w sh r.1).advance w))

/-- MIGHINT .on (R336, R339). -/
def execMighintOn (x : Args) (s : State) : Host.Outcome State Fault Refusal :=
  engineForm s (fun w =>
    let reach : BitVec 2 := (s.srcS w x.imm x.a).setWidth 2
    if reach = 3 then .error (.cause 0x29 none)
    else .ok (((s.updCtx w.g.ctx (fun c => { c with mig := true, reach := reach })).disarm w).advance w))

/-- MIGHINT .off (R336, R339). -/
def execMighintOff (_x : Args) (s : State) : Host.Outcome State Fault Refusal :=
  engineForm s (fun w => .ok (((s.updCtx w.g.ctx (fun c => { c with mig := false })).disarm w).advance w))

end Sys2Proof.Machine
end

