-- ==== Sys2Proof/Machine/Place.lean ====
section
/-! DEFINITION. Placement: which cores a team fits, which candidate is tried first, ageing, and what placing a team does
(spec/06 R153, R154, R160, R161; spec/14 R278-R282; spec/15 R299-R308; spec/24 R427). -/

namespace Sys2Proof.Machine

open Sys2Proof

/-! ### The front end's accesses (R278, R280, R286, R447) -/

/-- The places of n global bytes of a context, for a unit that stands on no core. -/
def State.feLocs (s : State) (ctx a n : Nat) (need : Need) : Except (Nat × WalkFail) (List Loc) :=
  if 2 ^ 56 < a + n then .error (a, .stage2 a) else s.resolve ctx feCore need ((range a n).map .gva) none

/-- The record of a translation fault of no group; a malformed stage-1 entry counts as the failing entry (R447). -/
def feRecord (ctx gva : Nat) (f : WalkFail) : Option TrapRec :=
  let rec0 : TrapRec :=
    { code := 0x1B, kind := .replayable, owner := .operator, ctx := ctx, count := 1, id := 0, gva := BitVec.ofNat 64 gva,
      gpa := 0, core := 0, slot := 0, data := 0 }
  match f with
  | .stage1 e => some { rec0 with code := 0x1A, owner := .guest, gpa := BitVec.ofNat 64 e }
  | .malformed1 e => some { rec0 with code := 0x1A, owner := .guest, gpa := BitVec.ofNat 64 e }
  | .stage2 g => some { rec0 with gpa := BitVec.ofNat 64 g }
  | .malformed2 g => some { rec0 with gpa := BitVec.ofNat 64 g }
  | .inFlight => none

/-- The first fault of a hold is reported; a hold whose record is unresolved counts once (R448). -/
def State.feMiss (s : State) (ctx gva : Nat) (f : WalkFail) (held : Option W64) : State :=
  if held == some (BitVec.ofNat 64 gva) && s.mgmt.traps.any (fun r => samePage r ctx gva) then s
  else
    match feRecord ctx gva f with
    | some r => s.reportRec r gva f
    | none => s

/-- The address among those that hold a task. -/
def Task.heldAt (t : Task) (gva : Nat) : Option W64 := t.held.find? (fun a => a == BitVec.ofNat 64 gva)

/-- The task holds at one more address; at one, what is left once a word of 8 bytes has been read. -/
def Task.holdAt (t : Task) (gva : Nat) : Task :=
  { t with held := if (t.heldAt gva).isSome then t.held else t.held ++ [BitVec.ofNat 64 gva] }

def Task.freeAt (t : Task) (word : W64) : Task :=
  { t with held := t.held.filter (fun a => !(word.toNat ≤ a.toNat && a.toNat < word.toNat + 8)) }

/-- An access of the front end uses its pages: they are known to the tiers, and count as accessed (R375, R383, R385). -/
def State.feNote (s : State) (ctx a : Nat) (l : List Loc) : State :=
  (s.noteRange ctx feCore (l.length / 65536 + 2) a (a + l.length)).touch noCore l

/-- What a read of the front end leaves: its slices have read the lines (R376). -/
def State.feRead (s : State) (ctx a : Nat) (l : List Loc) : State := (s.feNote ctx a l).l2Lines ctx false (linesOf l)

/-! ### Cores of a context (R300, R301, R355) -/

/-- The half-clusters that a holding names: die and number. -/
def Holding.halves (h : Holding) (home : Nat) : List (Nat × Nat) :=
  h.units.clu.map (fun k => (home, k)) ++ h.progress.toList

def Ctx.halvesNow (c : Ctx) : List (Nat × Nat) := if c.away.isSome then [] else c.held.halves c.home.toNat

/-- The half-clusters of the coming interval; none for a context that leaves its die, or is offered to
another package and not yet refused (R354). -/
def Ctx.halvesNext (c : Ctx) : List (Nat × Nat) := if c.moveTo.isSome || c.offer.isSome then [] else c.next.halves c.home.toNat

def coreHalf (core : Nat) : Nat × Nat := (coreDie core, core % 176 / 4)

/-- The release window has begun (R7, R301, R353). -/
def State.inRelease (s : State) : Bool := s.market.started && decide (423000 ≤ s.intervalCycle)

/-- The context's holdings and the core's state let it place work there, whatever the time (R301). -/
def State.coreHeld (s : State) (c : Ctx) (l : Launch) (avoid : Option Nat) (core : Nat) : Bool :=
  c.halvesNow.contains (coreHalf core) && l.banks ≤ c.held.units.bank.length && avoid != some core &&
    (match s.cores.get core with | some k => k.state == .inService | none => false)

/-- The context may place work on the core now: in the release window, only on what it keeps with the banks that the task
needs (R301, R342, R353). -/
def State.coreEligible (s : State) (c : Ctx) (l : Launch) (avoid : Option Nat) (core : Nat) : Bool :=
  s.coreHeld c l avoid core &&
    (!s.inRelease || (c.halvesNext.contains (coreHalf core) && l.banks ≤ c.next.units.bank.length))

/-- Units of 64 bytes that n bytes take. -/
def sramUnits (n : Nat) : Nat := (n + 63) / 64

/-- The units that a reservation takes in a half of its cluster. -/
def halfUnits (half : Nat) (x : Nat × Nat) : Nat := if half = 0 then x.1 else x.2

/-- FCSRAM of a half of a cluster: its free units of 64 bytes (R299, R300). -/
def Cluster.fcsram (k : Cluster) (half : Nat) : Nat := 24576 - (k.taken.map (fun e => halfUnits half e.2)).foldl (· + ·) 0

def State.fcsram (s : State) (cluster half : Nat) : Nat := ((s.clusters.get cluster).map (fun (k : Cluster) => k.fcsram half)).getD 0

/-- The halves of a cluster that a context holds: 0 for A, 1 for B. -/
def Ctx.halvesIn (c : Ctx) (cluster : Nat) : List Nat :=
  (range 0 2).filter (fun h => c.halvesNow.contains (cluster / 22, 2 * (cluster % 22) + h))

def State.sramHeld (s : State) (task cluster : Nat) : Bool :=
  match s.clusters.get cluster with
  | some k => (k.taken.get task).isSome
  | none => false

/-- The cluster can supply the task's CSRAM from the halves that the context holds (R300, R301); `whole`: as if nothing of the
context were taken. -/
def State.sramOk (s : State) (c : Ctx) (task : Nat) (l : Launch) (cluster : Nat) (whole : Bool) : Bool :=
  if whole then sramUnits l.csram ≤ 24576 * (c.halvesIn cluster).length
  else s.sramHeld task cluster || sramUnits l.csram ≤ ((c.halvesIn cluster).map (s.fcsram cluster)).foldl (· + ·) 0

/-! ### Fit (R302, R303) -/

/-- What one pair of groups needs: its index, its blocks in one octet, its slots. -/
structure Need1 where
  index : Nat
  blocks : Nat
  slots : Nat
  deriving DecidableEq, Repr

/-- Free room of a core: slots, and blocks by octet. -/
structure Room where
  slots : Nat
  free : List Nat
  deriving DecidableEq, Repr

/-- GWAIT of an octet: a blocking GROW waits on it (R299). -/
def State.gwait (s : State) (c : Core) (m : Nat) : Bool :=
  c.waiters.any (fun x => x.1 == m && (match (s.groups.get x.2.1).bind (fun g => g.frag? x.2.2) with
    | some f => (match f.status with | .waiting (.grow _) => true | _ => false)
    | none => false))

/-- A core's report (R299): FSLOT and FBLK, an octet whose GWAIT bit is set counting as full (R302). -/
def State.room (s : State) (c : Core) : Room :=
  { slots := (c.slots.filter (·.isNone)).length,
    free := (range 0 8).map (fun m => if s.gwait c m then 0 else c.free.getD m 0) }

def Room.whole : Room := ⟨64, List.replicate 8 48⟩

/-- The lowest octet from k that holds n blocks. -/
def firstOctet (n : Nat) : Nat → List Nat → Option Nat
  | _, [] => none
  | k, x :: t => if n ≤ x then some k else firstOctet n (k + 1) t

/-- Room after one pair, with its octet. -/
def Room.take (r : Room) (n : Need1) : Option (Nat × Room) :=
  if r.slots < n.slots then none
  else (firstOctet n.blocks 0 r.free).map (fun m =>
    (m, ⟨r.slots - n.slots, setAt 0 r.free m (r.free.getD m 0 - n.blocks)⟩))

/-- The pairs on their cores, ascending: index, core, octet (R153, R302). -/
def planOn (cores : List Nat) : Table Room → List Need1 → Option (List (Nat × Nat × Nat))
  | _, [] => some []
  | rooms, n :: t =>
    let core := cores.getD (n.index % cores.length) 0
    match rooms.get core with
    | none => none
    | some r =>
      match r.take n with
      | none => none
      | some (m, r') => (planOn cores (rooms.set core r') t).map ((n.index, core, m) :: ·)

/-- What a team asks of the distributor. -/
structure Ask where
  ctx : Nat
  task : Nat
  launch : Launch
  spread : Nat
  needs : List Need1
  avoid : Option Nat
  deriving DecidableEq, Repr

/-- Where a team goes. -/
structure Spot where
  cluster : Nat
  cores : List Nat
  plan : List (Nat × Nat × Nat)
  load : Nat
  deriving DecidableEq, Repr

def Core.load (c : Core) : Nat := (c.slots.filter (·.isSome)).length

/-- Insertion of a core by load, then number. -/
def insertLoad (x : Nat × Nat) : List (Nat × Nat) → List (Nat × Nat)
  | [] => [x]
  | y :: t => if x.1 < y.1 ∨ (x.1 = y.1 ∧ x.2 ≤ y.2) then x :: y :: t else y :: insertLoad x t

def insertNat (x : Nat) : List Nat → List Nat
  | [] => [x]
  | y :: t => if x ≤ y then x :: y :: t else y :: insertNat x t

/-- The eligible cores of a cluster by load; `whole` counts every held core as empty, whatever the time (R303, R306). Of equal
loads the lower core: the row of R319 on a solo1 task created at 70 µs, where every core of cluster 0 carries 8 after team 3, names
core 7 against this; the rule is followed. DEDUCED (log 157). -/
def State.leastCores (s : State) (c : Ctx) (a : Ask) (cluster : Nat) (whole : Bool) : List (Nat × Nat) :=
  (((range (8 * cluster) 8).filter (fun k => if whole then s.coreHeld c a.launch a.avoid k
      else s.coreEligible c a.launch a.avoid k)).map (fun k =>
    ((if whole then 0 else ((s.cores.get k).map Core.load).getD 0), k))).foldl (fun l x => insertLoad x l) []

/-- The cluster's set of cores, if the team fits on it (R303). -/
def State.spotOn (s : State) (c : Ctx) (a : Ask) (whole : Bool) (cluster : Nat) : Option Spot :=
  let l := (s.leastCores c a cluster whole).take a.spread
  if l.length < a.spread ∨ a.spread = 0 then none
  else if !s.sramOk c a.task a.launch cluster whole then none
  else
    let cores := (l.map (·.2)).foldl (fun x k => insertNat k x) []
    let rooms : Table Room := cores.map (fun k =>
      (k, if whole then Room.whole else ((s.cores.get k).map s.room).getD ⟨0, []⟩))
    (planOn cores rooms a.needs).map (fun p => ⟨cluster, cores, p, (l.map (·.1)).foldl (· + ·) 0⟩)

/-- The spot of least load; of equal ones the lower die, then the lower cluster (R303). -/
def bestSpot : List Spot → Option Spot
  | [] => none
  | x :: t =>
    match bestSpot t with
    | none => some x
    | some y => if x.load ≤ y.load then some x else some y

/-- Where the team goes now, outside the closed clusters. -/
def State.spot (s : State) (a : Ask) (closed : List Nat) : Option Spot :=
  match s.ctxs.get a.ctx with
  | none => none
  | some c =>
    bestSpot (((s.clusters.map (·.1)).filter (fun k => !closed.contains k)).filterMap (s.spotOn c a false))

/-- The candidate region: clusters where the team would fit if everything its context holds there were free (R306). -/
def State.region (s : State) (a : Ask) : List Nat :=
  match s.ctxs.get a.ctx with
  | none => []
  | some c => (s.clusters.map (·.1)).filter (fun k => (s.spotOn c a true k).isSome)

/-! ### What a team needs (R160, R165, R302) -/

def ceil8 (n : Nat) : Nat := (n + 7) / 8

/-- A new team's pairs. -/
def Launch.needs (l : Launch) : List Need1 :=
  (range 0 l.ncomp).map (fun i =>
    if l.nacc = 0 then ⟨i, ceil8 l.vregc, 1⟩ else ⟨i, ceil8 l.vregc + ceil8 l.vrega + 8, 2⟩)

/-- What the front end finds in the line that holds ENTRY (R22, R24, R279). -/
inductive EntryLine where
  | good
  | bad                                 -- TARGET is clear, or the line fails its check
  | blocked (gva : Nat) (f : WalkFail)

def State.entryLine (s : State) (t : Task) : EntryLine :=
  match Pc.ofAddr t.launch.entry with
  | none => .bad
  | some pc =>
    match s.fetchLine t.ctx feCore pc.line with
    | .error f => .blocked pc.line.toNat f
    | .ok l => if lineCheckOk l && (lineWord l).target.getLsbD pc.slot then .good else .bad

/-- The seed group of a task whose entry is no legal target goes alone; so it does where the line fails its check, or its fetch
was refused, and meets that at its own fetch (R279; log 75). -/
def State.seedAlone (s : State) (t : Task) : Bool :=
  t.nextTeam == 0 && (t.entryBad || (match s.entryLine t with | .bad => true | _ => false))

/-- The entry line has been checked: no team is placed before (R279). -/
def State.entrySeen (s : State) (t : Task) : Bool :=
  t.nextTeam != 0 || t.entryBad || (match s.entryLine t with | .blocked _ _ => false | _ => true)

/-- The fault of an entry line that is still to be reported. -/
def State.entryMiss (s : State) (t : Task) : Option (Nat × WalkFail) :=
  if t.nextTeam ≠ 0 ∨ t.entryBad then none
  else
    match s.entryLine t with
    | .blocked a f =>
      if f = .inFlight ∨ ((t.heldAt a).isSome && s.mgmt.traps.any (fun r => samePage r t.ctx a)) then none
      else some (a, f)
    | _ => none

def State.askNew (s : State) (id : Nat) (t : Task) : Ask :=
  if s.seedAlone t then ⟨t.ctx, id, t.launch, 1, [⟨0, ceil8 t.launch.vregc, 1⟩], none⟩
  else ⟨t.ctx, id, t.launch, t.launch.spread, t.launch.needs, none⟩

/-- The live pairs of a saved team, with the blocks that they hold. -/
def State.askSaved (s : State) (t : Team) : Ask :=
  let l := s.launchOf t.task
  let compute := (t.groups.filterMap (fun k => s.groups.get k)).filter (fun g => !g.dead && !g.access)
  ⟨t.ctx, t.task, l, (if ((s.tasks.get t.task).map (·.seedOnly)).getD false then 1 else l.spread),
   compute.map (fun g =>
    match g.partner.bind s.groups.get with
    | some p => ⟨g.index, g.blocks + p.blocks + 8, 2⟩
    | none => ⟨g.index, g.blocks, 1⟩),
   t.avoid⟩

/-! ### Candidates (R304) -/

/-- Created and not yet placed whole. -/
def Task.unplaced (t : Task) : Bool := t.nextTeam < t.launch.teams && !t.seedOnly

/-- The oldest eligible task of a host queue with a team to place. -/
def State.hostTask (s : State) (ctx vq : Nat) : Option Nat :=
  (s.tasks.find? (fun e => e.2.ctx == ctx && e.2.parent.isNone && e.2.unplaced && s.eligible e.1 e.2 &&
    (match s.cmds.get e.2.cmd with | some c => c.vq == vq | none => false))).map (·.1)

/-- The serving entry of a team's pending-launch queue (R282). -/
def State.serving (s : State) (t : Team) : Option Nat :=
  t.pendingQ.find? (fun k => match s.tasks.get k with | some x => x.unplaced && s.eligible k x | none => false)

/-- A saved team that waits only for room: its queue is empty where it was swapped out (R284, R304). -/
def Team.restorable (t : Team) : Bool :=
  match t.state with
  | .saved .swapOut => t.pendingQ.isEmpty
  | .saved _ => true
  | _ => false

/-- The host queues that a context's tasks come from. -/
def State.queuesOf (s : State) (ctx : Nat) : List Nat :=
  ((s.tasks.filter (fun e => e.2.ctx == ctx && e.2.parent.isNone && e.2.unplaced)).filterMap (fun e =>
    (s.cmds.get e.2.cmd).map (·.vq))).eraseDups

/-- The candidates of a context by source: source, task, team operand. -/
def State.offers (s : State) (ctx : Nat) : List (CandSource × Nat × Nat) :=
  let next (k : Nat) : Nat := ((s.tasks.get k).map (·.nextTeam)).getD 0
  ((s.queuesOf ctx).filterMap (fun q => (s.hostTask ctx q).map (fun k => (.hostQueue q, k, next k)))) ++
  ((s.teams.filter (fun e => e.2.ctx == ctx)).filterMap (fun e =>
    (s.serving e.2).map (fun k => (.pending e.1, k, next k)))) ++
  ((s.teams.filter (fun e => e.2.ctx == ctx && e.2.restorable)).map (fun e => (.swapped e.1, e.2.task, e.2.index)))

def Candidate.is (c : Candidate) (o : CandSource × Nat × Nat) : Bool := c.src == o.1 && c.task == o.2.1 && c.team == o.2.2

/-- The candidates as they now stand; one that is still offered keeps its times. -/
def State.refresh (s : State) (ctx : Nat) : State :=
  let l := (s.offers ctx).map (fun o =>
    match s.fe.cands.find? (fun c => c.ctx == ctx && c.is o) with
    | some c => c
    | none => ⟨ctx, o.1, o.2.1, o.2.2, s.clock, none, false, false⟩)
  { s with fe := { s.fe with cands := s.fe.cands.filter (fun c => c.ctx != ctx) ++ l } }

def State.askOf (s : State) (c : Candidate) : Option Ask :=
  match c.src with
  | .swapped t => (s.teams.get t).map s.askSaved
  | _ => (s.tasks.get c.task).map (s.askNew c.task)

/-! ### Forwarding (R425) -/

/-- Whether a page holds a byte of one of the records, by guest address of the context. -/
def State.pageIn (s : State) (ctx : Nat) (p : Page) (r : W64 × W64) : Bool :=
  (s.mapRange ctx feCore (r.1.toNat + r.2.toNat) (r.2.toNat / 65536 + 2) r.1.toNat).any (fun x =>
    p.frame < x.1 + x.2 && x.1 < p.frame + p.size)

/-- A move to the near tier is asked for every far page of an eligible task's READ records; the pages are pinned. -/
def State.forward (s : State) (id : Nat) : State :=
  match s.tasks.get id with
  | none => s
  | some t =>
    if t.forwarded || !s.eligible id t then s
    else
      let s1 := s.updTask id (fun t => { t with forwarded := true })
      let hot := (range 0 s.mem.pages.length).filter (fun k =>
        match s.mem.pages[k]? with
        | some p => p.ctx == t.ctx && p.state == .far && t.launch.reads.any (s.pageIn t.ctx p)
        | none => false)
      hot.foldl (fun s k => s.push (.farAccessPromotion k))
        { s1 with mem := { s1.mem with pages := (range 0 s.mem.pages.length).filterMap (fun k =>
            (s.mem.pages[k]?).map (fun p => if hot.contains k then { p with pinned := true } else p)) } }

/-- Every task of a context that has become eligible. -/
def State.forwardAll (s : State) (ctx : Nat) : State :=
  ((s.tasks.filter (fun e => e.2.ctx == ctx && !e.2.forwarded)).map (·.1)).foldl State.forward s

/-- Source, then vqid or team index, of the order of R305; the model's own number of a team comes last. -/
def State.candRank (s : State) : CandSource → Nat × Nat × Nat
  | .hostQueue q => (0, q, 0)
  | .pending t => (1, ((s.teams.get t).map (·.index)).getD 0, t)
  | .swapped t => (2, ((s.teams.get t).map (·.index)).getD 0, t)

def State.candPrio (s : State) (c : Candidate) : Nat := (s.launchOf c.task).prio

def State.candBefore (s : State) (a b : Candidate) : Bool :=
  if s.candPrio a ≠ s.candPrio b then s.candPrio b < s.candPrio a
  else if a.since ≠ b.since then a.since.toNat < b.since.toNat
  else
    let x := s.candRank a.src
    let y := s.candRank b.src
    if x.1 ≠ y.1 then x.1 < y.1 else if x.2.1 ≠ y.2.1 then x.2.1 < y.2.1 else x.2.2 ≤ y.2.2

def State.insertCand (s : State) (x : Candidate) : List Candidate → List Candidate
  | [] => [x]
  | y :: t => if s.candBefore x y then x :: y :: t else y :: State.insertCand s x t

/-- The candidates of a context in the order in which a round tries them. -/
def State.ordered (s : State) (ctx : Nat) : List Candidate :=
  (s.fe.cands.filter (fun c => c.ctx == ctx)).foldl (fun l c => s.insertCand c l) []

def State.candRegion (s : State) (c : Candidate) : List Nat :=
  match s.askOf c with
  | some a => s.region a
  | none => []

/-- A waiting candidate of 64 µs. -/
def State.waited (s : State) (c : Candidate) : Bool :=
  match c.waitingSince with
  | some t => limit64 ≤ (s.clock - t).toNat
  | none => false

/-- The union of the regions of the aged candidates that stand before one (R306). -/
def State.closedBy (s : State) (p : Candidate → Bool) : List Candidate → List Nat
  | [] => []
  | c :: t => if p c then [] else (if s.waited c then s.candRegion c else []) ++ State.closedBy s p t

/-- The clusters that are closed to the restore of a saved team by the aged candidates before it (R306, R308). -/
def State.closedTo (s : State) (team : Nat) : List Nat :=
  match s.teams.get team with
  | none => []
  | some t =>
    let s1 := s.refresh t.ctx
    s1.closedBy (fun c => c.src == .swapped team) (s1.ordered t.ctx)

/-- Placement goes on: the package is up and not above 105 °C (R474). -/
def State.placing (s : State) : Bool := s.mode == .up && s.mgmt.thermal != .sevenEighths

/-! ### Placing (R153, R154, R160, R161, R303, R427) -/

/-- A half of a core that another context wrote starts with tiles of zero (R321). -/
def State.claimHalf (s : State) (ctx core : Nat) : State :=
  s.updHalf (halfNo core) (fun h => if h.owner = some ctx then h else { h with owner := some ctx, tiles := [] })

/-- One slot and n blocks of a core go to a group. -/
def State.takeRoom (s : State) (core octet n gid slot : Nat) : State :=
  (s.updCore core (fun c =>
    { c with slots := setAt none c.slots slot (some gid),
             free := setAt 0 c.free octet (c.free.getD octet 0 - n) })).shrinkL1 core (8 * n)

/-- The lowest free slot. -/
def State.freeSlot (s : State) (core : Nat) : Nat :=
  match s.cores.get core with
  | some c => (c.slots.findIdx? (·.isNone)).getD 64
  | none => 64

/-- One new group. -/
def State.birth (s : State) (team : Nat) (t : Task) (task : Nat) (index core octet blocks extra : Nat) (access : Bool)
    (partner : Option Nat) (pc : Pc) : State :=
  let slot := s.freeSlot core
  let gid := s.nextId
  let b : Birth :=
    { team := team, index := index, access := access, partner := partner, ctx := t.ctx, task := task, core := core,
      slot := slot, octet := octet, blocks := blocks, pc := pc, frag := gid + 1, idem := t.launch.idem }
  let s1 := s.takeRoom core octet (blocks + extra) gid slot
  { s1 with nextId := gid + 2, groups := s1.groups.set gid (Group.fresh b) }

/-- One pair of a new team, or one group. -/
def State.birthPair (s : State) (team task : Nat) (t : Task) (pc : Pc) (x : Nat × Nat × Nat) (alone : Bool) : State :=
  let l := t.launch
  if alone || l.nacc == 0 then s.birth team t task x.1 x.2.1 x.2.2 (ceil8 l.vregc) 0 false none pc
  else
    let g := s.nextId
    (s.birth team t task x.1 x.2.1 x.2.2 (ceil8 l.vregc) 8 false (some (g + 2)) pc).birth team t task x.1 x.2.1 x.2.2
      (ceil8 l.vrega) 0 true (some g) pc

/-- The acquire of a task's first placement on a core (R427). -/
def State.firstPlacement (s : State) (task core : Nat) : State :=
  match s.tasks.get task with
  | none => s
  | some t =>
    if t.placedOn.contains core then s
    else (s.dropForeign core).updTask task (fun t => { t with placedOn := t.placedOn ++ [core] })

/-- The cluster SRAM of a task is reserved once per cluster, from the halves that the context holds there, A first (R300;
log 135). -/
def State.reserveSram (s : State) (ctx task cluster n : Nat) : State :=
  let a := match s.ctxs.get ctx with
    | some c => if (c.halvesIn cluster).contains 0 then min (sramUnits n) (s.fcsram cluster 0) else 0
    | none => 0
  s.updCluster cluster (fun k =>
    if (k.taken.get task).isSome then k else { k with taken := k.taken.set task (a, sramUnits n - a) })

/-- A reservation, taken from the halves that its context holds now (R300); reservations that together exceed the one half left stand
there (DESIGN CHOICE, log 167). -/
def resplit (halves : List Nat) (x : Nat × Nat) : Nat × Nat :=
  if halves = [0] then (x.1 + x.2, 0) else if halves = [1] then (0, x.1 + x.2) else x

/-- Where a context holds one half of a cluster only, what its tasks have reserved there lies in that half (R300). -/
def State.resplitSram (s : State) : State :=
  { s with clusters := s.clusters.map (fun (e : Nat × Cluster) => (e.1, { e.2 with taken := e.2.taken.map (fun (x : Nat × Nat × Nat) =>
      (x.1, match (s.tasks.get x.1).bind (fun t => s.ctxs.get t.ctx) with
        | some c => resplit (c.halvesIn e.1) x.2
        | none => x.2)) })) }

/-- The cores of a spot made ready for a task of the context. -/
def State.openSpot (s : State) (ctx task : Nat) (l : Launch) (x : Spot) : State :=
  (x.cores.foldl (fun s k => (s.claimHalf ctx k).firstPlacement task k) s).reserveSram ctx task x.cluster l.csram

def State.onProgress (s : State) (ctx : Nat) (cores : List Nat) : Bool :=
  match (s.ctxs.get ctx).bind (fun c => c.held.progress) with
  | some h => cores.any (fun k => coreHalf k == h)
  | none => false

/-- An entry leaves its team's queue: waiting ENQs and last EXITs are looked at again. -/
def State.entryLeft (s : State) (task team : Nat) : State :=
  let s1 := s.updTeam team (fun x => { x with pendingQ := x.pendingQ.filter (fun k => k != task) })
  match s1.teams.get team with
  | none => s1
  | some x =>
    (s1.liveGroups x).foldl (fun s e =>
      if e.2.exitWait.isSome then s.push (.groupLeavesCore e.1) else s)
      (s1.admitEnqs team 4)

/-- An entry leaves its queue when every team of its grid has been placed (R282). -/
def State.entryPlaced (s : State) (task : Nat) : State :=
  match s.tasks.get task with
  | none => s
  | some t =>
    match t.parent with
    | none => s
    | some p => if t.unplaced then s else s.entryLeft task p

/-- The next team of a task is placed whole (R153, R303). -/
def State.placeNew (s : State) (id : Nat) (t : Task) (x : Spot) : State :=
  let alone := s.seedAlone t
  let pc := (Pc.ofAddr t.launch.entry).getD ⟨t.launch.entry, 0⟩
  let team := s.nextId
  let s1 := { s.openSpot t.ctx id t.launch x with nextId := team + 1 }
  let s2 := x.plan.foldl (fun s p => s.birthPair team id t pc p alone) s1
  let gids := (s2.groups.filter (fun e => e.2.team == team)).map (·.1)
  let n := gids.length
  let new : Team :=
    { task := id, ctx := t.ctx, index := t.nextTeam, die := x.cluster / 22, cluster := x.cluster % 22, cores := x.cores,
      groups := gids, state := .resident, barriers := List.replicate 16 Barrier.fresh, pendingQ := [], waitingEnqs := [],
      progress := s.onProgress t.ctx x.cores, spoiled := false, tiles := [], stagings := [], owed3A := none,
      dropped := [], avoid := none, moved := none }
  let s3 := { s2 with teams := s2.teams.set team new,
                      cmds := s2.cmds.upd t.cmd (fun c => { c with count := c.count + n, placed := true }) }
  (s3.updTask id (fun t =>
    { t with nextTeam := t.nextTeam + 1, groupsLive := t.groupsLive + n, seedOnly := alone,
             groupsLeft := if alone then 0 else t.groupsLeft - n })).entryPlaced id

end Sys2Proof.Machine
end

