-- ==== Sys2Proof/Machine/Preempt.lean ====
section
/-! DEFINITION. Pre-emption of whole teams: save, restore, flush-and-restart, drain, swap-out and swap-in (spec/04 R138; spec/12
R251; spec/14 R281, R283, R284; spec/17 R329; spec/25 R452-R456). The records of a saved team in the state hold what its image of
R455 holds; the bytes that the image takes in the save area are free values (log 72). -/

namespace Sys2Proof.Machine

open Sys2Proof

/-! ### Save (R138, R183, R251, R329, R454, R455) -/

/-- A fragment at a save: its waiting instruction restarts whole on restore, but for an access that stands in the image with
its operands; parked slices that are due run; a yield stands (R138, R183, R190, R217). -/
def Frag.saved (kept : Nat → Bool) (f : Frag) : Frag :=
  match f.status with
  | .waiting .park => f.unpark
  | .waiting (.access id) => if kept id then f else { f with status := .ready, waitFrom := none, begun := false }
  | .waiting _ => { f with status := .ready, waitFrom := none, begun := false }
  | .yielding _ _ => f
  | .ready => f

/-- Logged instructions of a group at a save: those that restart whole are dropped, the others keep their entries (R138). -/
def savedOps (ops : List MemOp) (gid : Nat) : List MemOp := ops.filter (fun o => !(o.gid == gid && o.whole))

/-- A group's side-logged entries in the order in which they entered the log (R135). -/
def State.sideEntries (s : State) (gid : Nat) : List MemOp :=
  ((s.ops.filter (fun o => o.gid == gid && o.stage == .sideLogged)).foldl (fun l o => insertKey o.seq o l) []).map (·.2)

/-- Side-logged entries of a group, in order, are performed as far as they can be now (R135, R138). -/
def State.replayEntries (s : State) : List MemOp → State
  | [] => s
  | o :: t =>
    match s.replayEntry o with
    | .done s1 => State.replayEntries s1 t
    | _ => s

def State.replayGroup (s : State) (gid : Nat) : State := s.replayEntries (s.sideEntries gid)

/-- Every dirty line of a context in a core's L1 is written back: a fragment may have read there what another group wrote, and
reads nothing older on the core of its restore (R228, R454). -/
def State.cleanCtx (s : State) (core ctx : Nat) : State :=
  match s.cores.get core with
  | none => s
  | some c => ((c.l1.filter (fun l => l.isDirty && l.ctx == ctx)).map (·.line)).foldl (fun s k => s.writeBack core k) s

/-- What one group does at a save before it leaves its core: the open region aborts with 0x07, entries replay, dirty lines
are cleaned. -/
def State.quiesce (s : State) (gid : Nat) : State :=
  let s1 := s.abortGroup gid 0x07 0 none
  let s2 := s1.replayGroup gid
  match s2.groups.get gid with
  | none => s2
  | some g =>
    let s3 := (s2.cleanCore g.core gid).cleanCtx g.core g.ctx
    let kept (id : Nat) : Bool := s3.ops.any (fun o => o.id == id && o.waits)
    { s3.updGroup gid (fun g => { g with frags := g.frags.map (Frag.saved kept) }) with ops := savedOps s3.ops gid }

/-- Groups of a context still resident on a half, outside one team. -/
def State.othersOnHalf (s : State) (ctx team half : Nat) : Bool :=
  s.groups.any (fun e => e.2.ctx == ctx && e.2.team != team && halfNo e.2.core == half && s.onCore e.2)

/-- The halves of a team's cores. -/
def Team.halves (t : Team) : List Nat := (t.cores.map halfNo).eraseDups

/-- The four tiles of a half that the save leaves without a resident group of the context go into the image (R329). -/
def State.saveTiles (s : State) (id : Nat) (t : Team) : State :=
  t.halves.foldl (fun s h =>
    if s.othersOnHalf t.ctx id h then s
    else
      match s.halves.get h with
      | none => s
      | some x =>
        (s.updTeam id (fun t => { t with tiles := t.tiles ++ [(h, x.tiles)] })).updHalf h (fun x =>
          { x with tiles := [], owner := none })) s

/-- Held staging buffers of the team's groups. -/
def State.saveStagings (s : State) (id : Nat) (t : Team) : State :=
  t.halves.foldl (fun s h =>
    match (s.halves.get h).bind (·.staging) with
    | some x =>
      if t.groups.contains x.1 then
        (s.updTeam id (fun t => { t with stagings := t.stagings ++ [x] })).updHalf h (fun y => { y with staging := none })
      else s
    | none => s) s

/-- The task's cluster SRAM goes into the image with its last team on the cluster. -/
def State.saveSram (s : State) (id : Nat) (t : Team) : State :=
  if s.taskOnCluster t.task t.die t.cluster id then s
  else
    let k := 22 * t.die + t.cluster
    match s.clusters.get k with
    | none => s
    | some c =>
      (s.updTask t.task (fun x => { x with images := x.images.set k (memOf c.sram t.task) })).updCluster k (fun c =>
        { c with sram := c.sram.del t.task, taken := c.taken.del t.task })

/-- The team is on its cores. -/
def Team.onCores (t : Team) : Bool := match t.state with | .resident => true | .draining _ => true | _ => false

/-- No fragment of a group is one chosen to issue. -/
def State.dropCur (s : State) (gids : List Nat) : State :=
  { s with cur := s.cur.filter (fun c => !gids.contains c.gid), second := s.second.filter (fun x => !gids.contains x.gid) }

/-- Units and log entries that a group has given up: what waited on them is looked at again (R134, R137, R222). -/
def State.unitsFree (s : State) (gid : Nat) (g : Group) : State := s.opGone g.core gid

/-! ### The image in the save area (R454, R455) -/

/-- The items of an image to which the spec gives a size and no layout (R455): 0 fragments, 1 control registers, 2 queue window, 3 batches
and engines, 4 matrix forms, of a group; 5 logged instructions to issue again, 6 side-log entries, of its entries. -/
opaque imagePart : Nat → Group → List MemOp → List Byte

/-- The same of a team: barrier state and pending-launch queue. -/
opaque teamPart : Team → List Byte

def rowBytes (r : Row) : List Byte := (range 0 32).flatMap (fun l => natBytes 4 (r.getD l 0).toNat)

/-- The items of a group that the spec lays out as registers: its window, s0 to s63, and the retired-instruction count. -/
def Group.regImage (g : Group) : List Byte :=
  (range 0 (8 * g.blocks)).flatMap (fun n => rowBytes (g.row n)) ++ (range 0 64).flatMap (fun n => natBytes 8 (g.s? n).toNat) ++
    natBytes 8 g.retired

/-- A group with the registers that its image holds from a byte on. -/
def Group.fromImage (g : Group) (b : List Byte) : Group :=
  let k := 1024 * g.blocks
  { g with
    v := (range 0 (8 * g.blocks)).map (fun n => rowOf (fun l => BitVec.ofNat 32 (bytesNat ((b.drop (128 * n + 4 * l)).take 4)))),
    s := (range 0 64).map (fun n => BitVec.ofNat 64 (bytesNat ((b.drop (k + 8 * n)).take 8))),
    retired := bytesNat ((b.drop (k + 512)).take 8) }

/-- The other items of a group; what it holds of its matrix unit takes up to 80 KiB, of which the image keeps room (R455). -/
def State.groupImage (s : State) (gid : Nat) (g : Group) : List Byte :=
  let mine := s.ops.filter (fun o => o.gid == gid)
  let log := mine.filter (fun o => o.stage != .sideLogged)
  let side := mine.filter (fun o => o.stage == .sideLogged)
  fit 256 (imagePart 0 g []) ++ fit 1024 (imagePart 1 g []) ++ (if g.queues.isEmpty then [] else fit 8192 (imagePart 2 g [])) ++
    fit 512 (imagePart 3 g []) ++ (if g.eng.matrix == MxState.fresh then [] else fit 81920 (imagePart 4 g [])) ++
    fit (64 * log.length) (imagePart 5 g log) ++ fit (1088 * side.length) (imagePart 6 g side)

/-- The bytes of a half's four tiles, and the tiles of such bytes. -/
def tileBytes (t : List (List (List W32))) : List Byte :=
  (range 0 4).flatMap (fun a => (range 0 32).flatMap (fun r => rowBytes ((t.getD a []).getD r [])))

def tilesFrom (b : List Byte) : List (List (List W32)) :=
  (range 0 4).map (fun a => (range 0 32).map (fun r => rowOf (fun c =>
    BitVec.ofNat 32 (bytesNat ((b.drop (4096 * a + 128 * r + 4 * c)).take 4)))))

/-- The cluster SRAM that a team's image holds, where it was its task's last team on the cluster. -/
def State.imageSram (s : State) (t : Team) : Option Mem := (s.tasks.get t.task).bind (fun x => x.images.get (22 * t.die + t.cluster))

/-- The image of a saved team (R455). The order of its items is the model's (DESIGN CHOICE, log 72). -/
def State.teamImage (s : State) (t : Team) : List Byte :=
  let live := s.liveGroups t
  live.flatMap (fun e => e.2.regImage) ++ t.tiles.flatMap (fun x => tileBytes x.2) ++
    (match s.imageSram t with | some m => m.readN 0 (s.launchOf t.task).csram | none => []) ++
    live.flatMap (fun e => s.groupImage e.1 e.2) ++ fit 2304 (teamPart t)

/-- The first byte of a context's save area behind the images that stand there. -/
def State.imagePlace (s : State) (ctx base : Nat) : Nat :=
  s.teams.foldl (fun a e => if e.2.ctx = ctx then (match e.2.image with | some (b, n, _) => max a (b + n) | none => a) else a) base

/-- The image is written to the save area that the operator has assigned, and its CRC-32 kept (R454, R458). -/
def State.writeImage (s : State) (id : Nat) : State :=
  match s.teams.get id with
  | none => s
  | some t =>
    match s.ctxs.get t.ctx with
    | none => s
    | some c =>
      if c.saveArea = 0 then s
      else
        let at_ := s.imagePlace t.ctx c.saveArea.toNat
        let b := s.teamImage t
        (s.writeHome feCore t.ctx s.nextId false ((range at_ b.length).map .spa) b).updTeam id (fun t =>
          { t with image := some (at_, b.length, crc32 b) })

/-- What an image says of the registers of some groups, one after the other. -/
def State.groupsFrom (s : State) (b : List Byte) : List (Nat × Group) → State
  | [] => s
  | e :: t =>
    State.groupsFrom (s.updGroup e.1 (fun g => g.fromImage b)) (b.drop (1024 * e.2.blocks + 520)) t

/-- A restore reads the image: registers, tiles and cluster SRAM are what stands in the save area; the items without a layout stand in the
records of the state (R454; log 72). -/
def State.readImage (s : State) (id : Nat) (t : Team) : State :=
  match t.image with
  | none => s
  | some (at_, n, _) =>
    let b := s.mem.sys.readN at_ n
    let live := s.liveGroups t
    let k := sumNat (live.map (fun e => 1024 * e.2.blocks + 520))
    let tiles := (range 0 t.tiles.length).map (fun i => ((t.tiles.getD i (0, [])).1, tilesFrom (b.drop (k + 16384 * i))))
    let s1 := (s.groupsFrom b live).updTeam id (fun t => { t with tiles := tiles })
    match s.imageSram t with
    | none => s1
    | some _ =>
      let m := Mem.writeL [] 0 ((b.drop (k + 16384 * t.tiles.length)).take (s.launchOf t.task).csram)
      s1.updTask t.task (fun x => { x with images := x.images.set (22 * t.die + t.cluster) m })

/-- The image of a team is intact: its CRC-32 is the one that was written (R458). -/
def State.imageIntact (s : State) (t : Team) : Bool :=
  match t.image with
  | none => true
  | some (at_, n, crc) => crc32 (s.mem.sys.readN at_ n) == crc

/-- The save of a team (R454). -/
def State.saveTeam (s : State) (id : Nat) (why : SaveReason) : State :=
  match s.teams.get id with
  | none => s
  | some t =>
    if !t.onCores then s
    else
      let live := s.liveGroups t
      let s1 := live.foldl (fun s e => s.quiesce e.1) (s.dropCur t.groups)
      let s2 := ((s1.saveStagings id t).saveTiles id t).saveSram id t
      let s3 := live.foldl (fun s e =>
        match s.groups.get e.1 with
        | some g => s.releaseGroup e.1 { g with tryR := none }
        | none => s) s2
      ((live.foldl (fun s e => s.unitsFree e.1 e.2) (s3.updTeam id (fun t =>
        { t with state := .saved why, waitingEnqs := [] })))).writeImage id

/-- PREEMPT_SAVE (R454). -/
def execPreemptSave (team : Nat) (why : SaveReason) (s : State) : Host.Outcome State Fault Refusal :=
  .next (s.saveTeam team why)

/-! ### Restore (R224, R329, R454) -/

/-- One group takes its place again. -/
def State.seatGroup (s : State) (gid : Nat) (core octet extra : Nat) : State :=
  match s.groups.get gid with
  | none => s
  | some g =>
    let slot := s.freeSlot core
    let s1 := s.takeRoom core octet (g.blocks + extra) gid slot
    { s1.updGroup gid (fun g => { g with core := core, slot := slot, octet := octet })
      with ops := s1.ops.map (fun o => if o.gid == gid then { o with core := core } else o) }

/-- The live groups of one index take their places. -/
def State.seatPair (s : State) (t : Team) (x : Nat × Nat × Nat) : State :=
  (s.liveGroups t).foldl (fun s e =>
    if e.2.index = x.1 then s.seatGroup e.1 x.2.1 x.2.2 (if !e.2.access && e.2.partner.isSome then 8 else 0) else s) s

/-- The half on which a saved half's groups now run. -/
def newHalf (old : List (Nat × Group)) (s : State) (h : Nat) : Option Nat :=
  (old.find? (fun e => halfNo e.2.core == h)).bind (fun e => (s.groups.get e.1).map (fun g => halfNo g.core))

/-- Saved tiles are loaded where the context had no resident group (R329). Where the groups of two saved halves meet on one half, the
copy saved later stands; where those of one half part, its first group takes the copy. DESIGN CHOICE (log 158). -/
def State.loadTiles (s : State) (id : Nat) (t : Team) (old : List (Nat × Group)) : State :=
  (t.tiles.foldl (fun s x =>
    match newHalf old s x.1 with
    | none => s
    | some h =>
      if s.othersOnHalf t.ctx id h then s
      else s.updHalf h (fun y => { y with tiles := x.2, owner := some t.ctx })) s).updTeam id (fun t => { t with tiles := [] })

def State.loadStagings (s : State) (id : Nat) (t : Team) : State :=
  (t.stagings.foldl (fun s x =>
    match s.groups.get x.1 with
    | some g => s.updHalf (halfNo g.core) (fun h => { h with staging := some x })
    | none => s) s).updTeam id (fun t => { t with stagings := [] })

/-- The saved cluster SRAM of the task is loaded where no team of it stands on the cluster. -/
def State.loadSram (s : State) (t : Team) (cluster : Nat) (stood : Bool) : State :=
  let k := 22 * t.die + t.cluster
  match (s.tasks.get t.task).bind (fun x => x.images.get k) with
  | none => s
  | some m =>
    let s1 := if stood then s else s.updCluster cluster (fun c => { c with sram := c.sram.set t.task m })
    s1.updTask t.task (fun x => { x with images := x.images.del k })

/-- No staging buffer that the team brings meets one that another group holds. -/
def State.stagingFree (s : State) (t : Team) (x : Spot) : Bool :=
  t.stagings.isEmpty || x.cores.all (fun k => ((s.halves.get (halfNo k)).bind (·.staging)).isNone)

/-- The 0x3A that a group receives at its restore (R462). -/
def State.raise3A (s : State) (id : Nat) (t : Team) : State :=
  match t.owed3A with
  | none => s
  | some (gid, a) =>
    let s1 := s.updTeam id (fun t => { t with owed3A := none })
    match s1.engineWho gid with
    | some w => s1.raiseLate w 0x3A a
    | none => s1

/-- The contributions of some groups, one by one. -/
def RedGen.entriesOf (r : RedGen) (gids : List Nat) : List RedEntry :=
  (r.rows.filter (fun x => gids.contains x.1)).map (fun x => ⟨r.task, r.dest, r.op, r.count, x.1, x.2.1, x.2.2, r.mixed⟩)

/-- A cluster without the contributions of some groups; a generation without any is closed. -/
def Cluster.dropReds (c : Cluster) (gids : List Nat) : Cluster :=
  { c with
    reds := (c.reds.map (fun r => { r with rows := r.rows.filter (fun x => !gids.contains x.1) })).filter
              (fun r => !r.rows.isEmpty),
    redWait := c.redWait.filter (fun e => !gids.contains e.gid) }

/-- Contributions to open reductions go with their groups to the cluster where these are restored, and join its generations as its
limits allow (R258, R260; log 136). -/
def State.moveReds (s : State) (gids : List Nat) (from_ to_ : Nat) : State :=
  if from_ = to_ then s
  else
    match s.clusters.get from_ with
    | none => s
    | some c =>
      let out := c.reds.flatMap (fun r => r.entriesOf gids) ++ c.redWait.filter (fun e => gids.contains e.gid)
      (((s.updCluster from_ (fun c => c.dropReds gids)).updCluster to_ (fun c => { c with redWait := c.redWait ++ out })).offerCluster
        from_).offerCluster to_

/-- An image that is not intact gives 0x3D, late, to every group that it restores (R436, R458; log 105). -/
def State.raise3D (s : State) (gids : List Nat) : State :=
  gids.foldl (fun s k =>
    match s.engineWho k with
    | some w => (s.raiseLate w 0x3D none).fatal (w.record 0x3D .fatal .none 0 0 0)
    | none => s) s

/-- What a restored group's image still owes: refusals that came while it was saved, then side-log entries in order, then its
other logged instructions issue again, and consumers and destinations are looked at (R138, R251, R260). An entry whose page is
still unmapped keeps its group from issuing until it is replayed (R138). -/
def State.resumeOps (s : State) (gid : Nat) : State :=
  let refused := s.ops.filterMap (fun (o : MemOp) => if o.gid = gid then o.refused.map (fun r => (o, r)) else none)
  let s1 := refused.foldl (fun s x =>
    match s.op? x.1.id, s.opWho x.1 with
    | some o, some w => s.refuseOp { o with refused := none } w x.2.1 x.2.2
    | _, _ => s) s
  let s2 := s1.replayGroup gid
  let s3 : State := { s2 with ops := s2.ops.map (fun (o : MemOp) =>
    if o.gid == gid && o.stage == OpStage.held then { o with stage := OpStage.issued }
    else if o.gid == gid && o.stage == OpStage.sideLogged then { o with first := true } else o) }
  let s4 := s3.offerOwed gid
  match s4.groups.get gid with
  | none => s4
  | some g => g.eng.collWrites.foldl (fun s (o : CollWrite) => s.retryColl o.id) s4

/-- A saved team takes its places on a spot; the cores' copies of other dies' lines are dropped, which may be older than what its
fragments have read (R228, R454). -/
def State.restoreAt (s0 : State) (id : Nat) (t0 : Team) (x : Spot) : State :=
  let s := s0.readImage id t0
  let t := (s.teams.get id).getD t0
  let old := s.liveGroups t
  let l := s.launchOf t.task
  let stood := s.sramHeld t.task x.cluster
  let s1 := s.openSpot t.ctx t.task l x
  let s2 := x.plan.foldl (fun s p => s.seatPair t p) s1
  let s3 := ((s2.loadTiles id t old).loadStagings id t).loadSram t x.cluster stood
  let s4 := s3.updTeam id (fun t =>
    { t with state := .resident, die := x.cluster / 22, cluster := x.cluster % 22, cores := x.cores,
             progress := s.onProgress t.ctx x.cores, avoid := none, moved := none, image := none })
  let s5 := (x.cores.foldl (fun s k => s.dropForeign k) s4).moveReds (old.map (·.1)) (22 * t.die + t.cluster) x.cluster
  let s6 := (old.foldl (fun s e => s.resumeOps e.1) s5).raise3A id t
  if s0.imageIntact t0 then s6 else s6.raise3D (old.map (·.1))

/-- Where a saved team can be placed whole; from 105 °C no team is placed (R474). -/
def State.restoreSpot (s : State) (id : Nat) (closed : List Nat) : Option (Team × Spot) :=
  match s.teams.get id with
  | none => none
  | some t =>
    match t.state with
    | .saved _ =>
      if s.mgmt.thermal = .sevenEighths then none
      else
        match s.spot (s.askSaved t) closed with
        | none => none
        | some x => if s.stagingFree t x then some (t, x) else none
    | _ => none

/-- The team is restored where the distributor can place it whole. -/
def State.restoreTeam (s : State) (id : Nat) (closed : List Nat) : Option State :=
  (s.restoreSpot id closed).map (fun x => s.restoreAt id x.1 x.2)

/-- CONTEXT_RESTORE (R454), outside the regions of aged candidates before it (R306). -/
def execContextRestore (team : Nat) (s : State) : Host.Outcome State Fault Refusal :=
  .next ((s.restoreTeam team (s.closedTo team)).getD s)

/-- 64 intervals in cycles (R462). -/
def sixtyFour : Nat := 28800000

/-- A move that has found no core for 64 intervals: a fatal record, and 0x3A waits for the restore, on any core (R462). -/
def State.oweMoved (s : State) (id : Nat) (t : Team) : State :=
  match t.moved with
  | none => s
  | some (gid, a, since) =>
    if t.onCores ∨ (s.clock - since).toNat < sixtyFour then s
    else
      let s1 := s.updTeam id (fun t => { t with owed3A := some (gid, a), moved := none, avoid := none })
      match s1.engineWho gid with
      | some w => s1.fatal (w.record 0x3A .fatal .none (a.getD 0) 0 0)
      | none => s1

def State.oweAll (s : State) : State := s.teams.foldl (fun s e => s.oweMoved e.1 e.2) s

/-! ### Drain (R454) -/

/-- 100 µs in cycles (R454). -/
def drainLimit : Nat := 180000

/-- DRAIN_TIMEOUT (R454). -/
def execDrainTimeout (team : Nat) (s : State) : Host.Outcome State Fault Refusal :=
  .next (match s.teams.get team with
    | none => s
    | some t =>
      match t.state with
      | .draining since => if drainLimit ≤ (s.clock - since).toNat then s.saveTeam team .operator else s
      | _ => s)

/-! ### Flush-and-restart (R454) -/

/-- A group as it was at its placement. -/
def State.restart (s : State) (gid : Nat) (g : Group) : Group :=
  let l := s.launchOf g.task
  let pc := (Pc.ofAddr l.entry).getD ⟨l.entry, 0⟩
  Group.fresh
    { team := g.team, index := g.index, access := g.access, partner := g.partner, ctx := g.ctx, task := g.task,
      core := g.core, slot := g.slot, octet := g.octet, blocks := ceil8 (if g.access then l.vrega else l.vregc),
      pc := pc, frag := gid + 1, idem := l.idem }

/-- What a group's state leaves elsewhere goes: logged instructions, lane-private slices, entries of open reductions. -/
def State.discardGroup (s : State) (gid : Nat) (g : Group) : State :=
  let s1 := s.releaseGroup gid g
  { s1.updCluster (clusterNo g.core) (fun c => c.dropReds [gid])
    with ops := s1.ops.filter (fun o => o.gid != gid),
         mem := { s1.mem with priv := dropPriv s1.mem.priv gid } }

/-- The team's state is discarded, and its live groups wait to be placed again from their entry. -/
def State.flushTeam (s : State) (id : Nat) : State :=
  match s.teams.get id with
  | none => s
  | some t =>
    if !t.onCores then s
    else
      let s1 := (s.liveGroups t).foldl (fun s e =>
        State.unitsFree ((s.discardGroup e.1 e.2).setGroup e.1 (s.restart e.1 e.2)) e.1 e.2) (s.dropCur t.groups)
      let s2 := { s1 with groups := s1.groups.map (fun (e : Nat × Group) =>
        if e.2.team = id then (e.1, { e.2 with retired := 0 }) else e) }
      ((s2.freeSram id t).updTeam id (fun t =>
        { t with state := .saved .operator, barriers := List.replicate 16 Barrier.fresh, waitingEnqs := [] })).offerCluster
          (22 * t.die + t.cluster)

/-! ### The choice of the mode (R453) -/

inductive PreemptMode where | drain | flush | save deriving DecidableEq, Repr

/-- The mode of an operator or reliability pre-emption. -/
def State.preemptMode (s : State) (t : Team) : PreemptMode :=
  let l := s.launchOf t.task
  let total := l.hint * t.groups.length
  let done := ((t.groups.filterMap (fun k => s.groups.get k)).map (·.retired)).foldl (· + ·) 0
  if l.hint = 0 then .save
  else if 10 * total < total + 10 * done then .drain
  else if l.idem ∧ !t.spoiled ∧ 4 * done < total then .flush
  else .save

/-- PREEMPT_DRAIN: a team for which the rule chooses it issues on (R453, R454). -/
def execPreemptDrain (team : Nat) (s : State) : Host.Outcome State Fault Refusal :=
  .next (s.updTeam team (fun t =>
    match t.state with
    | .resident => if s.preemptMode t = .drain then { t with state := .draining s.clock } else t
    | _ => t))

/-- PREEMPT_FLUSH_RESTART: a team for which the rule chooses it is discarded, then placed again as soon as it fits (R453, R454). -/
def execPreemptFlushRestart (team : Nat) (s : State) : Host.Outcome State Fault Refusal :=
  .next (match s.teams.get team with
    | none => s
    | some t =>
      if t.state = .resident ∧ s.preemptMode t = .flush then
        let s1 := s.flushTeam team
        (s1.restoreTeam team (s1.closedTo team)).getD s1
      else s)

/-- An operator or reliability pre-emption (R452, R453, R456). -/
def State.preempt (s : State) (id : Nat) (why : SaveReason) : State :=
  match s.teams.get id with
  | none => s
  | some t =>
    match t.state with
    | .resident =>
      match s.preemptMode t with
      | .drain => s.updTeam id (fun t => { t with state := .draining s.clock })
      | .flush => s.flushTeam id
      | .save => s.saveTeam id why
    | _ => s

/-! ### Swap-out and swap-in (R283, R284) -/

/-- The fragment waits, and is neither held at an access, a fetch or a unit nor ready (R217). -/
def Frag.waits (f : Frag) : Bool :=
  match f.status with
  | .ready => false
  | .yielding _ _ => false
  | .waiting .hold => false
  | .waiting (.access _) => false
  | .waiting (.engine _) => false
  | .waiting (.third _ _ _) => false
  | .waiting (.fetch _) => false
  | .waiting .trapQueue => false
  | .waiting _ => true

/-- Every fragment of a group waits (R217). -/
def Group.allWait (g : Group) : Bool := g.frags.all Frag.waits

/-- A fragment waits in ENQ, in JOIN or at its last EXIT. -/
def Group.waitsForChild (g : Group) : Bool :=
  g.frags.any (fun f =>
    match f.status with
    | .waiting (.enq _) => true
    | .waiting (.counter _ _) => true
    | .waiting .exit => true
    | _ => false)

/-- The serving entry of a team would be placed now: its entry line is there, and it fits outside the regions that are closed to
it (R279, R306, R474). -/
def State.entryFits (s : State) (id k : Nat) (x : Task) : Bool :=
  let s1 := s.refresh x.ctx
  s.placing && s.entrySeen x &&
    (s1.spot (s1.askNew k x) (s1.closedBy (fun c => c.src == .pending id) (s1.ordered x.ctx))).isSome

/-- The team may be swapped out: it waits, and its own serving entry would be placed in its room (R283). -/
def State.swapReady (s : State) (id : Nat) (t : Team) : Bool :=
  let live := s.liveGroups t
  t.onCores && live.all (fun e => e.2.allWait) && live.any (fun e => e.2.waitsForChild) &&
    (match s.serving t with
     | none => false
     | some k =>
       match s.tasks.get k with
       | none => false
       | some x => !s.entryFits id k x && (s.saveTeam id .swapOut).entryFits id k x)

/-- TEAM_SWAP_OUT (R283). -/
def execTeamSwapOut (team : Nat) (s : State) : Host.Outcome State Fault Refusal :=
  .next (match s.teams.get team with
    | none => s
    | some t => if s.swapReady team t then s.saveTeam team .swapOut else s)

/-- TEAM_SWAP_IN (R284). -/
def execTeamSwapIn (team : Nat) (s : State) : Host.Outcome State Fault Refusal :=
  .next (match s.teams.get team with
    | none => s
    | some t => if t.state = .saved .swapOut ∧ t.pendingQ.isEmpty then (s.restoreTeam team (s.closedTo team)).getD s else s)

end Sys2Proof.Machine
end

