-- ==== Sys2Proof/Machine/Round.lean ====
section
/-! DEFINITION. Placement rounds and the ageing of candidates (spec/15 R304-R308; spec/26 R474). -/

namespace Sys2Proof.Machine

open Sys2Proof

/-- Where a candidate would go: its entry line has been checked, and it fits outside the closed clusters. -/
def State.candSpot (s : State) (c : Candidate) (closed : List Nat) : Option Spot :=
  match c.src with
  | .swapped t => (s.restoreSpot t closed).map (·.2)
  | _ =>
    match s.tasks.get c.task with
    | none => none
    | some t => if s.entrySeen t then s.spot (s.askNew c.task t) closed else none

/-- The candidate is placed on its spot. -/
def State.placeCand (s : State) (c : Candidate) (x : Spot) : State :=
  match c.src with
  | .swapped k => (match s.teams.get k with | some t => s.restoreAt k t x | none => s)
  | _ => (match s.tasks.get c.task with | some t => s.placeNew c.task t x | none => s)

/-- The first candidate in order that fits, with its spot; an aged one before it closes its region (R306). -/
def State.firstFit (s : State) : List Candidate → List Nat → Option (Candidate × Spot)
  | [], _ => none
  | c :: t, closed =>
    match s.candSpot c closed with
    | some x => some (c, x)
    | none => State.firstFit s t (if s.waited c then closed ++ s.candRegion c else closed)

/-- Nothing but room keeps a candidate from its place: its entry line has been seen (R279). -/
def State.tried (s : State) (c : Candidate) : Bool :=
  match c.src with
  | .swapped _ => true
  | _ => (match s.tasks.get c.task with | some t => s.entrySeen t | none => false)

/-- The candidates that do not fit, in the order in which a round tries them, among regions closed before (R305, R306). -/
def State.unfit (s : State) : List Candidate → List Nat → List Candidate
  | [], _ => []
  | c :: t, closed =>
    if (s.candSpot c closed).isSome then State.unfit s t closed
    else
      let rest := State.unfit s t (if s.waited c then closed ++ s.candRegion c else closed)
      if s.tried c then c :: rest else rest

/-- A context's candidates that a round passes over. -/
def State.passedOver (s : State) (ctx : Nat) : List Candidate := s.unfit (s.ordered ctx) []

/-- Every candidate that the round passes over waits from now on (R306). -/
def State.startWaiting (s : State) (ctx : Nat) : State :=
  let l := s.passedOver ctx
  { s with fe := { s.fe with cands := s.fe.cands.map (fun c =>
      if l.contains c then { c with waitingSince := c.waitingSince.orElse (fun _ => some s.clock) } else c) } }

/-- The cycles that a placement decision takes (R303). -/
def decisionTime : Nat := 16

/-- The die's distributor is still at a placement decision (R303). -/
def State.deciding (s : State) (die : Nat) : Bool :=
  match s.dies.get die with
  | some d => s.clock.toNat < d.decideAt.toNat
  | none => false

/-- A decision of a round: those that do not fit wait from now on, and the first candidate that fits is placed (R305, R306). The next
decision on that die follows 16 cycles later (R303). -/
def State.round (s : State) (ctx : Nat) : State :=
  let s0 := s.refresh ctx
  let s1 := s0.startWaiting ctx
  match s1.firstFit (s1.ordered ctx) [] with
  | some (c, x) =>
    let die := x.cluster / 22
    if s1.deciding die then s1
    else (s1.placeCand c x).updDie die (fun d => { d with decideAt := s.clock + BitVec.ofNat 64 decisionTime })
  | none => s1

/-- The faults of the entry lines that the front end has fetched are reported, and their tasks hold (R279, R280). -/
def State.seekEntries (s : State) (ctx : Nat) : State :=
  (s.tasks.filter (fun e => e.2.ctx == ctx && e.2.unplaced && s.eligible e.1 e.2)).foldl (fun s e =>
    match s.entryMiss e.2 with
    | some (a, f) => (s.feMiss ctx a f (e.2.heldAt a)).updTask e.1 (fun t => t.holdAt a)
    | none =>
      match s.entryLine e.2 with
      | .blocked _ _ => s
      | _ => s.updTask e.1 (fun t => { t with held := t.held.filter (fun a => a.toNat / 128 != e.2.launch.entry.toNat / 128) })) s

/-- PLACEMENT_ROUND (R305): one decision of it. -/
def execPlacementRound (ctx : Nat) (s : State) : Host.Outcome State Fault Refusal :=
  .next (if s.placing then ((s.forwardAll ctx).seekEntries ctx).round ctx else s)

def State.setCand (s : State) (k : Nat) (f : Candidate → Candidate) : State :=
  match s.fe.cands[k]? with
  | none => s
  | some c => { s with fe := { s.fe with cands := s.fe.cands.set k (f c) } }

/-- CANDIDATE_AGED (R306): the k-th candidate. -/
def execCandidateAged (ctx cand : Nat) (s : State) : Host.Outcome State Fault Refusal :=
  .next (match s.fe.cands[cand]? with
    | none => s
    | some c =>
      if c.ctx = ctx ∧ !c.aged ∧ s.waited c ∧ !(s.candRegion c).isEmpty then
        s.setCand cand (fun c => { c with aged := true })
      else s)

/-- The record of code 0x28 (R307, R449). Its owner is the operator, which neither rule gives. DESIGN CHOICE (log 156). -/
def noRegionRecord (ctx : Nat) : TrapRec :=
  { code := 0x28, kind := .replayable, owner := .operator, ctx := ctx, count := 1, id := 0, gva := 0, gpa := 0, core := 0,
    slot := 0, data := 0 }

/-- CANDIDATE_NO_REGION (R307, R450). -/
def execCandidateNoRegion (ctx cand : Nat) (s : State) : Host.Outcome State Fault Refusal :=
  .next (match s.fe.cands[cand]? with
    | none => s
    | some c =>
      if c.ctx = ctx ∧ !c.noRegion ∧ s.waited c ∧ (s.candRegion c).isEmpty then
        match s.mgmt.addReplayable (noRegionRecord ctx) with
        | some m => State.setCand { s with mgmt := m } cand (fun c => { c with noRegion := true })
        | none => s
      else s)

end Sys2Proof.Machine
end

