-- ==== Sys2Proof/Machine/Front.lean ====
section
/-! DEFINITION. The front end and the command processor: dependences, the trigger point, the completion of commands, the
queue scheduler with its latches, the passes over mapped queues, and the packets (spec/12 R268; spec/14 R278-R293, R295;
spec/24 R425). -/

namespace Sys2Proof.Machine

open Sys2Proof

/-- A write of the front end at the point of coherence (R241). -/
def State.fePut (s : State) (ctx : Nat) (l : List Loc) (b : List Byte) : State := s.writeHome feCore ctx 0 false l b

/-! ### Dependences and the trigger point (R268, R280, R425) -/

/-- DEPENDENCE_MET (R280, R425): the k-th dependence, once its word has reached its value. -/
def execDependenceMet (task k : Nat) (s : State) : Host.Outcome State Fault Refusal :=
  .next (match s.tasks.get task with
    | none => s
    | some t =>
      match t.launch.deps[k]?, t.deps[k]? with
      | some d, some false =>
        match s.feLocs t.ctx d.1.toNat 8 .load with
        | .error (a, f) =>
          (s.feMiss t.ctx a f (t.heldAt a)).updTask task (fun t => t.holdAt a)
        | .ok l =>
          if d.2.toNat ≤ bytesNat (l.map s.homeByte) then
            State.forward ((s.feRead t.ctx d.1.toNat l).updTask task (fun t => { t.freeAt d.1 with deps := setAt true t.deps k true })) task
          else s
      | _, _ => s)

/-- TRIGGER_POINT (R268, R280): DONE gains 1, once. -/
def execTriggerPoint (task : Nat) (s : State) : Host.Outcome State Fault Refusal :=
  .next (match s.tasks.get task with
    | none => s
    | some t =>
      if !s.triggerReady task then s
      else if t.launch.done = 0 then s.updTask task (fun t => { t with triggered := true })
      else
        match s.feLocs t.ctx t.launch.done.toNat 8 .atomic with
        | .error (a, f) =>
          (s.feMiss t.ctx a f (t.heldAt a)).updTask task (fun t => t.holdAt a)
        | .ok l =>
          ((s.feNote t.ctx t.launch.done.toNat l).addHome feCore t.ctx 0 l 1).updTask task (fun t =>
            { t.freeAt t.launch.done with triggered := true }))

/-! ### Virtual interfaces and queue blocks (R288, R289, R297) -/

/-- The context to which a VI is bound. -/
def State.viCtx (s : State) (vi : Nat) : Option (Nat × Ctx) := s.ctxs.find? (fun e => e.2.vi == some vi)

/-- The context of a queue and the address of its block; none where QCB is 0. -/
def State.blockOf (s : State) (vq : Nat) : Option (Nat × W64) :=
  match s.viCtx (vq / 64) with
  | none => none
  | some (id, c) =>
    match c.qcb.find? (fun e => e.1 == vq % 64) with
    | some (_, a) => if a = 0 then none else some (id, a)
    | none => none

def State.setQueue (s : State) (vq : Nat) (q : Queue) : State := { s with fe := { s.fe with queues := s.fe.queues.set vq q } }

def State.updQueue (s : State) (vq : Nat) (f : Queue → Queue) : State :=
  { s with fe := { s.fe with queues := s.fe.queues.upd vq f } }

/-- The word at +40 of a block: EN, STOP, ERR. -/
def Queue.stateWord (q : Queue) : Nat := (if q.en then 512 else 0) + (if q.stop then 256 else 0) + q.err.toNat

/-- Bytes 16 to 47 of a block: what the device writes. -/
def Queue.image (q : Queue) : List Byte :=
  natBytes 8 q.tail.toNat ++ natBytes 8 q.head.toNat ++ natBytes 8 q.compl.toNat ++ natBytes 8 q.stateWord

/-- A queue's new state, kept and written to its block. -/
def State.putQueue (s : State) (vq : Nat) (q : Queue) : Except (Nat × WalkFail) State :=
  match s.blockOf vq with
  | none => .ok (s.setQueue vq q)
  | some (ctx, a) =>
    match s.feLocs ctx a.toNat 64 .store with
    | .error e => .error e
    | .ok l => .ok (((s.setQueue vq q).feNote ctx a.toNat l).fePut ctx ((l.drop 16).take 32) q.image)

/-- The queue holds on a missing mapping. -/
def State.queueMiss (s : State) (vq gva : Nat) (f : WalkFail) : State :=
  match s.fe.queues.get vq, s.viCtx (vq / 64) with
  | some q, some (ctx, _) =>
    (s.feMiss ctx gva f q.held).updQueue vq (fun q => { q with held := some (BitVec.ofNat 64 gva) })
  | _, _ => s

/-- The queue's page is there: it holds on none. -/
def State.queueFree (s : State) (vq : Nat) : State := s.updQueue vq (fun q => { q with held := none })

def Message.plain (kind vq : Nat) (seq stat : W32) (value : W64) : Message := ⟨kind, vq, seq, stat, value, []⟩

def State.send (s : State) (m : Message) : State := { s with fe := { s.fe with out := s.fe.out ++ [m] } }

/-- A COMPLETION or ERROR message, where NOTIFY names a port (R290, R291, R297); in the safe state a VI sends nothing (R469). -/
def State.notifyHost (s : State) (vq kind : Nat) (stat : W32) (value : W64) : State :=
  match s.viCtx (vq / 64) with
  | none => s
  | some (id, c) =>
    if s.mode ≠ .up ∨ c.notify.toNat / 2 ^ 48 = 0 then s
    else (s.updCtx id (fun c => { c with notes := c.notes + 1 })).send (Message.plain kind vq (c.notes + 1) stat value)

/-! ### Messages between packages (R356-R358) -/

/-- The message numbers of the model for what passes between packages, with the other package in `stat` (log 137). -/
def podPrices : Nat := 260
def podAnswer : Nat := 261
def podContext : Nat := 262
def podTask : Nat := 263
def podDone : Nat := 264
def podOffer : Nat := 265
def podMoved : Nat := 266

/-- The number of no queue. -/
def noQueue : Nat := 16384

def State.sendPod (s : State) (kind pkg num : Nat) (data : List Byte) : State :=
  s.send ⟨kind, num, 0, BitVec.ofNat 32 pkg, 0, data⟩

/-! ### The end of a command (R281, R290) -/

/-- Every group is gone, every task complete, every edge ended. -/
def State.commandDone (s : State) (id : Nat) (c : Cmd) : Bool :=
  !c.completed && c.placed && c.count == 0 && c.edges == 0 && s.tasks.all (fun e => e.2.cmd != id || e.2.completed)

/-- COMMAND_COMPLETE (R281, R290). -/
def execCommandComplete (cmd : Nat) (s : State) : Host.Outcome State Fault Refusal :=
  .next (match s.cmds.get cmd with
    | none => s
    | some c =>
      if !s.commandDone cmd c then s
      else
        let s1 := { s with cmds := s.cmds.upd cmd (fun c => { c with completed := true }) }
        match s.fe.queues.get c.vq with
        | none =>
          match c.remote with
          | some (pkg, num) => s1.sendPod podDone pkg num []
          | none => s1
        | some q =>
          match s1.putQueue c.vq { q with compl := q.compl + 1 } with
          | .error (a, f) => s.queueMiss c.vq a f
          | .ok s2 => s2.notifyHost c.vq 5 0 (q.compl + 1))

/-- The queue wants a lane (R290). -/
def Queue.wants (q : Queue) : Bool := q.en && !q.stop && q.lane.isNone && (q.latch.isSome || q.head != q.tail)

/-- A queue that wants a lane joins the tail of the waiting list; one that does not leaves it. -/
def State.lineUp (s : State) (vq : Nat) : State :=
  match s.fe.queues.get vq with
  | none => s
  | some q =>
    let w := s.fe.waiting
    { s with fe := { s.fe with waiting :=
        if q.wants then (if w.contains vq then w else w ++ [vq]) else w.filter (fun k => k != vq) } }

/-! ### Errors of a queue (R291) -/

/-- The record of a queue error. -/
def queueRecord (ctx vq code : Nat) : TrapRec :=
  { code := code, kind := .replayable, owner := .operator, ctx := ctx, count := 1, id := 0, gva := 0, gpa := 0, core := 0,
    slot := 0, data := BitVec.ofNat 32 vq }

/-- A queue stops with an error. While no trap-queue entry is free (R450), or its block is unmapped, it stays at its HEAD. -/
def State.stopQueue (s : State) (vq code : Nat) : State :=
  match s.fe.queues.get vq, s.viCtx (vq / 64) with
  | some q, some (ctx, _) =>
    match s.mgmt.addReplayable (queueRecord ctx vq code) with
    | none => s
    | some m =>
      match State.putQueue { s with mgmt := m } vq { q with stop := true, err := BitVec.ofNat 8 code, held := none } with
      | .error (a, f) => s.queueMiss vq a f
      | .ok s1 => ((s1.lineUp vq).notifyHost vq 6 (BitVec.ofNat 32 code) q.head).push (.queueUnmap vq)
  | _, _ => s

/-! ### Latches and lanes (R290, R292, R293) -/

/-- A doorbell's TAIL within the limits of R293. -/
def Queue.tailOk (q : Queue) (t : W64) : Bool :=
  q.head.toNat ≤ t.toNat && t.toNat ≤ q.head.toNat + q.size.toNat && t.toNat % 8 == 0 && q.tail.toNat ≤ t.toNat

/-- The scheduler takes a queue's latch (R292), whose TAIL must keep R293. A latch that it cannot act on stays: that of a disabled
queue until the queue is enabled, which discards it (R293; DEDUCED, log 81). -/
def State.take (s : State) (vq : Nat) : State :=
  match s.fe.queues.get vq with
  | none => s
  | some q =>
    match q.latch with
    | none => s
    | some t =>
      if !q.en then s
      else if q.tailOk t then
        match s.putQueue vq { q with latch := none, tail := t } with
        | .error (a, f) => s.queueMiss vq a f
        | .ok s1 => s1
      else
        let s1 := State.stopQueue (s.setQueue vq { q with latch := none }) vq 0x27
        match s1.fe.queues.get vq with
        | some q1 => if q1.stop && q1.err == 0x27 then s1 else s1.setQueue vq { q1 with latch := some t }
        | none => s1

/-- The command processor has power, and the package is up (R294, R469). -/
def State.cpRuns (s : State) : Bool := s.mode == .up && !s.fe.cpGated

def State.lanesUsed (s : State) : List Nat := s.fe.queues.filterMap (fun e => e.2.lane.map (·.1))

/-- The lowest free lane of 64. -/
def State.freeLane (s : State) : Option Nat := (range 0 64).find? (fun k => !s.lanesUsed.contains k)

/-- QUEUE_MAP (R290): the first waiting queue gets a lane, and its latch is taken (R292). -/
def execQueueMap (vq : Nat) (s : State) : Host.Outcome State Fault Refusal :=
  .next (match s.fe.queues.get vq, s.freeLane with
    | some q, some k =>
      if s.cpRuns ∧ s.fe.waiting.head? = some vq ∧ q.wants then
        (State.updQueue { s with fe := { s.fe with waiting := s.fe.waiting.drop 1 } } vq (fun q =>
          { q with lane := some (k, s.clock) })).take vq
      else s
    | _, _ => s)

/-- A queue gives up its lane; as the last step its latch is taken (R292). It joins the waiting list again where it waits by R290: not
where the TAIL that the take found equals HEAD, or the queue is stopped. DEDUCED (log 153). -/
def State.unmap (s : State) (vq : Nat) : State :=
  ((s.updQueue vq (fun q => { q with lane := none })).take vq).lineUp vq

/-- Nothing keeps the queue on its lane (R289-R291). -/
def Queue.idle (q : Queue) : Bool := q.lane.isSome && (q.stop || !q.en || (q.head == q.tail && q.latch.isNone))

/-- BASE and SIZE keep R263. -/
def ringLimits (base size : Nat) : Bool := base % 4096 == 0 && ringSize size && decide (base + size ≤ 2 ^ 56)

/-- An enabled queue whose ring fails the device's check is still to be stopped (R289, R450). -/
def Queue.badRing (q : Queue) : Bool := q.en && !q.stop && !ringLimits q.base.toNat q.size.toNat

/-- QUEUE_UNMAP (R290); a queue whose ring failed its check while the trap queue was full stops now (R289, R450). -/
def execQueueUnmap (vq : Nat) (s : State) : Host.Outcome State Fault Refusal :=
  .next (match s.fe.queues.get vq with
    | some q => if q.badRing then s.stopQueue vq 0x25 else if q.idle then s.unmap vq else s
    | none => s)

/-- 50 µs in cycles (R290). -/
def timeslice : Nat := 90000

/-- QUEUE_TIMESLICE_EXPIRY (R290): the queue goes to the tail of the waiting list. -/
def execQueueTimesliceExpiry (vq : Nat) (s : State) : Host.Outcome State Fault Refusal :=
  .next (match s.fe.queues.get vq with
    | some q =>
      match q.lane with
      | some (_, since) => if timeslice ≤ (s.clock - since).toNat ∧ !s.fe.waiting.isEmpty then s.unmap vq else s
      | none => s
    | none => s)

/-! ### The record at HEAD (R264, R286, R289) -/

/-- What stands at HEAD. -/
inductive HeadView where
  | empty
  | miss (gva : Nat) (f : WalkFail)
  | held                                    -- RDY is clear
  | bad                                     -- past TAIL or the end of the ring
  | skip (n : Nat) (hdr : List Loc)
  | packet (tag len n : Nat) (hdr : List Loc) (body : Nat)
  deriving DecidableEq, Repr

def State.viewHead (s : State) (ctx : Nat) (q : Queue) : HeadView :=
  if q.head = q.tail then .empty
  else
    let pos := q.head.toNat % q.size.toNat
    let a := q.base.toNat + pos
    match s.feLocs ctx a 4 .atomic with
    | .error (g, f) => .miss g f
    | .ok l =>
      let h := bytesNat (l.map s.homeByte)
      let n := headerBytes h
      if !headerRdy h then .held
      else if q.tail.toNat < q.head.toNat + n ∨ q.size.toNat < pos + n then .bad
      else if headerSkip h then .skip n l
      else .packet (h / 2 ^ 24 % 64) (headerLen h) n l (a + 4)

/-- A mapped queue that may be served; a ring outside R263's limits is not parsed (R289). -/
def Queue.serving (q : Queue) : Bool := q.lane.isSome && q.en && !q.stop && ringLimits q.base.toNat q.size.toNat

/-- HEAD goes past a record of n bytes: its header is zeroed and the block written. -/
def State.passHead (s : State) (vq ctx : Nat) (q : Queue) (n : Nat) (hdr : List Loc) : State :=
  match s.putQueue vq { q with head := q.head + BitVec.ofNat 64 n, held := none } with
  | .error (a, f) => s.queueMiss vq a f
  | .ok s1 => s1.fePut ctx hdr [0, 0, 0, 0]

/-- Skip records are consumed without a pass (R286). -/
def State.skipRecords (s : State) (vq ctx : Nat) : Nat → State
  | 0 => s
  | k + 1 =>
    match s.fe.queues.get vq with
    | none => s
    | some q =>
      match s.viewHead ctx q with
      | .skip n l =>
        let s1 := s.passHead vq ctx q n l
        match s1.fe.queues.get vq with
        | some q1 => if q1.head = q.head then s1 else State.skipRecords s1 vq ctx k
        | none => s1
      | _ => s

/-! ### A pass (R285, R286) -/

/-- The queues on lanes, in the order of their lanes. -/
def State.mappedQueues (s : State) : List Nat :=
  (range 0 64).filterMap (fun k => (s.fe.queues.find? (fun e => e.2.lane.map (·.1) == some k)).map (·.1))

/-- The event that serves a packet; the group of a reserved type is served by stopping its queues (R286). -/
def packetEvent (tag vq : Nat) : Instr :=
  if tag = 1 then .pktLaunch vq
  else if tag = 2 then .pktWaitctr vq
  else if tag = 3 then .pktStore64 vq
  else if tag = 4 then .pktAdd64 vq
  else if tag = 5 then .pktDrain vq
  else .pktNop vq

/-- A queue at the start of a pass: its latch is taken, skips are consumed, and a record that cannot be served stops it. -/
def State.openPass (s : State) (vq : Nat) : State :=
  let s0 := s.take vq
  match s0.fe.queues.get vq, s0.viCtx (vq / 64) with
  | some q, some (ctx, _) =>
    if !q.serving then s0
    else
      let s1 := s0.skipRecords vq ctx (q.size.toNat / 4 + 1)
      match s1.fe.queues.get vq with
      | none => s1
      | some q1 =>
        match s1.viewHead ctx q1 with
        | .miss a f => s1.queueMiss vq a f
        | .bad => s1.stopQueue vq 0x26
        | .held | .empty => s1.queueFree vq
        | _ => s1
  | _, _ => s0

/-- The tag of the record that a mapped queue's lane takes. -/
def State.headTag (s : State) (vq : Nat) : Option Nat :=
  match s.fe.queues.get vq, s.viCtx (vq / 64) with
  | some q, some (ctx, _) =>
    if !q.serving then none
    else
      match s.viewHead ctx q with
      | .packet tag _ _ _ _ => some tag
      | _ => none
  | _, _ => none

/-- CP_PASS: the lanes' records are grouped by tag, and the groups are served in ascending order (R285). -/
def execCpPass (s : State) : Host.Outcome State Fault Refusal :=
  .next (if !s.cpRuns then s
    else
      let s1 := s.mappedQueues.foldl State.openPass s
      let heads := s1.mappedQueues.filterMap (fun q => (s1.headTag q).map (fun t => (t, q)))
      { s1 with due := s1.due ++ (range 0 64).flatMap (fun t =>
          (heads.filter (fun e => e.1 == t)).map (fun e => packetEvent t e.2)) })

/-! ### Packets (R286, R287) -/

/-- What serving a packet comes to. -/
inductive Served where
  | done (s : State)
  | stop (code : Nat)
  | hold
  | miss (gva : Nat) (f : WalkFail)
  deriving Repr

/-- Payload bytes of a packet type (R286). -/
def payloadBytes (tag : Nat) : Nat := if tag = 1 then 8 else if tag = 2 ∨ tag = 3 ∨ tag = 4 then 16 else 0

/-- A packet of one type at HEAD of a mapped queue is served: the effect, then HEAD goes past it in the same step (R295). One of a
reserved type stops its queue (R286). -/
def State.serve (s : State) (vq tag : Nat) (effect : Nat → List Byte → Served) : State :=
  match s.fe.queues.get vq, s.viCtx (vq / 64) with
  | some q, some (ctx, _) =>
    if !s.cpRuns || !q.serving then s
    else
      match s.viewHead ctx q with
      | .packet t len n hdr body =>
        if t ≠ tag then (if tag = 0 ∧ 6 ≤ t then s.stopQueue vq 0x26 else s)
        else if len ≠ payloadBytes tag then s.stopQueue vq 0x26
        else
          match s.feLocs ctx body len .load, s.putQueue vq q with
          | .error (a, f), _ => s.queueMiss vq a f
          | .ok _, .error (a, f) => s.queueMiss vq a f
          | .ok l, .ok _ =>
            match effect ctx (l.map s.homeByte) with
            | .done s1 => (s1.feRead ctx (body - 4) (hdr ++ l)).passHead vq ctx q n hdr
            | .stop code => s.stopQueue vq code
            | .hold => s.queueFree vq
            | .miss a f => s.queueMiss vq a f
      | _ => s
  | _, _ => s

/-- An address of n bytes as a group-less global access: aperture, then alignment, then translation. -/
def State.packetLocs (s : State) (ctx a n align : Nat) (need : Need) (body : List Loc → Served) : Served :=
  if 2 ^ 56 < a + n then .stop 0x12
  else if a % align ≠ 0 then .stop 0x10
  else
    match s.feLocs ctx a n need with
    | .error (g, f) => .miss g f
    | .ok l => body l

/-- PKT_NOP (R286). -/
def execPktNop (vq : Nat) (s : State) : Host.Outcome State Fault Refusal := .next (s.serve vq 0 (fun _ _ => .done s))

/-- A command's task is created (R278, R281, R287). -/
def State.createTask (s : State) (c : Cmd) (ctx : Nat) (l : Launch) : State :=
  State.forward
    { s with nextId := s.nextId + 2,
             cmds := s.cmds.set s.nextId c,
             tasks := s.tasks.set (s.nextId + 1) (Task.fresh ctx s.nextId none l) } (s.nextId + 1)

/-- A queue's command creates its task here, or sends it, with its number, to the package that runs the context, under the context's number
there (R358). -/
def State.createCommand (s : State) (vq ctx : Nat) (l : Launch) (raw : List Byte) : State :=
  match (s.ctxs.get ctx).bind (·.away) with
  | some p =>
    State.send { s with nextId := s.nextId + 1, cmds := s.cmds.set s.nextId ⟨vq, 1, true, 0, false, none⟩ }
      ⟨podTask, ((s.ctxs.get ctx).map (·.awayNo)).getD 0, 0, BitVec.ofNat 32 p, BitVec.ofNat 64 s.nextId, raw⟩
  | none => s.createTask ⟨vq, 0, false, 0, false, none⟩ ctx l

/-- PKT_LAUNCH (R278, R286, R287). -/
def execPktLaunch (vq : Nat) (s : State) : Host.Outcome State Fault Refusal :=
  .next (s.serve vq 1 (fun ctx p =>
    s.packetLocs ctx (bytesNat p) 512 64 .load (fun l =>
      match parseLaunch (l.map s.homeByte) with
      | none => .stop 0x24
      | some r => .done ((s.feRead ctx (bytesNat p) l).createCommand vq ctx r (l.map s.homeByte)))))

/-- PKT_WAITCTR (R286). -/
def execPktWaitctr (vq : Nat) (s : State) : Host.Outcome State Fault Refusal :=
  .next (s.serve vq 2 (fun ctx p =>
    s.packetLocs ctx (fieldAtOff p 0 8) 8 8 .load (fun l =>
      if fieldAtOff p 8 8 ≤ bytesNat (l.map s.homeByte) then .done (s.feRead ctx (fieldAtOff p 0 8) l) else .hold)))

/-- PKT_STORE64 (R286). -/
def execPktStore64 (vq : Nat) (s : State) : Host.Outcome State Fault Refusal :=
  .next (s.serve vq 3 (fun ctx p =>
    s.packetLocs ctx (fieldAtOff p 0 8) 8 8 .store (fun l =>
      .done ((s.feNote ctx (fieldAtOff p 0 8) l).fePut ctx l (p.drop 8)))))

/-- PKT_ADD64 (R286). -/
def execPktAdd64 (vq : Nat) (s : State) : Host.Outcome State Fault Refusal :=
  .next (s.serve vq 4 (fun ctx p =>
    s.packetLocs ctx (fieldAtOff p 0 8) 8 8 .atomic (fun l =>
      .done ((s.feNote ctx (fieldAtOff p 0 8) l).addHome feCore ctx 0 l (fieldAtOff p 8 8)))))

/-- PKT_DRAIN (R286). -/
def execPktDrain (vq : Nat) (s : State) : Host.Outcome State Fault Refusal :=
  .next (s.serve vq 5 (fun _ _ =>
    if s.cmds.all (fun e => e.2.vq != vq || e.2.completed) then .done s else .hold))

/-! ### Refusals at the front end (R278, R280, R286, R447) -/

/-- The address lies on the page of a resolved record. -/
def onPage (r : TrapRec) (ctx : Nat) (held : Option W64) : Bool :=
  match held with
  | some a => r.ctx == ctx && r.gva.toNat / 65536 == a.toNat / 65536
  | none => false

/-- An ENQ task is dropped: its enqueuing team owes a cause (R280). -/
def State.dropTask (s : State) (task team : Nat) (a : W64) : State :=
  ((s.updTask task (fun t => { t with completed := true, triggered := true, held := [] })).updTeam team (fun x =>
    { x with dropped := x.dropped ++ [a] })).entryLeft task team

/-- The addresses at which a task holds now: unmet dependences, its DONE word at the trigger point, and its entry line (R279, R280). -/
def State.taskMisses (s : State) (id : Nat) (t : Task) : List Nat :=
  let miss (a : W64) (need : Need) : List Nat := match s.feLocs t.ctx a.toNat 8 need with | .error (g, _) => [g] | .ok _ => []
  (t.launch.deps.zip t.deps).flatMap (fun d => if d.2 then [] else miss d.1.1 .load) ++
    (if s.triggerReady id && t.launch.done != 0 then miss t.launch.done .atomic else []) ++
    (match s.entryLine t with | .blocked a _ => [a] | _ => [])

/-- The refusal of the word that holds a task: its DONE word gains nothing, or its dependence is never met. A page that has come
meanwhile holds nothing. -/
def State.refuseTask (s : State) (r : TrapRec) (id : Nat) (t : Task) : State :=
  let now := s.taskMisses id t
  match t.held.find? (fun a => onPage r t.ctx (some a) && now.contains a.toNat) with
  | none => s
  | some at_ =>
    let s1 := s.updTask id (fun t => { t with held := t.held.filter (fun a => !onPage r t.ctx (some a)) })
    if t.deps.all (fun d => d) && t.nextTeam == 0 && t.unplaced then s1.updTask id (fun t => { t with entryBad := true })
    else
    match t.parent with
    | some p =>
      if t.deps.all (fun d => d) then
        (s1.updTask id (fun t => { t with triggered := true })).updTeam p (fun x => { x with dropped := x.dropped ++ [at_] })
      else s1.dropTask id p at_
    | none =>
      let s2 := if t.deps.all (fun d => d) then s1.updTask id (fun t => { t with triggered := true }) else s1
      match s2.cmds.get t.cmd with
      | some c => s2.stopQueue c.vq 0x1B
      | none => s2

/-- The code of a refused data access: that of stage 1, whatever access opened the record, or of stage 2 (R447). -/
def refusedData (r : TrapRec) : Nat := if r.code = 0x1B then 0x1B else 0x1A

/-- The refusal of the page on which a queue holds, unless the page has come meanwhile (R286). -/
def State.refuseQueue (s : State) (r : TrapRec) (vq : Nat) (q : Queue) : State :=
  match s.viCtx (vq / 64), q.held with
  | some (ctx, _), some a =>
    if onPage r ctx q.held && !(s.feLocs ctx a.toNat 1 .atomic).isOk then s.stopQueue vq (refusedData r) else s
  | _, _ => s

def State.refuseFront (s : State) (r : TrapRec) : State :=
  let s1 := s.tasks.foldl (fun s e => s.refuseTask r e.1 e.2) s
  s.fe.queues.foldl (fun s e => s.refuseQueue r e.1 e.2) s1

end Sys2Proof.Machine
end

