-- ==== Sys2Proof/Machine/Host.lean ====
section
/-! DEFINITION. What hosts do to the package: Valdy messages with their remembered replies, the VI register page, queue
commands, RDMA, and the waking of gated domains (spec/11 R246; spec/14 R288-R297; spec/21 R383; spec/26 R466). -/

namespace Sys2Proof.Machine

open Sys2Proof

/-! ### Requests and replies (R297) -/

/-- The message numbers of the model beyond R297: what becomes of an RDMA operation. -/
def rdmaDone : Nat := 256
def rdmaAccessError : Nat := 257
def rdmaOperationalError : Nat := 258
def rdmaNak : Nat := 259

/-- What acting on a request comes to: STAT and the value of its reply, or a hold. -/
inductive Acted where
  | reply (stat : W32) (value : W64) (s : State)
  | hold (s : State)
  deriving Repr

/-- The replies to the 64 requests with distinct SEQ values that came last, by arrival (R297). -/
def remember {α : Type} (l : List (W32 × α)) (x : W32 × α) : List (W32 × α) :=
  let rest := l.filter (fun e => e.1 != x.1)
  (rest ++ [x]).drop (rest.length + 1 - 64)

/-- Bytes that a held write takes in the Selvedge's replay buffer: a header of 16 bytes and the payload. -/
def replayBytes : Instr → Nat
  | .rdmaWrite _ _ d => 16 + d.length
  | .regrd _ _ _ _ => 24
  | _ => 32

/-- A write for a gated domain waits in the replay buffer of 64 KiB; none where it is full (R294). -/
def State.replayLater (s : State) (i : Instr) : Option State :=
  if (s.fe.replay.map replayBytes).foldl (· + ·) 0 + replayBytes i ≤ 65536 then
    some { s with fe := { s.fe with replay := s.fe.replay ++ [i] } }
  else none

/-- The domain numbers of the model: 0 is the command processor, 1 + d is compute die d. -/
def cpDomain : Nat := 0
def dieDomain (d : Nat) : Nat := d + 1

/-- A request that must wait for a page is held. -/
def State.holdRequest (s : State) (i : Instr) : State :=
  { s with fe := { s.fe with hostHeld := s.fe.hostHeld ++ [(s.nextId, s.clock, i)] }, nextId := s.nextId + 1 }

/-- A frame for the VI reaches it on its VLAN, at one of its addresses (R296). -/
def Ctx.onVlan (c : Ctx) (fr : Frame) : Bool := c.vlan == fr.vlan && (fr.dst == c.ip4 || fr.dst == c.ip6)

/-- A Valdy message that is not dropped: from the VI's bound host, of version 1, its reserved field zero (R297). -/
def Ctx.takes (c : Ctx) (fr : Frame) : Bool := c.onVlan fr && fr.src == c.hostAddr && fr.ver == 1 && fr.rsv == 0

/-- A request has arrived that waits: it counts among the remembered ones from now on (R297). -/
def Ctx.await (c : Ctx) (seq : W32) : Ctx :=
  { c with replies := remember c.replies (seq, 0, 0), pendingSeqs := c.pendingSeqs.filter (· != seq) ++ [seq] }

/-- The reply to a request that had waited takes its place among the remembered ones, if it is still one of them. -/
def Ctx.answer (c : Ctx) (seq stat : W32) (value : W64) : Ctx :=
  { c with replies := c.replies.map (fun r => if r.1 == seq then (seq, stat, value) else r),
           pendingSeqs := c.pendingSeqs.filter (· != seq) }

/-- A request of the host bound to a VI: answered from memory when repeated, else acted on. One that waits has no reply yet to be
repeated. -/
def State.request (s : State) (i : Instr) (fr : Frame) (vi : Nat) (seq : W32) (act : State → Nat → Ctx → Acted) : State :=
  let again := s.fe.resuming
  let s := { s with fe := { s.fe with resuming := false } }
  match s.viCtx vi with
  | none => s
  | some (id, c) =>
    if s.mode ≠ .up ∨ !c.takes fr then s
    else if again then
      match act s id c with
      | .hold s1 => s1.holdRequest i
      | .reply stat value s1 => (s1.updCtx id (fun c => c.answer seq stat value)).send (Message.plain 4 vi seq stat value)
    else
      match c.replies.find? (fun r => r.1 == seq) with
      | some (_, stat, value) =>
        let s1 := s.updCtx id (fun c => { c with replies := remember c.replies (seq, stat, value) })
        if c.pendingSeqs.contains seq then s1 else s1.send (Message.plain 4 vi seq stat value)
      | none =>
        match act s id c with
        | .hold s1 => (s1.updCtx id (fun c => c.await seq)).holdRequest i
        | .reply stat value s1 =>
          (s1.updCtx id (fun c => { c with replies := remember c.replies (seq, stat, value) })).send
            (Message.plain 4 vi seq stat value)

/-- A register message: while the command processor is gated it waits in the replay buffer, or is dropped (R294). -/
def State.registerRequest (s : State) (i : Instr) (fr : Frame) (vi : Nat) (seq : W32) (act : State → Nat → Ctx → Acted) : State :=
  match s.viCtx vi with
  | none => s
  | some (id, c) =>
    if s.mode ≠ .up ∨ !c.takes fr then s
    else if s.fe.cpGated && (s.fe.resuming || c.replies.all (fun r => r.1 != seq)) then
      let s1 : State := { s with fe := { s.fe with resuming := false } }
      State.push (match s1.replayLater i with
        | some s2 => if s.fe.resuming then s2 else s2.updCtx id (fun c => c.await seq)
        | none => s1) (.gatedDomainWake cpDomain)
    else s.request i fr vi seq act

/-- The doorbell's TAIL goes into the latch, whatever the queue's state (R292). -/
def Queue.fresh : Queue :=
  { en := false, stop := false, err := 0, base := 0, size := 0, tail := 0, head := 0, compl := 0, latch := none,
    lane := none, held := none }

def State.queueOf (s : State) (vq : Nat) : Queue := (s.fe.queues.get vq).getD Queue.fresh

/-- DOORBELL (R292, R293, R297); it needs no replay buffer, and wakes a gated command processor (R294). -/
def execDoorbell (fr : Frame) (vq : Nat) (seq : W32) (tail : W64) (s : State) : Host.Outcome State Fault Refusal :=
  .next (s.request (.doorbell fr vq seq tail) fr (vq / 64) seq (fun s _ _ =>
    let s1 := (s.setQueue vq { s.queueOf vq with latch := some tail }).lineUp vq
    .reply 0 0 (if s.fe.cpGated then s1.push (.gatedDomainWake cpDomain) else s1)))

/-! ### The register page (R288) -/

/-- An offset that R297 refuses. -/
def badOffset (off : W64) : Bool := off.toNat % 8 != 0 || decide (0x1000 ≤ off.toNat)

def Ctx.qcbAt (c : Ctx) (q : Nat) : W64 := ((c.qcb.find? (fun e => e.1 == q)).map (·.2)).getD 0

/-- A read of the page: reserved and WO fields are zero. -/
def Ctx.pageRead (c : Ctx) (vi off : Nat) : W64 :=
  if off = 0 then BitVec.ofNat 64 (vi % 256)
  else if off = 8 then c.purse
  else if off = 0x10 then c.notify
  else if 0x100 ≤ off ∧ off < 0x300 then c.qcbAt ((off - 0x100) / 8)
  else 0

/-- REGRD (R288, R297). -/
def execRegrd (fr : Frame) (vi : Nat) (seq : W32) (off : W64) (s : State) : Host.Outcome State Fault Refusal :=
  .next (s.registerRequest (.regrd fr vi seq off) fr vi seq (fun s _ c =>
    if badOffset off then .reply 2 0 s else .reply 0 (c.pageRead vi off.toNat) s))

/-- QCB q written (R288). -/
def State.writeQcb (s : State) (id vi q : Nat) (val : W64) : Acted :=
  if (s.queueOf (64 * vi + q)).en ∨ val.toNat % 64 ≠ 0 then .reply 2 0 s
  else
    .reply 0 0 (s.updCtx id (fun c => { c with qcb := (c.qcb.filter (fun e => e.1 != q)) ++ [(q, val)] }))

/-! ### Queue commands (R289, R291) -/

/-- QCMD enable. -/
def State.qEnable (s : State) (vi q : Nat) : Acted :=
  let vq := 64 * vi + q
  let old := s.queueOf vq
  match s.blockOf vq with
  | none => .reply 0 0 s
  | some (ctx, a) =>
    if old.en then .reply 0 0 s
    else
      match s.feLocs ctx a.toNat 64 .atomic with
      | .error (g, f) => .hold (s.feMiss ctx g f none)
      | .ok l =>
        let base := s.homeNat l 0 8
        let size := s.homeNat l 8 8
        let new : Queue :=
          { Queue.fresh with en := true, base := BitVec.ofNat 64 base, size := BitVec.ofNat 64 size, lane := old.lane }
        match (s.feRead ctx a.toNat l).putQueue vq new with
        | .error (g, f) => .hold (s.feMiss ctx g f none)
        | .ok s1 => .reply 0 0 ((if ringLimits base size then s1 else s1.stopQueue vq 0x25).lineUp vq)

/-- QCMD disable: passes are single steps, so no packet is being served. -/
def State.qDisable (s : State) (vi q : Nat) : Acted :=
  let vq := 64 * vi + q
  match s.fe.queues.get vq, s.viCtx vi with
  | some old, some (ctx, _) =>
    if !old.en then .reply 0 0 s
    else
      match s.putQueue vq { old with en := false, held := none } with
      | .error (g, f) => .hold (s.feMiss ctx g f none)
      | .ok s1 => .reply 0 0 ((s1.push (.queueUnmap vq)).lineUp vq)
  | _, _ => .reply 0 0 s

/-- QCMD clear STOP. -/
def State.qClearStop (s : State) (vi q : Nat) : Acted :=
  let vq := 64 * vi + q
  match s.fe.queues.get vq, s.viCtx vi with
  | some old, some (ctx, _) =>
    match s.putQueue vq { old with stop := false, err := 0 } with
    | .error (g, f) => .hold (s.feMiss ctx g f none)
    | .ok s1 => .reply 0 0 (s1.lineUp vq)
  | _, _ => .reply 0 0 s

/-- A value written to QCMD q (R288): more than one bit, or a reserved bit, has no effect. -/
def State.qcmd (s : State) (vi q val : Nat) : Acted :=
  if val = 0 then .reply 0 0 s
  else if val = 1 then s.qEnable vi q
  else if val = 2 then s.qDisable vi q
  else if val = 4 then s.qClearStop vi q
  else .reply 2 0 s

/-- A write of the page: a write to an RO field has no effect. -/
def State.pageWrite (s : State) (id vi off : Nat) (val : W64) : Acted :=
  if off = 0x10 then .reply 0 0 (s.updCtx id (fun c => { c with notify := BitVec.ofNat 64 (val.toNat / 2 ^ 48 * 2 ^ 48) }))
  else if 0x100 ≤ off ∧ off < 0x300 then s.writeQcb id vi ((off - 0x100) / 8) val
  else if 0x300 ≤ off ∧ off < 0x500 then s.qcmd vi ((off - 0x300) / 8) val.toNat
  else .reply 0 0 s

/-- REGWR (R288, R297). -/
def execRegwr (fr : Frame) (vi : Nat) (seq : W32) (off val : W64) (s : State) : Host.Outcome State Fault Refusal :=
  .next (s.registerRequest (.regwr fr vi seq off val) fr vi seq (fun s id _ =>
    if badOffset off then .reply 2 0 s else s.pageWrite id vi off.toNat val))

/-- QCB_WRITE: REGWR of QCB q (R288). -/
def execQcbWrite (fr : Frame) (vi : Nat) (seq : W32) (q : Nat) (val : W64) (s : State) : Host.Outcome State Fault Refusal :=
  .next (s.registerRequest (.qcbWrite fr vi seq q val) fr vi seq (fun s id _ => s.writeQcb id vi (q % 64) val))

/-- QCMD_ENABLE (R289). -/
def execQcmdEnable (fr : Frame) (vi : Nat) (seq : W32) (q : Nat) (s : State) : Host.Outcome State Fault Refusal :=
  .next (s.registerRequest (.qcmdEnable fr vi seq q) fr vi seq (fun s _ _ => s.qEnable vi (q % 64)))

/-- QCMD_DISABLE (R289). -/
def execQcmdDisable (fr : Frame) (vi : Nat) (seq : W32) (q : Nat) (s : State) : Host.Outcome State Fault Refusal :=
  .next (s.registerRequest (.qcmdDisable fr vi seq q) fr vi seq (fun s _ _ => s.qDisable vi (q % 64)))

/-- QCMD_CLEAR_STOP (R291). -/
def execQcmdClearStop (fr : Frame) (vi : Nat) (seq : W32) (q : Nat) (s : State) : Host.Outcome State Fault Refusal :=
  .next (s.registerRequest (.qcmdClearStop fr vi seq q) fr vi seq (fun s _ _ => s.qClearStop vi (q % 64)))

/-! ### RDMA (R246, R296, R383, R459) -/

/-- The n bytes lie in one window of the VI. -/
def Ctx.inWindow (c : Ctx) (a n : Nat) : Bool :=
  c.windows.any (fun w => w.2 != 0 && w.1.toNat ≤ a && a + n ≤ w.1.toNat + w.2.toNat)

/-- The gated die that homes one of the bytes. -/
def State.gatedDie (s : State) (ctx : Nat) (l : List Loc) : Option Nat :=
  ((linesOf l).map (s.homeDie ctx)).find? (fun d => match s.dies.get d with | some x => x.gated | none => false)

/-- The result of an RDMA operation; in the safe state a VI sends nothing (R469). -/
def State.rdmaResult (s : State) (vi kind : Nat) (addr : W64) (data : List Byte) : State :=
  if s.mode = .up then s.send ⟨kind, vi, 0, 0, addr, data⟩ else s

/-- The VI of an RDMA operation, its queue pair (R246, log 138), its address and bytes. -/
def rdmaTarget : Instr → Option (Nat × W64 × Nat)
  | .rdmaWrite p a d => some (p.vi, a, d.length)
  | .rdmaRead p a n => some (p.vi, a, n)
  | _ => none

def isRdma (i : Instr) : Bool := (rdmaTarget i).isSome

/-- The operation is one of the queue pair of a VI. -/
def onPair (vi : Nat) (i : Instr) : Bool := (rdmaTarget i).any (fun t => t.1 == vi)

/-- A held operation stands before those of its pair that came after it, also when it is held again. -/
def State.holdRdma (s : State) (i : Instr) (again : Bool) : State :=
  let e := (s.nextId, s.clock, i)
  { s with fe := { s.fe with hostHeld := if again then e :: s.fe.hostHeld else s.fe.hostHeld ++ [e] }, nextId := s.nextId + 1 }

def State.dropHeld (s : State) (id : Nat) : State :=
  { s with fe := { s.fe with hostHeld := s.fe.hostHeld.filter (fun h => h.1 != id) } }

/-- Held operations of a VI's pair get a NAK, and the host sends them again: none of them overtakes one that stands before it (R246,
R383; log 176). -/
def State.nakHeld (s : State) (vi : Nat) (l : List (Nat × W64 × Instr)) : State :=
  (l.filter (fun h => onPair vi h.2.2)).foldl (fun s h =>
    match rdmaTarget h.2.2 with
    | some (_, a, _) => (s.dropHeld h.1).rdmaResult vi rdmaNak a []
    | none => s) s

/-- It waits in the replay buffer, and is refused where that is full, with those of its pair behind it (R246, R294). -/
def State.replayRdma (s : State) (i : Instr) (vi : Nat) (addr : W64) : State :=
  (s.replayLater i).getD ((s.rdmaResult vi rdmaNak addr []).nakHeld vi s.fe.hostHeld)

/-- An RDMA operation in its window, with the places of its bytes; it is held while a page is unmapped or in flight, waits for
a gated die, and is performed after those of its queue pair that the host posted before it (R246). A frame on another VLAN is
dropped (R296). -/
def State.rdma (s : State) (i : Instr) (peer : RdmaPeer) (addr : W64) (n : Nat) (need : Need)
    (body : State → Nat → List Loc → State) : State :=
  let again := s.fe.resuming
  let vi := peer.vi
  let s := { s with fe := { s.fe with resuming := false } }
  match s.viCtx vi with
  | none => s
  | some (ctx, c) =>
    if s.mode ≠ .up ∨ !c.onVlan peer.frame then s
    else if !c.inWindow addr.toNat n then s.rdmaResult vi rdmaAccessError addr []
    else if s.fe.replay.any (onPair vi) then s.replayRdma i vi addr
    else if !again ∧ s.fe.hostHeld.any (fun h => onPair vi h.2.2) then s.holdRdma i false
    else
      match s.feLocs ctx addr.toNat n need with
      | .error (g, f) => (s.feMiss ctx g f none).holdRdma i again
      | .ok l =>
        match s.gatedDie ctx l with
        | some d => (s.replayRdma i vi addr).push (.gatedDomainWake (dieDomain d))
        | none => body s ctx l

/-- RDMA_WRITE (R246, R296). -/
def execRdmaWrite (peer : RdmaPeer) (addr : W64) (data : List Byte) (s : State) : Host.Outcome State Fault Refusal :=
  .next (s.rdma (.rdmaWrite peer addr data) peer addr data.length .store (fun s ctx l =>
    ((s.feNote ctx addr.toNat l).fePut ctx l data).rdmaResult peer.vi rdmaDone addr []))

/-- RDMA_READ (R246, R296, R459). -/
def execRdmaRead (peer : RdmaPeer) (addr : W64) (n : Nat) (s : State) : Host.Outcome State Fault Refusal :=
  .next (s.rdma (.rdmaRead peer addr n) peer addr n .load (fun s ctx l =>
    if l.any (isPoisoned s.mem.poison) then s.rdmaResult peer.vi rdmaOperationalError addr []
    else (s.feRead ctx addr.toNat l).rdmaResult peer.vi rdmaDone addr (l.map s.homeByte)))

/-- RDMA_ATOMIC_REFUSED (R296). -/
def execRdmaAtomicRefused (peer : RdmaPeer) (addr : W64) (s : State) : Host.Outcome State Fault Refusal :=
  .next (if s.mode = .up ∧ (s.viCtx peer.vi).any (fun e => e.2.onVlan peer.frame) then s.rdmaResult peer.vi rdmaAccessError addr [] else s)

/-- 1 ms in cycles (R383, R465). -/
def oneMs : Nat := 1800000

/-- HOST_RDMA_HOLD_EXPIRY (R246, R383): after 1 ms at the hub, an RNR NAK, for it and for what its queue pair holds behind it. -/
def execHostRdmaHoldExpiry (id : Nat) (s : State) : Host.Outcome State Fault Refusal :=
  .next (match s.fe.hostHeld.find? (fun h => h.1 == id) with
    | none => s
    | some (_, since, i) =>
      match rdmaTarget i with
      | some (vi, _, _) =>
        if oneMs ≤ (s.clock - since).toNat then s.nakHeld vi (s.fe.hostHeld.dropWhile (fun h => h.1 != id)) else s
      | none => s)

/-- The VI of a held queue command, and its queue. -/
def commandQueue : Instr → Option Nat
  | .qcmdEnable _ vi _ q | .qcmdDisable _ vi _ q | .qcmdClearStop _ vi _ q => some (64 * vi + q % 64)
  | .regwr _ vi _ off _ =>
    if 0x300 ≤ off.toNat ∧ off.toNat < 0x500 then some (64 * vi + (off.toNat - 0x300) / 8) else none
  | _ => none

/-- A held request could go on: its page is mapped. -/
def State.heldReady (s : State) (i : Instr) : Bool :=
  match commandQueue i with
  | some vq =>
    match s.blockOf vq with
    | some (ctx, a) => (match s.feLocs ctx a.toNat 64 .atomic with | .ok _ => true | .error _ => false)
    | none => true
  | none =>
    match rdmaTarget i with
    | none => true
    | some (vi, a, n) =>
      match s.viCtx vi with
      | some (ctx, _) =>
        (match s.feLocs ctx a.toNat n (match i with | .rdmaWrite _ _ _ => .store | _ => .load) with
         | .ok _ => true
         | .error _ => false)
      | none => true

/-- A refused mapping ends the RDMA operations that it holds. -/
def State.refuseHost (s : State) (r : TrapRec) : State :=
  s.fe.hostHeld.foldl (fun s h =>
    match rdmaTarget h.2.2 with
    | none => s
    | some (vi, a, n) =>
      match s.viCtx vi with
      | some (ctx, _) =>
        if r.ctx == ctx && a.toNat / 65536 ≤ r.gva.toNat / 65536 && r.gva.toNat / 65536 ≤ (a.toNat + n - 1) / 65536 then
          (s.dropHeld h.1).rdmaResult vi rdmaAccessError a []
        else s
      | none => s) s

/-! ### Gated domains (R294, R466) -/

/-- The gated die that a buffered write waits for; none for a message to the command processor. -/
def waitsForDie (i : Instr) : Bool := isRdma i

/-- The buffered writes of a domain are performed, in the order of their arrival: they go on before what has been held since (R246,
R294). -/
def State.replayFor (s : State) (die : Bool) : State :=
  { s with
    fe := { s.fe with
      replay := s.fe.replay.filter (fun i => waitsForDie i != die),
      hostHeld := ((s.fe.replay.filter (fun i => waitsForDie i == die)).zipIdx.map (fun x => (s.nextId + x.2, s.clock, x.1))) ++
        s.fe.hostHeld },
    nextId := s.nextId + s.fe.replay.length }

/-- GATED_DOMAIN_WAKE (R294). -/
def execGatedDomainWake (dom : Nat) (s : State) : Host.Outcome State Fault Refusal :=
  .next (if dom = cpDomain then
      if s.fe.cpGated then State.replayFor { s with fe := { s.fe with cpGated := false } } false else s
    else
      match s.dies.get (dom - 1) with
      | some d => if d.gated then (s.updDie (dom - 1) (fun d => { d with gated := false })).replayFor true else s
      | none => s)

/-- A context holds a unit on the die. -/
def Ctx.holdsOn (c : Ctx) (die : Nat) : Bool :=
  (c.home.toNat == die && (!c.held.units.clu.isEmpty || !c.held.units.bank.isEmpty || !c.held.units.way.isEmpty ||
    !c.held.units.slot.isEmpty)) || (match c.held.progress with | some h => h.1 == die | none => false)

/-- No dirty byte stands in an L1 of the die, and no copy. -/
def State.flushDie (s : State) (die : Nat) : State :=
  (s.coresOf die).foldl (fun s c => s.flushCore c (fun _ => true)) s

def State.lineUpAll (s : State) : State := (s.fe.queues.map (·.1)).foldl State.lineUp s

/-- POWER_GATING (R294): the command processor, or a compute die without a lease. -/
def execPowerGating (dom : Nat) (s : State) : Host.Outcome State Fault Refusal :=
  .next (if s.mode ≠ .up then s
    else if dom = cpDomain then
      State.lineUpAll { s with fe := { s.fe with cpGated := true,
                                                 queues := s.fe.queues.map (fun (e : Nat × Queue) =>
                                                   (e.1, { e.2 with lane := none })) } }
    else if s.ctxs.any (fun e => e.2.holdsOn (dom - 1)) then s
    else (s.flushDie (dom - 1)).updDie (dom - 1) (fun d => { d with gated := true }))
/-- A queue's table entry rebuilt from its control block; HEAD is the Selvedge's (R295, R466). -/
def State.rebuildQueue (s : State) (vq : Nat) : State :=
  match s.fe.queues.get vq, s.blockOf vq with
  | some q, some (ctx, a) =>
    let q0 : Queue := { q with lane := none }
    match s.feLocs ctx a.toNat 64 .load with
    | .error _ => s.setQueue vq q0
    | .ok l =>
      if q.en then
        s.setQueue vq { q0 with base := BitVec.ofNat 64 (s.homeNat l 0 8), size := BitVec.ofNat 64 (s.homeNat l 8 8) }
      else s.setQueue vq q0
  | _, _ => s

/-- The contexts whose commands a restart of the command processor delays: one of their queues has packets or a latch (R458). -/
def State.delayedCtxs (s : State) : List Nat :=
  ((s.fe.queues.filter (fun e => e.2.en && !e.2.stop && (e.2.head != e.2.tail || e.2.latch.isSome))).filterMap (fun e =>
    (s.viCtx (e.1 / 64)).map (·.1))).eraseDups

/-- CP_FIRMWARE_RELOAD (R295, R458, R466). -/
def execCpFirmwareReload (s : State) : Host.Outcome State Fault Refusal :=
  .next (let s1 := (s.fe.queues.map (·.1)).foldl State.rebuildQueue s
    (s.delayedCtxs.foldl State.relcntUp s1).lineUpAll)

end Sys2Proof.Machine
end

