-- ==== Sys2Proof/Machine/Pages.lean ====
section
/-! DEFINITION. Pages between tiers and dies, HBM channels, scrubbing and slices (spec/21 R375-R377, R383-R388; spec/24 R425; spec/26
R459). -/

namespace Sys2Proof.Machine

open Sys2Proof

/-! ### Frames (R383, R385) -/

def nearCapacity : Nat := 124 * 2 ^ 30
def farCapacity : Nat := 2 ^ 40

/-- The bytes that a page takes of the near tier of a die: while it is in flight, both its frames (R384). -/
def Page.nearOn (p : Page) (die : Nat) : Nat :=
  if p.remote.isSome then 0
  else
    match p.state with
    | .near => if p.die = die then p.size else 0
    | .far => 0
    | .inFlight far d _ => (if !far ∧ d = die then p.size else 0) + (if !p.fromFar ∧ p.die = die then p.size else 0)

def Page.farBytes (p : Page) : Nat :=
  if p.remote.isSome then 0
  else
    match p.state with
    | .near => 0
    | .far => p.size
    | .inFlight far _ _ => (if far then p.size else 0) + (if p.fromFar then p.size else 0)

/-- The bytes of a die's near tier that a move in progress frees. -/
def Page.leaving (p : Page) (die : Nat) : Nat :=
  match p.state with
  | .inFlight _ _ _ => if !p.fromFar ∧ p.die = die then p.size else 0
  | _ => 0

def State.nearSize (s : State) (die : Nat) : Nat := nearCapacity - ((s.dies.get die).map (·.lostBytes)).getD 0

def State.nearFree (s : State) (die : Nat) : Nat := s.nearSize die - sumNat (s.mem.pages.map (fun p => p.nearOn die))

def State.farFree (s : State) : Nat := farCapacity - sumNat (s.mem.pages.map Page.farBytes)

/-- The frames that a page holds: its own, and the one it moves to. -/
def Page.frames (p : Page) : List Nat :=
  match p.state with
  | .inFlight _ _ f => [p.frame, f]
  | _ => [p.frame]

/-- A frame of n bytes that no page holds. -/
def State.frameOk (s : State) (n frame : Nat) : Bool :=
  frame % n == 0 && decide (frame + n ≤ 2 ^ 52) &&
    s.mem.pages.all (fun p => p.frames.all (fun f => decide (frame + n ≤ f ∨ f + p.size ≤ frame)))

/-- The channels of a die that its stacks could not absorb: their frames are out of the pool (R387). -/
def Die.lostChans (d : Die) : List (Nat × Nat) :=
  ((d.retiredChans.map (·.1)).eraseDups).flatMap (fun k => (d.retiredChans.filter (fun c => c.1 == k)).drop 4)

def State.frameLost (s : State) (die frame : Nat) : Bool :=
  match s.dies.get die with
  | some d => d.lostChans.any (fun c => Config.frameOn die c.1 c.2 frame)
  | none => false

def State.updPage (s : State) (k : Nat) (f : Page → Page) : State :=
  match s.mem.pages[k]? with
  | none => s
  | some p => { s with mem := { s.mem with pages := s.mem.pages.set k (f p) } }

/-! ### Moves (R376, R384, R386) -/

/-- One core's copies of some lines leave it, written back, without an invalidation of its own die's. -/
def State.quitCore (s : State) (core : Nat) (p : Nat → Bool) : State :=
  match s.cores.get core with
  | none => s
  | some c => ((c.l1.map (·.line)).filter p).foldl (fun s k => (s.writeBack core k).leaveL1 core k) s

/-- The page's lines leave the slices, written back, and the L1s: those of its home die by R376's invalidation, which open regions there
learn of, the others because the frame will be another page's (R237, R376, R396; log 99). -/
def State.cleanPage (s : State) (p : Page) : State :=
  let mine := touches [(p.frame, p.size)]
  ((s.cores.map (·.1)).foldl (fun s c => if coreDie c = p.die then s.flushCore c mine else s.quitCore c mine) s).l2Drop (fun x =>
    mine x.line)

/-- The move of a page that is not in flight to a free frame; none where there is no room. -/
def State.startMove (s : State) (k : Nat) (p : Page) (far : Bool) (die frame : Nat) : Option State :=
  let room := if far then s.farFree else s.nearFree die
  if p.size ≤ room ∧ s.frameOk p.size frame ∧ (far ∨ !s.frameLost die frame) then
    some ((s.cleanPage p).updPage k (fun p => { p with state := .inFlight far die frame, fromFar := p.state == .far }))
  else none

def Page.inFlight (p : Page) : Bool := match p.state with | .inFlight _ _ _ => true | _ => false

def Page.wait (p : Page) (m : PageMove) : Page :=
  if p.queued.contains m then p else { p with queued := p.queued ++ [m] }

/-- The home die of a context (R346). -/
def State.homeOf (s : State) (ctx die : Nat) : Nat := ((s.ctxs.get ctx).map (fun c => c.home.toNat)).getD die

/-- The bytes of a bank. -/
def bankBytes : Nat := 2 ^ 18

/-- The HBM behind a window slot: bit 0 of the operator's entry says that there is one (R348, log 24). -/
def Ctx.slotHome (c : Ctx) (slot : Nat) : Option Nat :=
  match c.slotBase[slot]? with
  | some b => if b.getLsbD 0 then some (b.toNat / bankBytes * bankBytes) else none
  | none => none

/-- The page holds the backing of a bank that its context holds (R348, R385). -/
def State.backsBank (s : State) (p : Page) : Bool :=
  s.ctxs.any (fun e => ((range 0 e.2.held.units.bank.length).filterMap e.2.slotHome).any (fun b =>
    b < p.frame + p.size && p.frame < b + bankBytes))

/-- A page that may leave a near tier for the far one (R385). -/
def State.mayEvict (s : State) (p : Page) : Bool := p.state == .near && !p.pinned && p.remote.isNone && !s.backsBank p

def State.numbered (s : State) : List (Nat × Page) :=
  (range 0 s.mem.pages.length).filterMap (fun k => (s.mem.pages[k]?).map (fun p => (k, p)))

/-- The pages that a die may evict. -/
def State.victims (s : State) (die : Nat) : List (Nat × Page) := s.numbered.filter (fun e => s.mayEvict e.2 && e.2.die == die)

/-- Where a request takes a page that is not in flight: to the far tier or not, and the die; none where there is nothing to move
(R384-R386). A page that comes up goes to its context's home die; a migration that finds no frame there, and none to free, takes the
page to the far tier. -/
def State.moveGoal (s : State) (p : Page) (m : PageMove) : Option (Bool × Nat) :=
  match m, p.state with
  | .evict, .near => if s.mayEvict p then some (true, p.die) else none
  | .promote, .far => some (false, s.homeOf p.ctx p.die)
  | .migrate d, .near => if p.die = d then none else some (decide (s.nearFree d < p.size) && (s.victims d).isEmpty, d)
  | _, _ => none

/-- A far page changes its home with its context: its lines leave the old home (R375, R376). -/
def State.rehome (s : State) (k : Nat) (p : Page) (die : Nat) : State :=
  if p.die = die then s else (s.cleanPage p).updPage k (fun p => { p with die := die })

/-- A request for a page: behind a move in progress it queues; else it starts, on a free frame that the Tuiron chooses, or
waits. The frame is a free value (log 18). -/
def State.requestMove (s : State) (k : Nat) (m : PageMove) : State :=
  match s.mem.pages[k]? with
  | none => s
  | some p =>
    if p.inFlight then s.updPage k (fun p => p.wait m)
    else
      match s.moveGoal p m with
      | some (far, d) =>
        let frame := s.freeValue.toNat % 2 ^ 52 / p.size * p.size
        (match s.takeFree.startMove k p far d frame with
         | some s1 => s1
         | none => s.takeFree.updPage k (fun p => p.wait m))
      | none => (match m with | .migrate d => (if p.state = .far then s.rehome k p d else s) | _ => s)

/-- PAGE_MOVE_START: a move to a frame that is named (R384); behind a move in progress it queues (R386); a page that may not be
evicted stays (R385). -/
def execPageMoveStart (page : Nat) (far : Bool) (die : Nat) (frame : W64) (s : State) : Host.Outcome State Fault Refusal :=
  .next (match s.mem.pages[page]? with
    | none => s
    | some p =>
      let m : PageMove :=
        if far then .evict else match p.state with | .near => .migrate die | .inFlight false _ _ => .migrate die | _ => .promote
      if p.inFlight then s.updPage page (fun p => p.wait m)
      else
        match s.moveGoal p m with
        | some (f, d) => (s.startMove page p f d frame.toNat).getD s
        | none => s)

/-- The bytes of a frame moved to another; what stood there before goes. -/
def moveBytes (m : Mem) (src n dst : Nat) : Mem :=
  let inside (a base : Nat) : Bool := base ≤ a && a < base + n
  (m.filter (fun c => inside c.1 src)).foldl (fun t c => t.write (c.1 - src + dst) c.2)
    (m.filter (fun c => !inside c.1 src && !inside c.1 dst))

/-- Poison moves with its page (R459). -/
def movePoison (l : List Poison) (src n dst die : Nat) : List Poison :=
  l.map (fun p =>
    if p.level = 0 ∧ src ≤ 128 * p.line ∧ 128 * p.line < src + n then
      { p with line := p.line - src / 128 + dst / 128, die := die }
    else p)

/-- The second-stage leaf of the page names its new frame. -/
def State.remapLeaf (s : State) (p : Page) (frame : Nat) : State :=
  match s.ctxs.get p.ctx with
  | none => s
  | some c =>
    match stage2 s.mem.sys c.root2.toNat p.gpa with
    | .error _ => s
    | .ok l =>
      if l.size = p.size then
        { s with mem := { s.mem with
            sys := s.mem.sys.writeNat l.entry 8 (s.mem.sys.readNat l.entry 8 % 256 + frame) } }
      else s

/-- No TLB holds a translation into the frame (R384, R446). -/
def State.dropFrame (s : State) (frame n : Nat) : State :=
  let keep (l : List TlbEntry) : List TlbEntry := l.filter (fun e => e.frame + e.size ≤ frame || frame + n ≤ e.frame)
  { s with
    cores := s.cores.map (fun (e : Nat × Core) => (e.1, { e.2 with tlb := keep e.2.tlb })),
    clusters := s.clusters.map (fun (e : Nat × Cluster) => (e.1, { e.2 with tlb := keep e.2.tlb })),
    dies := s.dies.map (fun (e : Nat × Die) => (e.1, { e.2 with nested := keep e.2.nested })) }

/-- A fragment waits for a line whose page has no unresolved record. -/
def State.looseFetch (s : State) (g : Group) (f : Frag) : Bool :=
  match f.status with
  | .waiting (.fetch a) => !s.mgmt.traps.any (fun r => samePage r g.ctx a.toNat)
  | _ => false

/-- An open region with what it keeps by the system address of a block: its buffer, its load tables and the pins of its lines and of
its stores (R394, R395, R432). -/
def TryRegion.follow (t : TryRegion) (moved : Nat → Nat) : TryRegion :=
  let granule (tag : Nat) (g : W64) : W64 := if tag = 0 then BitVec.ofNat 64 (moved (8 * g.toNat) / 8) else g
  { t with
    buffer := t.buffer.map (fun e => if e.1 = 0 then (0, moved e.2.1, e.2.2) else e),
    loads := t.loads.map (fun e => (e.1, e.2.1, granule e.2.1 e.2.2)),
    aliased := t.aliased.map (fun e => (e.1, granule e.1 e.2.1, e.2.2)),
    pins := t.pins.map (fun p => { p with frame := moved p.frame }),
    stores := t.stores.map (fun (o : MemOp) => { o with pins := o.pins.map (fun p => { p with frame := moved p.frame }) }) }

/-- What the package keeps by the system address of a block in the page follows it: open collective generations, requests at
the ring unit, open regions, and the translations of published stores (R261, R265, R394, R395, R432). -/
def State.followPage (s : State) (src n dst : Nat) : State :=
  let moved (a : Nat) : Nat := if src ≤ a ∧ a < src + n then a - src + dst else a
  { s with colls := s.colls.map (fun (e : Nat × CollGen) =>
             (e.1, if e.2.record.1 = 0 then { e.2 with record := (0, moved e.2.record.2) } else e.2)),
           rings := s.rings.map (fun (r : RingWait) => { r with ctl := moved r.ctl }),
           ops := s.ops.map (fun (o : MemOp) => { o with pins := o.pins.map (fun p => { p with frame := moved p.frame }) }),
           groups := s.groups.map (fun (e : Nat × Group) => (e.1, { e.2 with tryR := e.2.tryR.map (fun t => t.follow moved) })) }

/-- The arrival of a page; a far one is at home on its context's home die (R375, R384, R385). -/
def State.arrivePage (s : State) (k : Nat) (p : Page) (far : Bool) (die frame : Nat) : State :=
  let s1 := { s with mem := { s.mem with sys := moveBytes s.mem.sys p.frame p.size frame,
                                          poison := movePoison s.mem.poison p.frame p.size frame die } }
  (((s1.remapLeaf p frame).dropFrame p.frame p.size).followPage p.frame p.size frame).updPage k (fun p =>
    { p with frame := frame, die := if far then s.homeOf p.ctx die else die, state := if far then .far else .near, age := 0, farHits := 0, pinned := false })

/-- The requests that queued behind the move are decided again, in order, until one moves the page; an eviction picks its victim
anew (R386). -/
def State.decideAgain (s : State) (k : Nat) : List PageMove → State
  | [] => s
  | m :: t =>
    match m with
    | .evict => State.decideAgain (s.push (.pageEviction ((s.mem.pages[k]?.map (·.die)).getD 0))) k t
    | m => State.decideAgain (s.requestMove k m) k t

def State.nextRequest (s : State) (k : Nat) : State :=
  match s.mem.pages[k]? with
  | none => s
  | some p => if p.queued.isEmpty then s else (s.updPage k (fun p => { p with queued := [] })).decideAgain k p.queued

/-- Requests that found no frame are looked at again. -/
def State.retryMoves (s : State) : State :=
  (range 0 s.mem.pages.length).foldl (fun s k =>
    match s.mem.pages[k]? with
    | some p => if p.inFlight then s else s.nextRequest k
    | none => s) s

/-- A near page leaves its frame: for another frame of its die, or for the far tier (R387). -/
def State.quitFrame (s : State) (k : Nat) (die : Nat) : State :=
  match s.mem.pages[k]? with
  | none => s
  | some p =>
    let frame := s.freeValue.toNat % 2 ^ 52 / p.size * p.size
    match s.takeFree.startMove k p false die frame with
    | some s1 => s1
    | none => (s.takeFree.startMove k p true die frame).getD (s.takeFree.updPage k (fun p => p.wait .evict))

/-- A page that has arrived on a frame that has meanwhile left the pool moves on (R387). -/
def State.quitLost (s : State) (k : Nat) (far : Bool) (die frame : Nat) : State :=
  if !far && s.frameLost die frame then s.quitFrame k die else s

/-- PAGE_MOVE_COMPLETE (R384-R387): the old frame is free, so requests that wait for one are looked at too. -/
def execPageMoveComplete (page : Nat) (s : State) : Host.Outcome State Fault Refusal :=
  .next (match s.mem.pages[page]? with
    | none => s
    | some p =>
      match p.state with
      | .inFlight far die frame =>
        let s1 := s.arrivePage page p far die frame
        (((s1.wakeAll s1.looseFetch).quitLost page far die frame).nextRequest page).retryMoves
      | _ => s)

/-! ### Eviction and promotion (R384-R386, R425) -/

/-- The oldest of two pages; of equal ones, the lower address. -/
def olderPage (a b : Nat × Page) : Bool :=
  if a.2.age ≠ b.2.age then b.2.age < a.2.age else a.2.frame ≤ b.2.frame

def oldestPage : List (Nat × Page) → Option (Nat × Page)
  | [] => none
  | x :: t =>
    match oldestPage t with
    | none => some x
    | some y => if olderPage x y then some x else some y

/-- The die evicts: it began below 1/64 of its capacity and goes on until the free frames, with those that moves in progress free,
reach 1/32. -/
def State.evicts (s : State) (die : Nat) : Bool :=
  match s.dies.get die with
  | none => false
  | some d =>
    let free := s.nearFree die
    let cap := s.nearSize die
    (64 * free < cap || d.evicting) && 32 * (free + sumNat (s.mem.pages.map (fun p => p.leaving die))) < cap

/-- PAGE_EVICTION (R385). -/
def execPageEviction (die : Nat) (s : State) : Host.Outcome State Fault Refusal :=
  .next (if s.evicts die then
      let s1 := s.updDie die (fun d => { d with evicting := true })
      match oldestPage (s.victims die) with
      | some (k, _) => s1.requestMove k .evict
      | none => s1
    else s.updDie die (fun d => { d with evicting := false }))

/-- FAR_ACCESS_PROMOTION (R384, R386): a page that is near is left; one in flight is asked for again when it arrives. -/
def execFarAccessPromotion (page : Nat) (s : State) : Host.Outcome State Fault Refusal :=
  .next (match s.mem.pages[page]? with
    | none => s
    | some _ => s.requestMove page .promote)

/-- Ages at an interval start (R385). -/
def Page.older (p : Page) : Page :=
  { p with age := if p.accessed then 0 else min 255 (p.age + 1), accessed := false, farHits := 0 }

/-- Insertion by age, youngest first. -/
def insertYoung (x : Nat × Page) : List (Nat × Page) → List (Nat × Page)
  | [] => [x]
  | y :: t => if x.2.age < y.2.age then x :: y :: t else y :: insertYoung x t

/-- The near pages of a context, and those on their way to a near tier, go to its new home die, youngest first; far pages change
their home (R376, R386). -/
def State.movePages (s : State) (ctx old die : Nat) : State :=
  let goes (p : Page) : Bool :=
    match p.state with
    | .near => p.die == old
    | .far => false
    | .inFlight far d _ => !far && d != die
  let near := (s.numbered.filter (fun e => e.2.ctx == ctx && goes e.2)).foldl
    (fun l x => insertYoung x l) []
  let far := s.numbered.filter (fun e => e.2.ctx == ctx && e.2.state == .far)
  near.foldl (fun s e => s.requestMove e.1 (.migrate die)) (far.foldl (fun s e => s.rehome e.1 e.2 die) s)

/-- The pages of a context, youngest first (R386). -/
def State.pagesOf (s : State) (ctx : Nat) (away : Bool) : List (Nat × Page) :=
  (s.numbered.filter (fun e => e.2.ctx == ctx && e.2.remote.isSome == away)).foldl (fun l x => insertYoung x l) []

/-- The pages of a context that goes to another package of the pod, youngest first: their lines leave this one, and so do their
frames (R386, R465). -/
def State.pagesAway (s : State) (ctx pkg : Nat) : State :=
  (s.pagesOf ctx false).foldl (fun s e =>
    (s.cleanPage e.2).updPage e.1 (fun p => { p with remote := some pkg })) s

/-- A page that comes over the scale-out lanes: in flight to its context's home die, or to the far tier where that has no frame for
it (R383, R386). -/
def Page.coming (p : Page) (room home : Nat) : Page :=
  { p with remote := none, lost := false, die := home, state := .inFlight (decide (room < p.size)) home p.frame, fromFar := true,
           pinned := false, queued := [] }

/-- The pages of a context that is back come over the lanes, youngest first (R386). -/
def State.pagesBack (s : State) (ctx : Nat) : State :=
  (s.pagesOf ctx true).foldl (fun s e => s.updPage e.1 (fun p => p.coming (s.nearFree (s.homeOf ctx p.die)) (s.homeOf ctx p.die))) s

/-! ### Channels, slices and scrubbing (R377, R387, R388, R459) -/

/-- A device's information record (R382, R449). -/
def deviceRecord (data : Nat) : TrapRec :=
  { code := 0, kind := .information, owner := .none, ctx := 0, count := 1, id := 0, gva := 0, gpa := 0, core := 0, slot := 0,
    data := BitVec.ofNat 32 data }

def State.inform (s : State) (data : Nat) : State := { s with mgmt := s.mgmt.addInformation (deviceRecord data) }

def State.countRetirement (s : State) (die : Nat) : State :=
  { s with mgmt := { s.mgmt with retirements := countUp s.mgmt.retirements die } }

/-- The context whose page holds a line. -/
def State.lineCtx (s : State) (line : Nat) : Nat :=
  ((s.mem.pages.find? (fun p => p.frame ≤ 128 * line && 128 * line < p.frame + p.size)).map (·.ctx)).getD 0

/-- The counter of a class of corrections of a die: 0 HBM, 1 far tier, 2 in place for a group (R472). -/
def Mgmt.corrected (m : Mgmt) (die cls : Nat) : Mgmt := { m with corrections := countUp m.corrections (3 * die + cls) }

/-- The tier of a line, as a class of corrections. -/
def State.lineTier (s : State) (line : Nat) : Nat :=
  if s.mem.pages.any (fun p => p.frame ≤ 128 * line && 128 * line < p.frame + p.size && p.state == .far) then 1 else 0

/-! ### Channels (R387) -/

/-- The reduced capacity of a die, in MiB, told to the operator (R387). -/
def State.informCapacity (s : State) (die : Nat) : State :=
  { s with mgmt := s.mgmt.addInformation { deviceRecord (s.nearSize die / 2 ^ 20) with core := 176 * die } }

/-- The pages of a channel that a fifth retirement takes go to other frames of the die, or to the far tier (R387). -/
def State.clearChannel (s : State) (die stack chan : Nat) : State :=
  (s.numbered.filter (fun e => e.2.state == .near && e.2.die == die && Config.frameOn die stack chan e.2.frame)).foldl (fun s e =>
    s.quitFrame e.1 die) s

/-- CHANNEL_RETIRE (R387): a stack absorbs four; a fifth takes the channel's frames out of the pool. -/
def execChannelRetire (die stack chan : Nat) (s : State) : Host.Outcome State Fault Refusal :=
  .next (match s.dies.get die with
    | none => s
    | some d =>
      if d.retiredChans.contains (stack, chan) then s
      else
        let s1 := (s.countRetirement die).updDie die (fun d =>
          { d with retiredChans := d.retiredChans ++ [(stack, chan)], slotUnits := d.slotUnits - 1 })
        if (d.retiredChans.filter (fun c => c.1 == stack)).length < 4 then
          s1.updDie die (fun d => { d with rebuilding := d.rebuilding ++ [(stack, chan)] })
        else ((s1.updDie die (fun d => { d with lostBytes := d.lostBytes + 496 * 2 ^ 20 })).clearChannel die stack chan).informCapacity
          die)

/-- CHANNEL_REBUILD_COMPLETE (R387): a line that the rebuild could not correct is poisoned (R459). -/
def execChannelRebuildComplete (die stack chan : Nat) (s : State) : Host.Outcome State Fault Refusal :=
  .next (match s.dies.get die with
    | none => s
    | some d =>
      if d.rebuilding.contains (stack, chan) then
        (Config.lostLines s.free die stack chan).foldl (fun s k => s.poisonLine (s.lineCtx k) (.spa (128 * k)))
          ((s.updDie die (fun d => { d with rebuilding := d.rebuilding.filter (fun c => c != (stack, chan)) })).takeFree)
      else s)

/-! ### Scrubbing (R388) -/

/-- 30 minutes in cycles (R387, R388). -/
def halfHour : Nat := 3240000000000

/-- 8 hours in cycles: one pass (R388). -/
def passTime : Nat := 16 * halfHour

/-- The row with the next fifteen, or fewer before it and the rest behind, all with a failed symbol (R387). -/
def sixteenRows (l : List (Nat × Nat × Nat)) (stack chan row : Nat) : Bool :=
  (range 0 16).any (fun k => k ≤ row && (range (row - k) 16).all (fun n => l.contains (stack, chan, n)))

/-- A correction in a row of HBM counts for its pseudo-channel, which is retired above 256 of them within 30 minutes, or with a failed
symbol on 16 rows in a row (R387). -/
def State.noteFix (s : State) (line : Nat) (symbol : Bool) : State :=
  let (die, stack, chan, row) := Config.rowPlace (Config.rowOf line)
  if s.lineTier line = 1 then s
  else
    match s.dies.get die with
    | none => s
    | some d =>
      let fixes := d.fixes.filter (fun x => (s.clock - x.2.2).toNat < halfHour) ++ [(stack, chan, s.clock)]
      let rows := if symbol && !d.badRows.contains (stack, chan, row) then d.badRows ++ [(stack, chan, row)] else d.badRows
      let s1 := s.updDie die (fun d => { d with fixes := fixes, badRows := rows })
      if 256 < (fixes.filter (fun x => x.1 == stack && x.2.1 == chan)).length || (symbol && sixteenRows rows stack chan row) then
        s1.push (.channelRetire die stack chan)
      else s1

/-- The visit of a row: the pass goes on behind it. -/
def Mgmt.visit (m : Mgmt) (row : Nat) (now : W64) : Mgmt :=
  { m with visited := if (m.flags.get row).isSome then m.visited.set row now else m.visited,
           sweptAt := if row = m.sweep then now else m.sweptAt,
           sweep := if row = m.sweep then (if row + 1 < Config.rowCount then row + 1 else 0) else m.sweep }

/-- A correction of a line at its memory, by a visit or by an access: it is counted, its row is flagged, and its channel may be retired
(R387, R388, R472). -/
def State.correct (s : State) (line : Nat) (symbol : Bool) : State :=
  let row := Config.rowOf line
  let m := s.mgmt.corrected (s.homeDie (s.lineCtx line) line) (s.lineTier line)
  State.noteFix { s with mgmt := { m with flags := m.flags.set row 0, visited := m.visited.set row s.clock } } line symbol

/-- What a visit of the row of a line finds there (R388, R459): a flag falls after 16 clean visits in a row. -/
def State.scrubbed (s : State) (line : Nat) (res : ScrubResult) : State :=
  let row := Config.rowOf line
  match res with
  | .clean =>
    match s.mgmt.flags.get row with
    | none => s
    | some n => { s with mgmt := { s.mgmt with flags := if n + 1 = 16 then s.mgmt.flags.del row else s.mgmt.flags.set row (n + 1) } }
  | .corrected => s.correct line false
  | .symbol => s.correct line true
  | .uncorrectable =>
    let m := s.mgmt
    let s1 : State := { s with mgmt := if (m.flags.get row).isSome then { m with flags := m.flags.set row 0 } else m }
    s1.poisonLine (s.lineCtx line) (.spa (128 * line))

/-- SCRUB_VISIT (R387, R388, R459). -/
def execScrubVisit (line : Nat) (res : ScrubResult) (s : State) : Host.Outcome State Fault Refusal :=
  .next (let s1 := s.scrubbed line res
    { s1 with mgmt := s1.mgmt.visit (Config.rowOf line) s.clock })

/-- The visits that are due by themselves: of flagged rows every 30 minutes, and of the next row of the pass. What a visit finds beyond
a clean row is an input (log 145). -/
def State.scrubEvents (s : State) : List Instr :=
  ((s.mgmt.flags.filter (fun e => halfHour ≤ (s.clock - ((s.mgmt.visited.get e.1).getD 0)).toNat)).map (fun e =>
    .scrubVisit (Config.rowLine e.1) .clean)) ++
  (if passTime / Config.rowCount < (s.clock - s.mgmt.sweptAt).toNat then [.scrubVisit (Config.rowLine s.mgmt.sweep) .clean] else [])

/-- The safe talkative state: nothing runs, and only a reset ends it (R469). -/
def State.enterSafe (s : State) : State :=
  { s with mode := .safe, cur := none, second := none, due := [], cycle := [],
           fe := { s.fe with hostHeld := [], replay := [], waiting := [],
                             queues := s.fe.queues.map (fun (e : Nat × Queue) => (e.1, { e.2 with lane := none, held := none })) } }

/-- Retired slices of a die beyond its budget: more than two, or two that serve each other (R468). -/
def slicesBeyond (l : List Nat) : Bool := decide (2 < l.length) || l.any (fun n => l.contains (n ^^^ 1))

/-- SLICE_RETIRE (R377): the next stitch plan maps the slice out; until then it serves. Where its dirty lines cannot be read they are
poisoned at once (R459). Beyond the budget the package enters the state of R469 (R468). -/
def execSliceRetire (die slice : Nat) (readable : Bool) (s : State) : Host.Outcome State Fault Refusal :=
  .next (match s.dies.get die with
    | none => s
    | some d =>
      if (d.retiredSlices ++ d.leaving).contains slice then s
      else
        let inIt (x : L2Line) : Bool := x.die == die && x.slice == slice
        let s1 := (s.countRetirement die).updDie die (fun d => { d with leaving := d.leaving ++ [slice] })
        let s2 := if readable then s1
          else (s.mem.l2.filter (fun x => inIt x && x.dirty)).foldl (fun s x => s.poisonLine x.ctx (.spa (128 * x.line))) (s1.l2Drop inIt)
        if slicesBeyond (d.retiredSlices ++ d.leaving ++ [slice]) then s2.enterSafe else s2)

/-- With a new plan the slices that leave are mapped out: their lines are written back, and the slices xor 1 serve (R377). -/
def State.mapOut (s : State) (die : Nat) (d : Die) : State :=
  (s.l2Drop (fun x => x.die == die && d.leaving.contains x.slice)).updDie die (fun d =>
    { d with retiredSlices := d.retiredSlices ++ d.leaving, leaving := [] })

end Sys2Proof.Machine
end

