-- ==== Sys2Proof/Machine/Links.lean ====
section
/-! DEFINITION. Stitch plans, links, the routes of packets, packets that are dropped and sent again, and packages that are given up
(spec/15 R313; spec/21 R379-R382; spec/26 R458, R464, R465). -/

namespace Sys2Proof.Machine

open Sys2Proof

/-! ### Stitch plans (R380, R381) -/

/-- A byte of a plan. -/
def planByte (b : List Byte) (k : Nat) : Nat := (b.getD k 0).toNat

def routerAt (r : Nat) : Nat := 64 + 32 * r

/-- The far end of a mesh port: router and port (R380). -/
def linkOf (b : List Byte) (r p : Nat) : Nat × Nat :=
  let x := planByte b (routerAt r + p)
  (x % 64, x / 64)

def portOn (b : List Byte) (r p : Nat) : Bool := (BitVec.ofNat 8 (planByte b (routerAt r + 4))).getLsbD p

/-- A port is taken out of use. -/
def closePort (b : List Byte) (r p : Nat) : List Byte :=
  let k := routerAt r + 4
  setAt 0 b k (b.getD k 0 &&& ~~~(oneBit 8 p))

/-- Bits of three of a router's ROUTE. -/
def routeOf (b : List Byte) (r t : Nat) : Nat :=
  let k := 3 * t
  let x := planByte b (routerAt r + 8 + k / 8) + 256 * planByte b (routerAt r + 9 + k / 8)
  x / 2 ^ (k % 8) % 8

def rankOf (b : List Byte) (r : Nat) : Nat := planByte b (routerAt r + 5)

/-- The reserved bytes and bits of a plan are zero, and it names its die. -/
def planForm (b : List Byte) (die : Nat) : Bool :=
  b.length == 2112 && planByte b 0 == die && zeroBytes b 1 7 && zeroBytes b 11 5 && zeroBytes b 20 44 &&
    (List.range 64).all (fun r => planByte b (routerAt r + 4) < 16 && planByte b (routerAt r + 5) < 64 &&
      zeroBytes b (routerAt r + 6) 2)

/-- Both ends of a link name each other. -/
def twoEnded (b : List Byte) (r p : Nat) : Bool :=
  let f := linkOf b r p
  portOn b f.1 f.2 && linkOf b f.1 f.2 == (r, p)

/-- The links are symmetric. -/
def planSymmetric (b : List Byte) : Bool :=
  (List.range 64).all (fun r => (List.range 4).all (fun p => !portOn b r p || twoEnded b r p))

/-- The routers of a die's retired slices: a route ends there, and passes by them otherwise (R381; DEDUCED, log 20). -/
def Die.sliceRouters (d : Die) (die : Nat) : List Nat := (d.retiredSlices ++ d.leaving).map (Config.sliceRouter die)

/-- A route from a router reaches its destination, climbing in RANK and then descending, around retired routers, links and slices. -/
def routeReaches (b : List Byte) (d : Die) (shun : List Nat) (t : Nat) : Nat → Nat → Bool → Bool
  | 0, _, _ => false
  | k + 1, r, down =>
    if d.deadRouters.contains r then false
    else if r = t then routeOf b t t == 4 || routeOf b t t == 5
    else
      let p := routeOf b r t
      let next := (linkOf b r p).1
      4 > p && portOn b r p && !d.failed.contains (r, p) && (next == t || !shun.contains next) && rankOf b r != rankOf b next &&
        (if rankOf b r < rankOf b next then !down && routeReaches b d shun t k next false
         else routeReaches b d shun t k next true)

def planRoutes (b : List Byte) (d : Die) (die : Nat) : Bool :=
  (List.range 64).all (fun r => (List.range 64).all (fun t =>
    d.deadRouters.contains r || d.deadRouters.contains t || routeReaches b d (d.sliceRouters die) t 64 r false))

def planGen (b : List Byte) : Nat := fieldAtOff b 16 4

/-! ### Links that fail (R379, R382) -/

/-- The plan in force without a link, its routes moved as the Hoop finds them. -/
def withoutLink (b : List Byte) (r p : Nat) : List Byte :=
  let far := linkOf b r p
  let b1 := if twoEnded b r p then closePort (closePort b r p) far.1 far.2 else closePort b r p
  (List.range 64).foldl (fun b r =>
    (List.range 24).foldl (fun b k => setAt 0 b (routerAt r + 8 + k) (Config.newRoute b1 r k)) b) b1

/-- The routers of a compute die's mesh and of the hub die's (R379). -/
def dieRouters : Nat := 64
def hubRouters : Nat := 16

/-- The number of the hub die. -/
def hubDie : Nat := 4

/-- The dies that a die's die-to-die ports reach (R379). -/
def diePorts (d : Nat) : List Nat := if d = hubDie then range 0 4 else [hubDie, (d + 1) % 4, (d + 3) % 4]

/-- In place of a router's number, where a link is a die-to-die port; the port's number is then the other die. -/
def portLink : Nat := dieRouters

/-- The neighbour at a port of the hub's 4 × 4 mesh; the numbers of its ports are the model's (log 174). -/
def hubNext (r p : Nat) : Option Nat :=
  match p with
  | 0 => if 4 ≤ r then some (r - 4) else none
  | 1 => if r % 4 < 3 then some (r + 1) else none
  | 2 => if r < 12 then some (r + 4) else none
  | 3 => if 0 < r % 4 then some (r - 1) else none
  | _ => none

/-- A link of the hub's mesh, or a die-to-die port, is in use. -/
def State.hubUp (s : State) (r p : Nat) : Bool := r < hubRouters && (hubNext r p).isSome && !s.fabric.hubFailed.contains (r, p)

def State.portUp (s : State) (a b : Nat) : Bool := (diePorts a).contains b && !s.fabric.portsFailed.contains (a, b)

/-- A link of a compute die's mesh is marked failed, and the plan in force goes on without it; where its routes then miss a condition
of R381 the failure is beyond the budget (R382, R468). -/
def State.failMesh (s : State) (die : Nat) (d : Die) (r p : Nat) : State :=
  let far := linkOf d.plan.bytes r p
  let d1 := { d with
    failed := d.failed ++ (r, p) :: (if twoEnded d.plan.bytes r p then [far] else []),
    plan := { d.plan with bytes := withoutLink d.plan.bytes r p } }
  let s1 := (s.updDie die (fun _ => d1)).inform die
  if planRoutes d1.plan.bytes d1 die then s1 else s1.enterSafe

/-- LINK_FAILURE (R382): of a mesh link of a compute die or of the hub, or of a die-to-die port, of which the budget spares none
(R468). -/
def execLinkFailure (die router port : Nat) (s : State) : Host.Outcome State Fault Refusal :=
  .next (if router = portLink then
      if s.portUp die port then
        (({ s with fabric := { s.fabric with portsFailed := s.fabric.portsFailed ++ [(die, port), (port, die)] } } : State).inform
          die).enterSafe
      else s
    else if die = hubDie then
      match hubNext router port with
      | some far =>
        if s.hubUp router port then
          State.inform { s with fabric := { s.fabric with
            hubFailed := s.fabric.hubFailed ++ [(router, port), (far, (port + 2) % 4)] } } die
        else s
      | none => s
    else
      match s.dies.get die with
      | none => s
      | some d => if portOn d.plan.bytes router port && !d.failed.contains (router, port) then s.failMesh die d router port else s)

/-! ### Routes (R379, R382) -/

/-- A route: from a cluster, or from the hub, which is 88 here, to an L2 slice of a die. -/
structure Route where
  src : Nat
  dest : Nat
  slice : Nat
  deriving DecidableEq, Repr

def Route.srcDie (r : Route) : Nat := if r.src < 88 then r.src / 22 else hubDie

/-- The number under which a route's timeouts are counted. -/
def Route.number (r : Route) : Nat := 4 * r.src + r.dest

/-- The links that ROUTE takes from a router to another. -/
def meshPath (b : List Byte) (t : Nat) : Nat → Nat → List (Nat × Nat)
  | 0, _ => []
  | k + 1, r =>
    if r = t then []
    else
      let p := routeOf b r t
      if p < 4 then (r, p) :: meshPath b t k (linkOf b r p).1 else []

/-- The links of a die that a packet takes between two of its routers; the way through the hub's mesh is open, so any of its links. -/
def State.linksOn (s : State) (die a b : Nat) : List (Nat × Nat × Nat) :=
  if die = hubDie then
    (range 0 hubRouters).flatMap (fun r => ((range 0 4).filter (s.hubUp r)).map (fun p => (die, r, p)))
  else
    match s.dies.get die with
    | none => []
    | some d => (meshPath d.plan.bytes b dieRouters a).map (fun x => (die, x))

/-- The router of a logical cluster: the one that serves its physical cluster. -/
def State.clusterRouter (s : State) (cluster : Nat) : Nat :=
  match s.dies.get (cluster / 22) with
  | none => 0
  | some d =>
    ((range 0 dieRouters).find? (fun r => (Config.routerClusters (cluster / 22) r).contains (d.physical.getD (cluster % 22) 24))).getD 0

/-- The dies that a packet may cross between two dies without a port to each other (R379). -/
def State.crossings (s : State) (a b : Nat) : List Nat := (range 0 5).filter (fun c => c != a && c != b && s.portUp a c && s.portUp c b)

/-- The links of a route; which third die it crosses, where it has to, is a free value. -/
def State.routeLinks (s : State) (r : Route) (v : Nat) : List (Nat × Nat × Nat) :=
  let a := r.srcDie
  let b := r.dest
  let from_ := s.clusterRouter r.src
  let to_ := Config.sliceRouter b r.slice
  let hop (x y : Nat) : Nat × Nat × Nat := (x, portLink, y)
  if a = b then s.linksOn a from_ to_
  else if s.portUp a b then s.linksOn a from_ (Config.portRouter a b) ++ hop a b :: s.linksOn b (Config.portRouter b a) to_
  else
    let l := s.crossings a b
    match l[v % l.length]? with
    | none => []
    | some c =>
      s.linksOn a from_ (Config.portRouter a c) ++ hop a c :: s.linksOn c (Config.portRouter c a) (Config.portRouter c b) ++
        hop c b :: s.linksOn b (Config.portRouter b c) to_

/-- The route of a logged access: from its core's cluster to the home of its first byte. -/
def State.routeOfOp (s : State) (o : MemOp) (g : Group) : Route :=
  match (o.lanes.head?).bind (fun x => (s.spa g.ctx g.core x.addr.toNat .load).toOption) with
  | some a => ⟨clusterNo g.core, s.homeDie g.ctx (a / 128), sliceOf a⟩
  | none => ⟨clusterNo g.core, coreDie g.core, 0⟩

/-- A resend timeout on a route; the third in a row fails one of its links, which one being a free value (R382). -/
def State.routeTimeout (s : State) (r : Route) : State :=
  let n := (s.fabric.timeouts.get r.number).getD 0 + 1
  let count (t : Table Nat) : State := { s with fabric := { s.fabric with timeouts := t } }
  if n < 3 then count (s.fabric.timeouts.set r.number n)
  else
    let v := s.freeValue.toNat
    let l := s.routeLinks r v
    let s1 := (count (s.fabric.timeouts.del r.number)).takeFree
    match l[v / 8 % l.length]? with
    | some x => s1.push (.linkFailure x.1 x.2.1 x.2.2)
    | none => s1

/-- A packet of the route has arrived. -/
def State.routeGood (s : State) (r : Route) : State :=
  { s with fabric := { s.fabric with timeouts := s.fabric.timeouts.del r.number } }

/-! ### Packets (R313, R458, R464) -/

/-- A packet as it arrives: the CRC over its header or over its payload fails (R464). -/
def isCorrupt (p : PacketLoss) : Bool := crc32 p.header != p.headerCrc || crc32 p.payload != p.payloadCrc

/-- PACKET_DROP (R313, R458, R464): a packet whose CRCs fail is dropped, a hidden error that delays its context; so is one that meets a
full buffer, which is none. Any other packet is not dropped. Where the packet is of no logged access, but of an engine, a fetch or the
front end, the event names its route and the context that it delays. -/
def execPacketDrop (loss : PacketLoss) (s : State) : Host.Outcome State Fault Refusal :=
  .next (if !isCorrupt loss && !loss.full then s
    else
      match (s.op? loss.op).bind (fun o => (s.groups.get o.gid).map (fun g => (o, g))) with
      | some (o, g) => (if isCorrupt loss then s.relcntUp g.ctx else s).routeTimeout (s.routeOfOp o g)
      | none => (if isCorrupt loss then s.relcntUp loss.ctx else s).routeTimeout ⟨loss.src, loss.dest, loss.slice⟩)

/-- The access of a packet that is sent again, and has arrived. -/
def State.resent (s : State) (op : Nat) : State :=
  match (s.op? op).bind (fun o => (s.groups.get o.gid).map (fun g => (o, g))) with
  | some (o, g) => s.routeGood (s.routeOfOp o g)
  | none => s

/-- PACKET_RESEND (R464): the access is performed, if nothing else delays it. -/
def execPacketResend (op : Nat) (s : State) : Host.Outcome State Fault Refusal := execLongLatencyRetirement op (s.resent op)

/-! ### Packages given up (R465) -/

/-- A global address of a context lies in a page that nothing reaches any more. -/
def State.lostAt (s : State) (ctx core : Nat) (a : W64) : Bool :=
  apertureOf a == .global &&
    (match (s.gpaOf ctx core a.toNat).bind (fun x => (s.pageOfGpa ctx x).bind (fun k => s.mem.pages[k]?)) with
     | some p => p.lost
     | none => false)

/-- The first lane address of a logged access that lies in such a page. -/
def State.lostLane (s : State) (o : MemOp) : Option W64 :=
  match s.groups.get o.gid with
  | none => none
  | some g => if s.onCore g then (o.lanes.map (·.addr)).find? (s.lostAt g.ctx g.core) else none

/-- The data that an access to a package given up leaves in its registers: free values. -/
def State.freeLanes (s : State) (o : MemOp) : List (Nat × List Byte) :=
  o.lanes.map (fun x => (x.lane, (range 0 (opBytes o)).map (fun k =>
    (Config.freeWord (s.free + 16 * x.lane + k)).setWidth 8)))

/-- The cause 0x3B, late, in a fragment, with its record (R436, R465). -/
def State.unreachable (s : State) (w : Who) (a : W64) : State :=
  match s.who? w.gid w.fid with
  | none => s
  | some v => (s.raiseLate v 0x3B (some a)).fatal (v.record 0x3B .fatal .none a 0 0)

/-- An access held towards a package given up completes with 0x3B, late, and what it would store is discarded (R465); an instruction that
waits to be issued again is passed over (log 103). -/
def State.giveUp (s : State) (o : MemOp) (a : W64) : State :=
  match s.opWho o, accForm o.instr with
  | some w, some f =>
    if o.whole then (((s.dropOp o.id).advance w).unreachable w a).opDone o.core o.gid
    else
      let s1 : State := { (s.finishOp o w f (s.freeLanes o)) with free := s.free + 512 }
      ((((s1.dropOp o.id).goOn o w).unreachable w a)).opDone o.core o.gid
  | some w, none => (((s.dropOp o.id).advance w).unreachable w a).opDone o.core o.gid
  | none, _ => s.dropOp o.id

/-- The number and the address of every operation of a group's engines that holds on a mapping. -/
def Engines.holding (e : Engines) : List (Nat × W64) :=
  ((e.copies.map (fun c => (c.id, c.held))) ++ (e.gathers.map (fun o => (o.id, o.held))) ++
    (e.sends.map (fun o => (o.id, o.held))) ++ (e.collStarts.map (fun o => (o.id, o.held))) ++
    (e.collWrites.map (fun o => (o.id, o.held))) ++ (e.matrix.queue.map (fun o => (o.id, o.held)))).filterMap (fun x =>
      x.2.map (fun a => (x.1, a)))

/-- A fragment that waits for a line of such a page takes the cause at its instruction. -/
def State.lostFetch (s : State) (g : Group) (f : Frag) : Option W64 :=
  match f.status with
  | .waiting (.fetch a) => if s.lostAt g.ctx g.core a then some a else none
  | _ => none

/-- Everything that is held towards a package given up: accesses, engine operations, fetches. -/
def State.giveUpHeld (s : State) : State :=
  let s1 := s.ops.foldl (fun s o => match s.lostLane o with | some a => s.giveUp o a | none => s) s
  let s2 := s1.groups.foldl (fun s e =>
    (e.2.eng.holding.filter (fun x => s1.onCore e.2 && s1.lostAt e.2.ctx e.2.core x.2)).foldl (fun s x =>
      s.refuseEngine e.1 x.1 0x3B x.2) s) s1
  ((s1.groups.filter (fun e => s1.onCore e.2)).flatMap (fun e => e.2.frags.map (fun f => (e.1, e.2, f)))).foldl (fun s x =>
    match s1.lostFetch x.2.1 x.2.2 with
    | some a => (s.wake x.1 x.2.2.id).unreachable ⟨x.1, x.2.2.id, x.2.1, x.2.2⟩ a
    | none => s) s2

/-- Something is held towards a package that has been given up. -/
def State.heldLost (s : State) : Bool :=
  s.mem.pages.any (·.lost) &&
    (s.ops.any (fun o => (s.lostLane o).isSome) ||
     s.groups.any (fun e => s.onCore e.2 && (e.2.eng.holding.any (fun x => s.lostAt e.2.ctx e.2.core x.2) ||
       e.2.frags.any (fun f => (s.lostFetch e.2 f).isSome))))

/-- DESTINATION_GIVEN_UP (R465): the pages at home in the package are out of reach from now on. -/
def execDestinationGivenUp (pkg : Nat) (s : State) : Host.Outcome State Fault Refusal :=
  .next (State.giveUpHeld { s with mem := { s.mem with pages := s.mem.pages.map (fun (p : Page) =>
    if p.remote = some pkg then { p with lost := true } else p) } })

end Sys2Proof.Machine
end

