-- ==== Sys2Proof/Machine/Clear.lean ====
section
/-! DEFINITION. The interval: purses, the snapshot with its clearing, the Shuttle's choice, publication, release and the start of
leases, price tables, and the stitch plans that start with an interval (spec/00 R7; spec/10 R223; spec/15 R307; spec/19
R346-R358; spec/21 R380, R381, R385; spec/26 R474). -/

namespace Sys2Proof.Machine

open Sys2Proof

/-! ### Coin (R347, R349) -/

def saturate (n : Nat) : Nat := min n (2 ^ 64 - 1)

def allClasses : List MktClass := [.clu, .bank, .way, .slot, .link]

/-- What a holding's units cost at their prices; a progress grant costs nothing. -/
def Holding.cost (h : Holding) : Nat := sumNat (allClasses.map (fun k => (h.price.at_ k).toNat * (h.units.at_ k).length))

/-- The purse at the start of an interval (R347). -/
def Ctx.payDay (c : Ctx) : Ctx :=
  let spent := c.next.cost
  let base := match c.purseWrite with | some v => v | none => c.purse
  { c with purse := BitVec.ofNat 64 (saturate (base.toNat + c.refill.toNat) - spent), spent := BitVec.ofNat 64 spent,
           purseWrite := none }

/-- Units kept of each class, the dearer worst case first served (R349). -/
def trimFrom (bids : PerClass BidReg) : Nat → List MktClass → PerClass Nat → PerClass Nat
  | _, [], k => k
  | left, c :: t, k =>
    let b := bids.at_ c
    let n := if b.price = 0 then b.units else min b.units (left / b.price.toNat)
    trimFrom bids (left - n * b.price.toNat) t (k.put c n)

def Ctx.snap (id : Nat) (c : Ctx) : Snap :=
  { ctx := id, home := c.home.toNat,
    price := ⟨c.bids.clu.price, c.bids.bank.price, c.bids.way.price, c.bids.slot.price, c.bids.link.price⟩,
    kept := trimFrom c.bids (saturate (c.purse.toNat + c.refill.toNat)) allClasses (PerClass.all 0),
    reach := if c.mig then some c.reach.toNat else none }

/-! ### One auction (R350, R351) -/

/-- A trimmed bid of one class. -/
structure Bid where
  ctx : Nat
  price : Nat
  kept : Nat
  incumbent : Bool
  deriving DecidableEq, Repr

def Bid.before (a b : Bid) : Bool :=
  if a.price ≠ b.price then b.price < a.price
  else if a.incumbent ≠ b.incumbent then a.incumbent
  else a.ctx < b.ctx

def insertBid (x : Bid) : List Bid → List Bid
  | [] => [x]
  | y :: t => if x.before y then x :: y :: t else y :: insertBid x t

/-- What an auction gives: the price, the winners in rank order, the units left. -/
structure Cleared where
  price : Nat
  won : List (Nat × Nat)
  left : Nat
  deriving DecidableEq, Repr

def fillBids : Nat → List Bid → List (Nat × Nat)
  | _, [] => []
  | free, b :: t => (b.ctx, min b.kept free) :: fillBids (free - min b.kept free) t

def wonBy (l : List (Nat × Nat)) (ctx : Nat) : Nat := ((l.find? (fun x => x.1 == ctx)).map (·.2)).getD 0

def maxNat (l : List Nat) : Nat := l.foldl max 0

/-- The auction of U units at a reserve (R350). -/
def clearing (u reserve : Nat) (bids : List Bid) : Cleared :=
  let real := bids.filter (fun b => b.kept != 0)
  let rank := (real.filter (fun b => reserve ≤ b.price)).foldl (fun l b => insertBid b l) []
  let won := fillBids u rank
  let rejected := (real.filter (fun b => wonBy won b.ctx < b.kept)).map (·.price)
  ⟨if rejected.isEmpty then reserve else max reserve (maxNat rejected), won, u - sumNat (won.map (·.2))⟩

/-- Unit numbers: the first pass keeps units held, the second gives free ones, both in rank order (R351). -/
def giveFree : List Nat → List (Nat × Nat × List Nat) → List (Nat × List Nat)
  | _, [] => []
  | free, (c, n, kept) :: t =>
    let more := free.take (n - kept.length)
    (c, kept ++ more) :: giveFree (free.drop more.length) t

def sortNat (l : List Nat) : List Nat := l.foldl (fun a x => insertNat x a) []

def assignUnits (units : List Nat) (held : Nat → List Nat) (won : List (Nat × Nat)) : List (Nat × List Nat) :=
  let first := won.map (fun w => (w.1, w.2, ((held w.1).filter units.contains).take w.2))
  let taken := first.flatMap (fun x => x.2.2)
  giveFree (units.filter (fun u => !taken.contains u)) first

/-! ### The auctions of a die and of the package (R348) -/

def Die.unitsOf (d : Die) : MktClass → List Nat
  | .clu => d.cluUnits
  | .bank => range 0 256
  | .way => range 0 16
  | .slot => range 0 d.slotUnits
  | .link => []

/-- What a context holds of a class here, in the order in which it keeps it. -/
def State.heldHere (s : State) (die : Nat) (cls : MktClass) (ctx : Nat) : List Nat :=
  match s.ctxs.get ctx with
  | none => []
  | some c => if cls = .link ∨ c.home.toNat = die then c.held.units.at_ cls else []

def State.bidsOn (s : State) (die : Nat) (cls : MktClass) (snaps : List Snap) : List Bid :=
  (snaps.filter (fun x => cls == .link || x.home == die)).map (fun x =>
    ⟨x.ctx, (x.price.at_ cls).toNat, x.kept.at_ cls, !(s.heldHere die cls x.ctx).isEmpty⟩)

def State.clearOn (s : State) (die : Nat) (snaps : List Snap) (cls : MktClass) : Cleared :=
  if cls = .link then clearing s.market.lanes.length s.market.reserveLink.toNat (s.bidsOn die .link snaps)
  else
    match s.dies.get die with
    | none => ⟨0, [], 0⟩
    | some d => clearing (d.unitsOf cls).length (d.reserve.at_ cls).toNat (s.bidsOn die cls snaps)

/-! ### The Shuttle (R339, R357) -/

/-- Wins and payment at one die, class by class. -/
structure Deal where
  units : List Nat
  pay : Nat
  deriving DecidableEq, Repr

def homeClasses : List MktClass := [.clu, .bank, .way, .slot]

def State.dealAt (s : State) (die ctx : Nat) (snaps : List Snap) (cls : List MktClass) : Deal :=
  let r := cls.map (fun k => let c := s.clearOn die snaps k; (wonBy c.won ctx, c.price))
  ⟨r.map (·.1), sumNat (r.map (fun x => x.1 * x.2))⟩

/-- What a context would win at a die of another package, by its table. -/
def tableDeal (x : Snap) (prices : List W64) (unsold : List Nat) (die : Nat) : Deal :=
  let one (k : Nat) (cls : MktClass) : Nat × Nat :=
    let at_ := if cls = .link then 16 else 4 * die + k
    let p := (prices.getD at_ 0).toNat
    (if p < (x.price.at_ cls).toNat ∧ x.kept.at_ cls ≤ unsold.getD at_ 0 then x.kept.at_ cls else 0, p)
  let r := [one 0 .clu, one 1 .bank, one 2 .way, one 3 .slot, one 4 .link]
  ⟨r.map (·.1), sumNat (r.map (fun y => y.1 * y.2))⟩

/-- The die is better than home. -/
def Deal.better (home there : Deal) : Bool :=
  (home.units.zip there.units).all (fun x => decide (x.1 ≤ x.2)) &&
    ((home.units.zip there.units).any (fun x => decide (x.1 < x.2)) || (home.pay != 0 && decide (4 * there.pay ≤ 3 * home.pay)))

/-- A die that qualifies: payment, package where it is another one, die. -/
structure Goal where
  pay : Nat
  pkg : Option Nat
  die : Nat
  deriving DecidableEq, Repr

def Goal.before (a b : Goal) : Bool :=
  if a.pay ≠ b.pay then a.pay < b.pay
  else
    match a.pkg, b.pkg with
    | none, some _ => true
    | some _, none => false
    | some p, some q => if p ≠ q then p < q else a.die ≤ b.die
    | none, none => a.die ≤ b.die

def bestGoal : List Goal → Option Goal
  | [] => none
  | x :: t =>
    match bestGoal t with
    | none => some x
    | some y => if x.before y then some x else some y

def reHome (snaps : List Snap) (ctx die : Nat) : List Snap :=
  snaps.map (fun x => if x.ctx = ctx then { x with home := die } else x)

/-- Goals in the own package, with every decided move included. -/
def State.ownGoals (s : State) (x : Snap) (snaps : List Snap) : List Goal :=
  let home := s.dealAt x.home x.ctx snaps homeClasses
  ((s.dies.map (·.1)).filter (fun d => d != x.home)).filterMap (fun d =>
    let there := s.dealAt d x.ctx (reHome snaps x.ctx d) homeClasses
    if home.better there then some ⟨there.pay, none, d⟩ else none)

/-- Goals in other packages whose tables are at most two intervals old. A table's age is the number of this package's own interval
less the interval that the table names, since R7 lets packages number differently and R356 says no more. DESIGN CHOICE (log 159). -/
def State.farGoals (s : State) (x : Snap) (snaps : List Snap) : List Goal :=
  let home := s.dealAt x.home x.ctx snaps allClasses
  (s.market.tables.filter (fun t => s.market.interval.toNat ≤ t.2.1 + 2)).flatMap (fun t =>
    (range 0 4).filterMap (fun d =>
      let there := tableDeal x t.2.2.1 t.2.2.2 d
      if home.better there then some ⟨there.pay, some t.1, d⟩ else none))

def State.goalOf (s : State) (x : Snap) (snaps : List Snap) : Option Goal :=
  match x.reach with
  | some 0 => bestGoal (s.ownGoals x snaps ++ s.farGoals x snaps)
  | some 1 => bestGoal (s.ownGoals x snaps)
  | _ => none

/-- The Shuttle's decisions: contexts in ascending number, at most eight moves. -/
def State.shuttle (s : State) : List Snap → List Snap → List (Nat × Goal) → List Snap × List (Nat × Goal)
  | [], snaps, moves => (snaps, moves)
  | x :: t, snaps, moves =>
    if 8 ≤ moves.length then (snaps, moves)
    else
      match s.goalOf x snaps with
      | none => State.shuttle s t snaps moves
      | some g => State.shuttle s t (if g.pkg = none then reHome snaps x.ctx g.die else snaps) (moves ++ [(x.ctx, g)])

/-! ### Progress grants (R223, R355) -/

/-- The context has work, a refill, and no CLU unit of the coming interval. -/
def State.wantsProgress (s : State) (ctx : Nat) (c : Ctx) : Bool :=
  c.refill != 0 && c.next.units.clu.isEmpty && c.away.isNone && s.tasks.any (fun e => e.2.ctx == ctx && !e.2.completed)

/-- Contexts in rotation after the last one granted. -/
def State.rotated (s : State) : List (Nat × Ctx) :=
  s.ctxs.filter (fun e => decide (s.market.rotation < e.1)) ++ s.ctxs.filter (fun e => decide (e.1 ≤ s.market.rotation))

/-- The die of a grant: the home die of the coming interval, else the lowest free one. -/
def grantDie (free : List Nat) (home : Nat) : Option Nat := if free.contains home then some home else free.head?

def State.grantAll (s : State) : List (Nat × Ctx) → List Nat → State
  | [], _ => s
  | (id, c) :: t, free =>
    match grantDie free (c.moveTo.getD c.home.toNat) with
    | none => s
    | some d =>
      let half := ((s.dies.get d).map (·.progressHalf)).getD 0
      let s1 := s.updCtx id (fun c => { c with next := { c.next with progress := some (d, half) } })
      State.grantAll { s1 with market := { s1.market with rotation := id } } t (free.filter (fun k => k != d))

def State.grantProgress (s : State) : State :=
  s.grantAll ((s.rotated.filter (fun e => s.wantsProgress e.1 e.2)).take 4) (s.dies.map (·.1))

/-! ### The instants of an interval (R7) -/

/-- Cycles since the interval began. -/
def State.elapsed (s : State) : Nat := (s.clock - s.market.t0).toNat - intervalCycles * s.market.interval.toNat

def State.marketUp (s : State) : Bool := s.mode == .up && s.market.started

/-- A context's holding of the coming interval. -/
def State.holdingOf (s : State) (snaps : List Snap) (x : Snap) : Holding :=
  let units (k : MktClass) : List Nat :=
    let r := s.clearOn x.home snaps k
    let all := if k = .link then s.market.lanes else ((s.dies.get x.home).map (fun d => d.unitsOf k)).getD []
    let own := (((assignUnits all (s.heldHere x.home k) r.won).find? (fun e => e.1 == x.ctx)).map (·.2)).getD []
    if k = .bank then own else sortNat own
  let price (k : MktClass) : W64 := BitVec.ofNat 64 (s.clearOn x.home snaps k).price
  { units := ⟨units .clu, units .bank, units .way, units .slot, units .link⟩,
    price := ⟨price .clu, price .bank, price .way, price .slot, price .link⟩, progress := none }

/-- The clearing of a snapshot: moves, holdings, prices, units left, progress grants. -/
def State.clear (s : State) (first : List Snap) : State :=
  let (snaps, moves) := s.shuttle first first []
  let s1 := moves.foldl (fun s m => s.updCtx m.1 (fun c =>
    match m.2.pkg with
    | none => { c with moveTo := some m.2.die }
    | some p => { c with offer := some (p, m.2.die) })) s
  let s2 := snaps.foldl (fun t x => t.updCtx x.ctx (fun c => { c with next := s.holdingOf snaps x })) s1
  let perDie (f : Cleared → Nat) : List (PerClass Nat) := (range 0 4).map (fun d =>
    ⟨f (s.clearOn d snaps .clu), f (s.clearOn d snaps .bank), f (s.clearOn d snaps .way), f (s.clearOn d snaps .slot), 0⟩)
  let link := s.clearOn 0 snaps .link
  let w (n : Nat) : W64 := BitVec.ofNat 64 n
  State.grantProgress { s2 with market := { s2.market with
    stage := .snapshotted, snaps := snaps,
    nextPx := (perDie (·.price)).map (fun p => ⟨w p.clu, w p.bank, w p.way, w p.slot, 0⟩), nextPxLink := w link.price,
    unsold := (perDie (·.left)).map (fun p => { p with link := link.left }) } }

/-- BID_SNAPSHOT (R349-R351, R355, R357). -/
def execBidSnapshot (s : State) : Host.Outcome State Fault Refusal :=
  .next (if s.marketUp ∧ s.market.stage = .bidding ∧ 414000 ≤ s.elapsed then
      s.clear ((s.ctxs.filter (fun e => e.2.away.isNone)).map (fun e => Ctx.snap e.1 e.2))
    else s)

/-- PRICE_PUBLICATION (R352). -/
def execPricePublication (s : State) : Host.Outcome State Fault Refusal :=
  .next (if s.marketUp ∧ s.market.stage = .snapshotted ∧ 423000 ≤ s.elapsed then
      { s with dies := s.dies.map (fun (e : Nat × Die) => (e.1, { e.2 with px := s.market.nextPx.getD e.1 e.2.px })),
               market := { s.market with stage := .published, pxLink := s.market.nextPxLink } }
    else s)

/-! ### Records and configurations as bytes (R346, R348) -/

/-- A market record (R346). -/
def Ctx.record (c : Ctx) : List Byte :=
  natBytes 8 c.purse.toNat ++ natBytes 8 c.refill.toNat ++ natBytes 8 c.spent.toNat ++
    natBytes 8 (1024 * c.pkg.toNat + 256 * c.reach.toNat + (if c.mig then 128 else 0) + c.home.toNat)

/-- The control registers of a context that software writes (R404). -/
def Ctx.ctlBytes (c : Ctx) : List Byte := natBytes 8 c.trapvec.toNat ++ natBytes 8 c.lpext.toNat ++ natBytes 8 c.relcnt.toNat

/-- A context's configuration; its layout is the model's (log 24). -/
def Ctx.config (c : Ctx) : List Byte :=
  natBytes 8 c.root1.toNat ++ natBytes 8 c.root2.toNat ++ natBytes 8 c.saveArea.toNat ++ natBytes 8 c.lpext.toNat ++
    natBytes 4 (if c.vi.isSome then 1 else 0) ++ natBytes 4 c.vlan ++ natBytes 16 c.hostAddr ++ natBytes 8 c.ip4 ++
    natBytes 16 c.ip6 ++ fit 256 (c.windows.flatMap (fun w => natBytes 8 w.1.toNat ++ natBytes 8 w.2.toNat)) ++
    fit 2048 (c.slotBase.flatMap (fun b => natBytes 8 b.toNat))

/-- The configuration set from its bytes. A bound VI carries the context's number (R346); its count of notifications starts
when it is bound (R297). DESIGN CHOICE (log 154): so do the replies that it remembers, of which the spec does not say whether they
outlast an unbinding. -/
def Ctx.configure (c : Ctx) (id : Nat) (b : List Byte) : Ctx :=
  let w (off : Nat) : W64 := BitVec.ofNat 64 (fieldAtOff b off 8)
  let bound := fieldAtOff b 32 4 % 2 = 1
  { c with root1 := w 0, root2 := w 8, saveArea := w 16, lpext := w 24,
           vi := if bound then some id else none, vlan := fieldAtOff b 36 4, hostAddr := fieldAtOff b 40 16,
           ip4 := fieldAtOff b 56 8, ip6 := fieldAtOff b 64 16,
           windows := (range 0 16).map (fun k => (w (80 + 16 * k), w (88 + 16 * k))),
           slotBase := (range 0 256).map (fun k => w (336 + 8 * k)),
           notes := if bound ∧ c.vi.isNone then 0 else c.notes, replies := if bound ∧ c.vi.isNone then [] else c.replies,
           pendingSeqs := if bound ∧ c.vi.isNone then [] else c.pendingSeqs }

/-! ### Release (R353, R354) -/

/-- Half-clusters that a context loses at the end of the interval. -/
def Ctx.lostHalves (c : Ctx) : List (Nat × Nat) := c.halvesNow.filter (fun h => !c.halvesNext.contains h)

/-- Banks that it holds in the coming interval; none of them on a new home die is one of the present ones. -/
def Ctx.keptBanks (c : Ctx) : Nat := if c.moveTo.isSome then 0 else c.next.units.bank.length

/-- Resident teams of a context that a test picks are saved. -/
def State.saveWhere (s : State) (ctx : Nat) (why : SaveReason) (p : Team → Bool) : State :=
  ((s.teams.filter (fun e => e.2.ctx == ctx && e.2.onCores && p e.2)).map (·.1)).foldl (fun s k => s.saveTeam k why) s

/-- Poison follows the bytes of a bank to its backing, or back: level 4 is a bank, level 5 a backing. -/
def bankPoison (l : List Poison) (lvl key lvl' key' : Nat) : List Poison :=
  l.map (fun p => if p.level = lvl ∧ p.line / 2048 = key then { p with level := lvl', line := key' * 2048 + p.line % 2048 } else p)

/-- The bytes of a bank put into the HBM behind it. -/
def intoSys (sys bank : Mem) (base : Nat) : Mem :=
  bank.foldl (fun t c => t.write (base + c.1) c.2) (sys.filter (fun c => !(base ≤ c.1 && c.1 < base + bankBytes)))

/-- The bytes behind a bank, numbered as the bank numbers them. -/
def outOfSys (sys : Mem) (base : Nat) : Mem :=
  (sys.filter (fun c => base ≤ c.1 && c.1 < base + bankBytes)).foldl (fun t c => t.write (c.1 - base) c.2) []

/-- One bank goes to its backing: the HBM that the operator assigned to its window slot; a store of the model's own, where none
is assigned (log 139). -/
def State.storeBank (s : State) (ctx die slot bank : Nat) : State :=
  match s.dies.get die, s.ctxs.get ctx with
  | some d, some c =>
    let s1 := s.updDie die (fun d => { d with banks := d.banks.del bank })
    match c.slotHome slot with
    | some base => { s1 with mem := { s.mem with
        sys := intoSys s.mem.sys (memOf d.banks bank) base,
        poison := bankPoison s.mem.poison 4 (256 * die + bank) 0 (base / bankBytes) } }
    | none =>
      let key := 1024 * ctx + slot
      { s1 with mem := { s.mem with backing := s.mem.backing.set key (memOf d.banks bank),
                                    poison := bankPoison s.mem.poison 4 (256 * die + bank) 5 key } }
  | _, _ => s

/-- One bank is loaded from its backing. -/
def State.loadBank (s : State) (ctx die slot bank : Nat) : State :=
  match s.ctxs.get ctx with
  | none => s
  | some c =>
    let (lvl, key, bytes) : Nat × Nat × Mem :=
      match c.slotHome slot with
      | some base => (0, base / bankBytes, outOfSys s.mem.sys base)
      | none => (5, 1024 * ctx + slot, memOf s.mem.backing (1024 * ctx + slot))
    State.updDie { s with mem := { s.mem with poison := bankPoison s.mem.poison lvl key 4 (256 * die + bank) } } die
      (fun d => { d with banks := d.banks.set bank bytes })

/-- Bids as bytes: price and units of each class (R336). -/
def Ctx.bidBytes (c : Ctx) : List Byte :=
  allClasses.flatMap (fun k => natBytes 8 (c.bids.at_ k).price.toNat ++ natBytes 4 (c.bids.at_ k).units)

/-- The bytes that the images of a context's teams take (R455). -/
def State.imagesOf (s : State) (ctx : Nat) : Nat :=
  sumNat ((s.teams.filter (fun e => e.2.ctx == ctx && e.2.state != .ended)).map (fun e => (s.teamImage e.2).length))

/-- The offer of a context to another package: its market record with the die chosen, its control registers, its bids, its configuration,
its anchor package and its number there, and the bytes of its images (R357, R358, R404). -/
def State.offerBytes (s : State) (id : Nat) (c : Ctx) (die image : Nat) : List Byte :=
  let home := c.anchor.getD (s.market.pkg.toNat, id)
  Ctx.record { c with home := BitVec.ofNat 2 die } ++ c.ctlBytes ++ c.bidBytes ++ c.config ++ natBytes 1 home.1 ++ natBytes 2 home.2 ++
    natBytes 8 image

/-- What one context gives up; one that is to go to another package is offered there (R357). -/
def State.releaseCtx (s : State) (id : Nat) (c : Ctx) : State :=
  let lost := c.lostHalves
  let n := c.keptBanks
  let s1 := s.saveWhere id .lease (fun t =>
    t.cores.any (fun k => lost.contains (coreHalf k)) ||
      (n < c.held.units.bank.length && decide (n < (s.launchOf t.task).banks)))
  let s2 := (range n (c.held.units.bank.length - n)).foldl (fun s i =>
    s.storeBank id c.home.toNat i (c.held.units.bank.getD i 0)) s1
  let ways := c.held.units.way.filter (fun k => c.moveTo.isSome || !c.next.units.way.contains k)
  let s3 := s2.l2Drop (fun x => x.ctx == id && x.die == c.home.toNat && ways.contains x.way)
  match c.offer with
  | some (p, d) => s3.sendPod podOffer p id (s3.offerBytes id c d (s3.imagesOf id))
  | none => s3

/-- The price table that goes to every other package of the pod: prices, then units unsold, by die and class, with LINK last
(R356). -/
def State.priceTable (s : State) : List Byte :=
  let m := s.market
  (range 0 4).flatMap (fun d => homeClasses.flatMap (fun k => natBytes 8 (((m.nextPx.map (fun (p : PerClass W64) => p.at_ k)).getD d 0).toNat))) ++
    natBytes 8 m.nextPxLink.toNat ++
    (range 0 4).flatMap (fun d => homeClasses.flatMap (fun k => natBytes 4 ((m.unsold.map (fun (p : PerClass Nat) => p.at_ k)).getD d 0))) ++
    natBytes 4 (m.unsold.map (fun (p : PerClass Nat) => p.link)).headI

/-- RELEASE_WINDOW (R353). -/
def execReleaseWindow (s : State) : Host.Outcome State Fault Refusal :=
  .next (if s.marketUp ∧ s.market.stage = .published ∧ 423000 ≤ s.elapsed then
      let s1 := s.ctxs.foldl (fun s e => s.releaseCtx e.1 e.2) s
      State.sendPod { s1 with market := { s1.market with stage := .released } } podPrices 64 s.market.interval.toNat s.priceTable
    else s)

/-! ### Moves of contexts (R342, R356-R358) -/

def State.inWindow (s : State) : Bool := s.market.stage == .published || s.market.stage == .released

/-- CONTEXT_MIGRATE (R357): a context that is to move is saved whole in the release window. -/
def execContextMigrate (ctx : Nat) (s : State) : Host.Outcome State Fault Refusal :=
  .next (match s.ctxs.get ctx with
    | none => s
    | some c =>
      if s.marketUp ∧ s.inWindow ∧ (c.moveTo.isSome ∨ c.offer.isSome) then s.saveWhere ctx .lease (fun _ => true) else s)

/-- The receiving package's answer (R357). An accepted context is saved, its banks are written back, and it holds nothing in the
coming interval; it goes to the die that was chosen. Its PKG changes with the acceptance (DESIGN CHOICE, log 172). -/
def State.answered (s : State) (id : Nat) (ok : Bool) (num : Nat) : State :=
  match s.ctxs.get id with
  | none => s
  | some c =>
    match c.offer with
    | none => s
    | some (p, d) =>
      if !s.marketUp || !s.inWindow then s
      else if !ok then s.updCtx id (fun c => { c with offer := none })
      else
        let s1 := s.saveWhere id .lease (fun _ => true)
        let kept := if s.market.stage = .released then c.keptBanks else c.held.units.bank.length
        let s2 := (range 0 kept).foldl (fun s i => s.storeBank id c.home.toNat i (c.held.units.bank.getD i 0)) s1
        (s2.l2Drop (fun x => x.ctx == id && c.held.units.way.contains x.way)).updCtx id (fun c =>
          { c with next := Holding.none, offer := none, moveTo := some d, away := some p, awayNo := num, pkg := BitVec.ofNat 6 p })

/-- Bids set from their prices and units, in the order of the classes. -/
def bidsOf (l : List (W64 × Nat)) : PerClass BidReg :=
  let b (k : Nat) : BidReg := match l[k]? with | some x => ⟨x.1, x.2⟩ | none => BidReg.none
  ⟨b 0, b 1, b 2, b 3, b 4⟩

/-- What a context brings with it: PURSE, REFILL, SPENT, its mark and its die, and its control registers (R346, R404). -/
def Ctx.bring (c : Ctx) (own : BitVec 6) (r : List Byte) : Ctx :=
  let f := fieldAtOff r 24 8
  let w (off : Nat) : W64 := BitVec.ofNat 64 (fieldAtOff r off 8)
  { c with purse := w 0, refill := w 8, spent := w 16, pkg := own, reach := BitVec.ofNat 2 (f / 256), mig := f / 128 % 2 = 1,
           home := BitVec.ofNat 2 f, trapvec := w 32, lpext := w 40, relcnt := w 48 }

/-- The context number that a received context takes: the lowest to which no VI is bound, and no context either (R346, R358; which one
is a DESIGN CHOICE, log 171). -/
def State.freeCtx (s : State) : Option Nat := (range 0 256).find? (fun k => (s.ctxs.get k).isNone)

/-- A context that another package offers is accepted where there is room for its image, and a number: at its anchor its own, elsewhere a
free one (R358). Its bids enter the next snapshot; the offering package learns its number, and so does an anchor that did not offer
it. -/
def State.offered (s : State) (pkg num apkg anchor : Nat) (r : List Byte) (bids : List (W64 × Nat)) (config : List Byte)
    (room : Bool) : State :=
  let own := s.market.pkg.toNat
  let yes (s : State) (id : Nat) : State := s.sendPod podAnswer pkg num (1 :: natBytes 2 id)
  let no : State := s.sendPod podAnswer pkg num [0]
  if !s.marketUp || !s.inWindow then s
  else if !room then no
  else if apkg = own then
    match s.ctxs.get anchor with
    | some c =>
      if c.away.isSome then
        yes (s.updCtx anchor (fun c =>
          { c.bring s.market.pkg r with away := none, coming := true, bids := bidsOf bids })) anchor
      else no
    | none => no
  else
    match s.freeCtx with
    | none => no
    | some id =>
      let c := (({ Ctx.fresh with born := s.market.interval } : Ctx).configure id config).bring s.market.pkg r
      let s1 := yes { s with ctxs := s.ctxs.set id { c with vi := none, anchor := some (apkg, anchor), bids := bidsOf bids } } id
      if apkg = pkg then s1 else s1.sendPod podMoved apkg anchor (natBytes 1 own ++ natBytes 2 id)

/-- What the images of a context hold (R455), and what comes with it: its pages with their bytes, lane-private bytes, and the backing of
its banks by their slots (R348, R386). -/
structure Work where
  tasks : Table Task
  teams : Table Team
  groups : Table Group
  ops : List MemOp
  pages : List Page
  bytes : Mem
  poison : List Poison
  priv : Table Mem
  backing : Table Mem
  deriving DecidableEq, Repr, Inhabited

/-- The bytes that carry the work of a context between packages, and the work in such bytes, its records numbered from a given number on:
the spec gives an image items and sizes, and no layout (R455; log 137). -/
opaque workImage : Work → List Byte
opaque imageWork : Nat → List Byte → Work

/-- The work of a context as it leaves. -/
def State.workOf (s : State) (id : Nat) : Work :=
  let groups := s.groups.filter (fun (e : Nat × Group) => e.2.ctx == id)
  let pages := s.mem.pages.filter (fun p => p.ctx == id && p.remote.isNone)
  let inPage (a : Nat) : Bool := pages.any (fun p => p.frame ≤ a && a < p.frame + p.size)
  { tasks := s.tasks.filter (fun (e : Nat × Task) => e.2.ctx == id),
    teams := s.teams.filter (fun (e : Nat × Team) => e.2.ctx == id),
    groups := groups,
    ops := s.ops.filter (fun (o : MemOp) => groups.any (fun e => e.1 == o.gid)),
    pages := pages,
    bytes := s.mem.sys.filter (fun c => inPage c.1),
    poison := s.mem.poison.filter (fun p => p.level == 0 && inPage (128 * p.line)),
    priv := s.mem.priv.filter (fun e => groups.any (fun g => g.1 == e.1 / 32)),
    backing := (s.mem.backing.filter (fun e => e.1 / 1024 == id)).map (fun e => (e.1 % 1024, e.2)) }

/-- A task of the work with its command: one that counts for the anchor's command, or that command itself (R358). -/
def State.installTask (s : State) (id : Nat) (remote : Option Nat) (e : Nat × Task) : State :=
  let up (k : Nat) (s : State) : State :=
    { s with tasks := s.tasks.set e.1 { e.2 with ctx := id, cmd := k, images := e.2.images.filter (fun x => x.2.wf) },
             cmds := s.cmds.upd k (fun c => { c with count := c.count + e.2.groupsLive, placed := true }) }
  match remote with
  | none => up e.2.cmd s
  | some pkg =>
    match s.cmds.find? (fun c => c.2.remote == some (pkg, e.2.cmd)) with
    | some (k, _) => up k s
    | none => up s.nextId { s with nextId := s.nextId + 1, cmds := s.cmds.set s.nextId ⟨noQueue, 0, true, 0, false, some (pkg, e.2.cmd)⟩ }

/-- The pages of a context come with it, in flight to their frames, youngest first; their bytes stand there, poison with them (R384,
R386). -/
def State.installPages (s : State) (id : Nat) (w : Work) : State :=
  let free (p : Page) : Bool := s.mem.pages.all (fun q => q.frame + q.size ≤ p.frame || p.frame + p.size ≤ q.frame)
  let new := (w.pages.filter free).map (fun p => { p with ctx := id, remote := some 0 })
  let mine (a : Nat) : Bool := (new ++ s.mem.pages.filter (fun p => p.ctx == id && p.remote.isSome)).any (fun p =>
    p.frame ≤ a && a < p.frame + p.size)
  State.pagesBack { s with mem := { s.mem with
    pages := s.mem.pages ++ new,
    sys := (w.bytes.filter (fun c => mine c.1)).foldl (fun m c => m.write c.1 c.2) (s.mem.sys.filter (fun c => !mine c.1)),
    poison := s.mem.poison.filter (fun p => !(p.level == 0 && mine (128 * p.line))) ++
      w.poison.filter (fun p => p.level == 0 && mine (128 * p.line)),
    priv := (w.priv.filter (fun e => s.nextId ≤ e.1 / 32 && e.2.wf)).foldl (fun t e => Table.set t e.1 e.2) s.mem.priv,
    backing := (w.backing.filter (fun e => e.1 < 1024 && e.2.wf)).foldl (fun t e => Table.set t (1024 * id + e.1) e.2) s.mem.backing } } id

/-- The work of a context enters with its pages and as saved teams, which are restored once the context holds what they need (R224, R357,
R358, R386). -/
def State.installWork (s : State) (id : Nat) (remote : Option Nat) (image : List Byte) : State :=
  let n := s.nextId
  let w := imageWork n image
  let new (k : Nat) : Bool := n ≤ k
  let top := maxNat ((w.tasks.map (·.1)) ++ (w.teams.map (·.1)) ++ (w.groups.map (·.1)) ++
    (w.groups.flatMap (fun e => e.2.frags.map (·.id))) ++ (w.ops.map (·.id)))
  let tasks := w.tasks.filter (fun e => new e.1)
  let s0 := s.installPages id w
  let s1 : State := { s0 with
    nextId := max n (top + 1),
    teams := (w.teams.filter (fun e => new e.1)).foldl (fun t e =>
      Table.set t e.1 { e.2 with ctx := id, state := .saved .lease, image := none }) s.teams,
    groups := (w.groups.filter (fun e => new e.1)).foldl (fun t e => Table.set t e.1 { e.2 with ctx := id }) s.groups,
    ops := s.ops ++ w.ops.filter (fun o => new o.id && new o.gid),
    cmds := if remote.isNone then s.cmds.map (fun (e : Nat × Cmd) =>
        if tasks.any (fun x => x.2.cmd == e.1) then (e.1, { e.2 with count := 0 }) else e) else s.cmds }
  tasks.foldl (fun s e => s.installTask id remote e) s1

/-- The images of a context have come: of a guest, or of one that is back at its anchor, with its own number and all its pages (R358,
R386). -/
def State.received (s : State) (id : Nat) (image : List Byte) : State :=
  match s.ctxs.get id with
  | none => s
  | some c =>
    match c.anchor with
    | some (pkg, _) => s.installWork id (some pkg) image
    | none => if c.coming then (s.updCtx id (fun c => { c with coming := false })).installWork id none image else s

/-- A context of this anchor has moved on, and its tasks go to the package that runs it now (R358). -/
def State.movedOn (s : State) (id pkg num : Nat) : State :=
  s.updCtx id (fun c => if c.away.isSome then { c with away := some pkg, awayNo := num, pkg := BitVec.ofNat 6 pkg } else c)

/-- A task that the anchor of a guest context sends (R358). -/
def State.podTask (s : State) (id cmd : Nat) (launch : List Byte) : State :=
  match (s.ctxs.get id).bind (·.anchor), parseLaunch launch with
  | some (pkg, _), some l => s.createTask ⟨noQueue, 0, false, 0, false, some (pkg, cmd)⟩ id l
  | _, _ => s

/-- The running package reports the completion of a command (R358). -/
def State.podDone (s : State) (cmd : Nat) : State :=
  match s.cmds.get cmd with
  | none => s
  | some c =>
    if c.completed || c.remote.isSome then s
    else State.push { s with cmds := s.cmds.upd cmd (fun c => { c with placed := true, count := 0 }) } (.commandComplete cmd)

/-- MIGRATION_ACCEPT (R357, R358): what another package tells of a context that moves. -/
def execMigrationAccept (about : Nat) (news : PodNews) (s : State) : Host.Outcome State Fault Refusal :=
  .next (match news with
    | .answer ok num => s.answered about ok num
    | .offered num apkg anchor r bids config room => s.offered about num apkg anchor r bids config room
    | .work image => s.received about image
    | .moved pkg num => s.movedOn about pkg num
    | .task cmd launch => s.podTask about cmd launch
    | .done => s.podDone about)

/-- PRICE_TABLE_RECEIVE (R356). -/
def execPriceTableReceive (pkg ival : Nat) (prices : List W64) (unsold : List Nat) (s : State) :
    Host.Outcome State Fault Refusal :=
  .next { s with market := { s.market with
    tables := s.market.tables.filter (fun t => t.1 != pkg) ++ [(pkg, ival, prices, unsold)] } }

/-! ### Stitch plans (R380, R381) -/

/-- The half-clusters of REGION. -/
def Die.regionHalves (d : Die) (region : Nat) : List Nat :=
  ((range 0 d.physical.length).filter (fun c => (BitVec.ofNat 24 region).getLsbD (d.physical.getD c 24))).flatMap (fun c =>
    [2 * c, 2 * c + 1])

/-- The holders of half-clusters of a die. -/
def State.holders (s : State) (die : Nat) (halves : List Nat) : List (Option Nat) :=
  (halves.map (fun h => (s.ctxs.find? (fun e => e.2.halvesNow.contains (die, h))).map (·.1))).eraseDups

/-- The router serves only clusters of REGION, or nothing (R381). -/
def inRegion (die region r : Nat) : Bool :=
  !Config.routerOther die r && (Config.routerClusters die r).all (fun c => (BitVec.ofNat 24 region).getLsbD c)

/-- The partner of a port that is in use. -/
def partnerOf (b : List Byte) (r p : Nat) : Option (Nat × Nat) := if portOn b r p then some (linkOf b r p) else none

/-- A link whose partner differs from the plan in force has both ends in REGION: the old link and the new one. -/
def planChanges (old new : List Byte) (die region : Nat) : Bool :=
  (List.range 64).all (fun r => (List.range 4).all (fun p =>
    partnerOf old r p == partnerOf new r p ||
      (inRegion die region r && ((partnerOf old r p).toList ++ (partnerOf new r p).toList).all (fun f => inRegion die region f.1))))

/-- Every condition of R381. -/
def State.planOk (s : State) (die : Nat) (d : Die) : Bool :=
  let b := d.staged
  let region := fieldAtOff b 8 3
  planForm b die && d.plan.gen < planGen b && planSymmetric b && planChanges d.plan.bytes b die region &&
    (s.holders die (d.regionHalves region)).length ≤ 1 && planRoutes b d die

/-- Packets of a die's cores that are under way when its links change are dropped and resent: delay (R313, R381). -/
def State.dropPackets (s : State) (die : Nat) (old new : List Byte) : State :=
  if (List.range 64).all (fun r => (List.range 4).all (fun p => partnerOf old r p == partnerOf new r p)) then s
  else { s with due := s.due ++ (s.ops.filter (fun o => coreDie o.core == die && o.stage == .issued)).map (fun o => .packetResend o.id) }

/-- A plan that an action asked for takes force, in this step, with the slices that it maps out (R377); or it is refused and the refusal
reported to the operator; the form of that report is open (log 20). -/
def State.startPlan (s : State) (die : Nat) (d : Die) : State :=
  if !d.apply then s
  else if s.planOk die d then
    ((s.dropPackets die d.plan.bytes d.staged).updDie die (fun d =>
      { d with plan := ⟨planGen d.staged, d.staged⟩, apply := false })).mapOut die d
  else
    ((s.updDie die (fun d => { d with apply := false })).send
      ⟨19, 0, 0, s.freeValue.setWidth 32, BitVec.ofNat 64 die, []⟩).takeFree

/-! ### The start of an interval (R7, R347, R353) -/

/-- The context's lease of the coming interval begins; the purse of one that runs elsewhere is kept there. -/
def Ctx.begin_ (c : Ctx) : Ctx :=
  let paid := if c.away.isSome then c else c.payDay
  { paid with held := c.next, next := Holding.none, moveTo := none, offer := none,
              home := match c.moveTo with | some d => BitVec.ofNat 2 d | none => c.home }

/-- Banks that are new in their slots are loaded from their backing. -/
def State.loadBanks (s : State) (id : Nat) (old new : Ctx) : State :=
  (range 0 new.held.units.bank.length).foldl (fun s i =>
    let b := new.held.units.bank.getD i 0
    if old.home = new.home ∧ old.held.units.bank[i]? = some b then s else s.loadBank id new.home.toNat i b) s

/-- Candidates whose region was empty and is so no longer wait from this start (R307). -/
def State.reviveCands (s old : State) : State :=
  { s with fe := { s.fe with cands := s.fe.cands.map (fun c =>
      if (old.candRegion c).isEmpty ∧ !(s.candRegion c).isEmpty then
        { c with waitingSince := c.waitingSince.map (fun _ => s.clock), aged := false, noRegion := false }
      else c) } }

/-- The edge flushes in progress of a context's tasks complete, although their tasks leave (R354, R424). -/
def State.endEdges (s : State) (ctx : Nat) : State :=
  s.edges.foldl (fun s e =>
    match s.tasks.get e.2.pred with
    | some p => if p.ctx = ctx then
        { s.flushRegion ctx e.2.ranges with edges := s.edges.del e.1,
                                            cmds := s.cmds.upd p.cmd (fun c => { c with edges := c.edges - 1 }) } else s
    | none => s) s

/-- The work of a context that another package has accepted leaves with its images; its unfinished commands wait for their completion
reports, and those of a guest go with it (R357, R358). -/
def State.sendWork (s : State) (id : Nat) (c : Ctx) : State :=
  match c.away with
  | none => s
  | some p =>
    if !s.tasks.any (fun e => e.2.ctx == id) && c.held == Holding.none && (s.pagesOf id false).isEmpty then s
    else
      let n := s.imagesOf id
      let w := ((s.endEdges id).pagesAway id p).workOf id
      let pages := (s.pagesOf id false).map (·.2)
      let s := (s.endEdges id).pagesAway id p
      let mine0 := s.groups.filter (fun (e : Nat × Group) => e.2.ctx == id)
      let mine := (s.tasks.filter (fun e => e.2.ctx == id)).map (·.2.cmd)
      State.sendPod { s with
        mem := { s.mem with priv := s.mem.priv.filter (fun e => !mine0.any (fun g => g.1 == e.1 / 32)) },
        teams := s.teams.filter (fun (e : Nat × Team) => e.2.ctx != id),
        groups := s.groups.filter (fun (e : Nat × Group) => e.2.ctx != id),
        tasks := s.tasks.filter (fun (e : Nat × Task) => e.2.ctx != id),
        ops := s.ops.filter (fun (o : MemOp) => (s.groups.get o.gid).all (fun g => g.ctx != id)),
        fe := { s.fe with cands := s.fe.cands.filter (fun (k : Candidate) => k.ctx != id) },
        cmds := (s.cmds.filter (fun (e : Nat × Cmd) => !(mine.contains e.1 && e.2.remote.isSome))).map (fun (e : Nat × Cmd) =>
          if mine.contains e.1 && !e.2.completed then (e.1, { e.2 with placed := true, count := 1 }) else e) }
        podContext p c.awayNo (s.offerBytes id c (c.moveTo.getD c.home.toNat) n ++ workImage { w with pages := pages })

/-- A context that another package has accepted leaves; the number of one that was received becomes free, and no half keeps it as the
owner of its tiles (R321, R358). -/
def State.sendAway (s : State) (id : Nat) (c : Ctx) : State :=
  let s1 := s.sendWork id c
  if c.away.isSome ∧ c.anchor.isSome then
    { s1 with ctxs := s1.ctxs.del id,
              mem := { s1.mem with pages := s1.mem.pages.filter (fun p => p.ctx != id) },
              halves := s1.halves.map (fun (e : Nat × Half) =>
                (e.1, if e.2.owner = some id then { e.2 with owner := none, tiles := [] } else e.2)) }
  else s1

/-- A half that a context did not hold before counts its holder's steps and cycles from zero (R362). -/
def State.freshCounters (s : State) (old new : Ctx) : State :=
  ((new.halvesNow.filter (fun h => !old.halvesNow.contains h))).foldl (fun s h =>
    s.updHalf (44 * h.1 + h.2) (fun x => { x with steps := 0, busy := 0, wait := 0 })) s

/-- From 105 °C an information record is made, once per interval (R474). -/
def State.noteHeat (s : State) : State :=
  if s.mgmt.thermal = .sevenEighths ∧ !s.mgmt.heatNoted then
    State.inform { s with mgmt := { s.mgmt with heatNoted := true } } 0
  else s

/-- The steps of cycle 0 for contexts, banks, pages and plans. -/
def State.beginInterval (s : State) : State :=
  let s1 := { s with ctxs := s.ctxs.map (fun (e : Nat × Ctx) => (e.1, e.2.begin_)),
                     mem := { s.mem with pages := s.mem.pages.map Page.older } }
  let s2 := s.ctxs.foldl (fun t e =>
    let t1 := ((t.sendAway e.1 e.2).loadBanks e.1 e.2 e.2.begin_).freshCounters e.2 e.2.begin_
    match e.2.moveTo with
    | some d => if e.2.away.isSome then t1 else t1.movePages e.1 e.2.home.toNat d
    | none => t1) s1
  let s3 := (s2.retryMoves).resplitSram.reviveCands s
  let s4 : State := (s3.dies.foldl (fun (t : State) e => t.startPlan e.1 e.2) s3).oweAll
  State.noteHeat { s4 with mgmt := { s4.mgmt with heatNoted := false } }

/-- INTERVAL_START (R7, R347, R353, R381, R385). -/
def execIntervalStart (s : State) : Host.Outcome State Fault Refusal :=
  .next (if s.marketUp ∧ s.market.stage = .released ∧ intervalCycles ≤ s.elapsed then
      let s1 := s.beginInterval
      { s1 with market := { s1.market with interval := s1.market.interval + 1, stage := .bidding, snaps := [] },
                due := s1.due ++ s1.ctxs.map (fun e => .placementRound e.1) }
    else s)

end Sys2Proof.Machine
end

