-- ==== Sys2Proof/Machine/Reliab.lean ====
section
/-! DEFINITION. Restart at CR.IDEMPC, the move to other silicon, late transitions, and the withdrawal of pipes and cores (spec/26
R458-R463). -/

namespace Sys2Proof.Machine

open Sys2Proof

/-! ### Restart (R461) -/

/-- The registers that an error made bad are covered: written since CR.IDEMPC. -/
def Group.covered (g : Group) : HwError → Bool
  | .vreg n j => g.written.contains (8 * n + j)
  | .sreg n => g.written.contains (sMark n)
  | _ => true

/-- Accesses that a restart drops: what has not retired and is no store; logged stores stand. -/
def restartOps (ops : List MemOp) (gid : Nat) : List MemOp :=
  ops.filter (fun o => o.gid != gid || o.stage == .sideLogged ||
    (match accForm o.instr with | some a => a.posted && !o.whole && !o.waits | none => false))

/-- The group at CR.IDEMPC: one fragment of every live slice, no region, no handling. -/
def Group.rewound (g : Group) (id : Nat) : Group :=
  let pc := (Pc.ofAddr g.idemPc).getD ⟨g.idemPc, 0⟩
  { g with
    s := if g.hm then g.s.take 56 ++ g.shadow else g.s,
    frags := [g.freshFrag id pc g.idemFmt g.idemStack], bindings := [], tryR := none, hm := false, handling := none,
    replay := none, stalled := [], barWait := [] }

/-- The restart of a group: blocks that an open region held are free again, and what is pending behind a handling that it ends is
delivered (R438, R439, R461). -/
def State.rewind (s : State) (gid : Nat) (g : Group) : State :=
  let n := match g.tryR with | some t => t.blocks | none => 0
  let s1 := (s.dropCur [gid]).leaveWaits gid (fun _ => true)
  let s2 := { s1.updGroup gid (fun g => g.rewound s1.nextId) with nextId := s1.nextId + 1, ops := restartOps s1.ops gid }
  let s3 := match g.handling with | some h => if h.bobbin then s2.resumeBobbin g else s2 | none => s2
  State.deliverHeld (State.opGone (if n = 0 then s3 else s3.freeBlocks g.core g.octet n) g.core gid) gid

/-- The code of an error that nothing hides, and CR.TVAL where the rule states it (R458, R461; log 173). -/
def errorCause : HwError → Nat × Option W64
  | .pipe _ => (0x38, none)
  | .vreg n j => (0x39, some (BitVec.ofNat 64 (128 * n + 16 * j)))
  | .sreg n => (0x39, some (BitVec.ofNat 64 (0x8000 + 8 * n)))
  | .buffer => (0x38, none)
  | .poison a _ _ => (0x38, some a)
  | .matrix _ => (0x3C, none)
  | .hidden _ => (0x38, none)
  | .delay _ _ => (0x38, none)
  | .image => (0x3D, none)
  | .line _ _ => (0x38, none)
  | .dirty _ => (0x38, none)
  | .clean _ => (0x38, none)

/-- The error is one that the group's own work consumed (R458, R461, R363): neither hidden, nor of a saved image, nor a line that
nothing has read yet. -/
def isConsumed : HwError → Bool
  | .hidden _ | .delay _ _ | .image | .line _ _ | .dirty _ | .clean _ => false
  | .pipe _ | .vreg _ _ | .sreg _ | .buffer | .poison _ _ _ | .matrix _ => true

/-- The fragment to whose instruction an error belongs, where it belongs to one (R436). -/
def errorFrag : HwError → Option Nat
  | .pipe fid | .poison _ _ fid | .matrix fid => some fid
  | _ => none

/-- The fragment whose instruction an error hit, where it is still there; else the one of the lowest slice (R436). -/
def State.errorWho (s : State) (gid : Nat) (e : HwError) : Option Who :=
  match (errorFrag e).bind (s.who? gid) with
  | some w => some w
  | none => s.engineWho gid

/-- The guest virtual address of an error, for its record (R449). -/
def errorGva : HwError → W64
  | .poison a _ _ => a
  | _ => 0

/-- A reliability cause reaches the group late, with its fatal record (R436, R449). -/
def State.raiseFatal (s : State) (gid code : Nat) (tval : Option W64) (e : HwError) : State :=
  match s.errorWho gid e with
  | none => s
  | some w => (s.raiseLate w code tval).fatal (w.record code .fatal .none (errorGva e) 0 0)

/-- An uncorrectable dirty line leaves its L1 unwritten, and its home line is poisoned (R459). -/
def State.loseDirty (s : State) (core ctx line : Nat) : State :=
  match (s.cores.get core).bind (fun c => c.copy? line) with
  | some l => if l.isDirty then (s.updCore core (fun c => c.drop line)).poisonLine ctx (.spa (128 * line)) else s
  | none => s

/-- An error hidden in place delays a context, and is counted: a correction of a memory line in its row, another one for the die
(R387, R388, R458, R472). -/
def State.hideFrom (s : State) (ctx die : Nat) (fix : Option (Nat × Bool)) : State :=
  match fix with
  | some (line, symbol) => (s.relcntUp ctx).correct line symbol
  | none => { s.relcntUp ctx with mgmt := s.mgmt.corrected die 2 }

def State.hideError (s : State) (g : Group) (fix : Option (Nat × Bool)) : State := s.hideFrom g.ctx (coreDie g.core) fix

/-- A bad clean line leaves its L1, and comes again from its home slice when it is next touched (R458). -/
def State.loseClean (s : State) (g : Group) (line : Nat) : State :=
  match (s.cores.get g.core).bind (fun c => c.copy? line) with
  | some l => if l.isDirty then s else (s.leaveL1 g.core line).hideError g none
  | none => s

/-- Poison consumed where it was read at its point of coherence (R462). -/
def isHomePoison : HwError → Bool
  | .poison _ h _ => h
  | _ => false

/-- IDEM_RESTART (R458, R459, R461, R462): an error hidden in place only counts; an uncorrectable line is poisoned, and consumed
where it is read; that of a saved image reaches the group at once; where the restart count would become 4 the move follows. -/
def execIdemRestart (g : Nat) (e : HwError) (s : State) : Host.Outcome State Fault Refusal :=
  .next (match e, s.groups.get g with
    | .delay c fix, _ => s.hideFrom c (s.homeOf c 0) fix
    | _, none => s
    | _, some x =>
      if x.dead then s
      else
        match e with
        | .hidden fix => s.hideError x fix
        | .image => if s.onCore x then s else s.raiseFatal g 0x3D none e
        | .line level n => s.poisonLine x.ctx (keyLoc level (128 * n))
        | .dirty line => s.loseDirty x.core x.ctx line
        | .clean line => s.loseClean x line
        | _ =>
          if x.idem && x.covered e then
            if 3 ≤ x.restarts then s.push (.restartLimitMove g e)
            else ((s.rewind g x).relcntUp x.ctx).updGroup g (fun g =>
              { g with restarts := g.restarts + 1, homePoison := isHomePoison e && (x.restarts == 0 || x.homePoison) })
          else s.raiseFatal g (errorCause e).1 (errorCause e).2 e)

/-! ### The restart limit (R462) -/

/-- CR.TVAL of the 0x3A of a move: the address, where the error has one (R462). -/
def errorAddr : HwError → Option W64
  | .poison a _ _ => some a
  | _ => none

/-- The team moves to other silicon: the group stands at CR.IDEMPC, its core is withdrawn and tested, and the team is
pre-empted in the mode of R453; its groups' restart counts end (R461). -/
def State.moveTeam (s : State) (gid : Nat) (g : Group) (e : HwError) : State :=
  let mates := match s.teams.get g.team with | some t => t.groups | none => []
  let s1 := (gid :: mates).foldl (fun s k => s.updGroup k (fun g => { g with restarts := 0, homePoison := false }))
    ((s.rewind gid g).relcntUp g.ctx)
  let s2 := s1.updCore g.core (fun c => { c with state := .underTest s.clock })
  (s2.updTeam g.team (fun t => { t with avoid := some g.core, moved := some (gid, errorAddr e, s.clock) })).preempt g.team
    .reliability

/-- RESTART_LIMIT_MOVE (R462): where a restart would make the count 4. Restarts that consumed poison, read at home, has caused end with
0x3A. -/
def execRestartLimitMove (g : Nat) (e : HwError) (s : State) : Host.Outcome State Fault Refusal :=
  .next (match s.groups.get g with
    | none => s
    | some x =>
      if x.dead || !isConsumed e || !x.idem || !x.covered e || decide (x.restarts < 3) then s
      else if isHomePoison e && x.homePoison then s.raiseFatal g 0x3A (errorAddr e) e
      else s.moveTeam g x e)

/-! ### Late transitions, pipes and cores (R463) -/

/-- An entry of the self-test log; its form is the model's (log 21). -/
def logEntry (kind core pipe : Nat) : List Byte := natBytes 1 kind ++ natBytes 1 pipe ++ natBytes 2 core ++ natBytes 4 0

def State.writeLog (s : State) (b : List Byte) : State :=
  { s with mgmt := { s.mgmt with log := (s.mgmt.log ++ b).take 16384 } }

/-- Times of a pipe's replays within the last ms. -/
def Core.replaysOf (c : Core) (pipe : Nat) (now : W64) : List W64 :=
  (((c.replays.find? (fun e => e.1 == pipe)).map (·.2)).getD []).filter (fun t => (now - t).toNat < oneMs)

/-- Contexts with a group on the core. -/
def State.ctxsOn (s : State) (core : Nat) : List Nat :=
  ((s.groups.filter (fun e => e.2.core == core && s.onCore e.2)).map (fun e => e.2.ctx)).eraseDups

/-- LATE_TRANSITION_REPLAY (R458, R463): the instruction that it delays belongs to some context with a group on the core; which
one is a free value (log 22). -/
def execLateTransitionReplay (core pipe : Nat) (s : State) : Host.Outcome State Fault Refusal :=
  .next (match s.cores.get core with
    | none => s
    | some c =>
      let times := c.replaysOf pipe s.clock ++ [s.clock]
      let l := s.ctxsOn core
      let s1 := match l[s.freeValue.toNat % l.length]? with
        | some k => (s.relcntUp k).takeFree
        | none => s
      let s2 := State.updCore { s1 with mgmt := { s1.mgmt with replays := countUp s1.mgmt.replays (coreDie core) } } core (fun c =>
        { c with replays := c.replays.filter (fun e => e.1 != pipe) ++ [(pipe, times)] })
      if 16 ≤ times.length then s2.push (.pipeRetire core pipe) else s2)

/-- The number of a core of a die by its physical cluster, of 24 (R468). -/
def Die.physCore (d : Die) (core : Nat) : Nat := 192 * coreDie core + 8 * d.physical.getD (coreCluster core) 23 + coreIn core

def State.physCore (s : State) (core : Nat) : Nat := match s.dies.get (coreDie core) with | some d => d.physCore core | none => 0

/-- Pipes that a core has lost. -/
def State.lostPipes (s : State) (core : Nat) : List Nat :=
  (s.mgmt.wornPipes.filter (fun e => e.1 == s.physCore core)).map (·.2)

/-- The highest of some half-clusters in rising order: the progress half-cluster (R348). -/
def topHalf (l : List Nat) : Nat := l.getLast?.getD 43

/-- A half-cluster is enabled no more; where it was the progress half-cluster, the highest one left takes its place (R348). -/
def Die.loseHalf (d : Die) (h : Nat) : Die :=
  if h = d.progressHalf then { d with progressHalf := topHalf d.cluUnits, cluUnits := d.cluUnits.dropLast }
  else { d with cluUnits := d.cluUnits.filter (fun k => k != h) }

/-- A core leaves service for good: its teams are saved, its half-cluster leaves the auction, the log notes it. -/
def State.retireCore (s : State) (core : Nat) : State :=
  let s1 := s.updCore core (fun c => { c with state := .retired })
  let s2 := ((s1.teams.filter (fun e => e.2.onCores && e.2.cores.contains core)).map (·.1)).foldl
    (fun s k => s.saveTeam k .reliability) s1
  let s3 := s2.updDie (coreDie core) (fun d => d.loseHalf (core % 176 / 4))
  State.countRetirement
    (State.writeLog { s3 with mgmt := { s3.mgmt with wornCores := addMark s3.mgmt.wornCores (s.physCore core) } } (logEntry 2 core 0)) (coreDie core)

/-- PIPE_RETIRE (R463): a spare takes its place; with a third pipe the core is retired whole. -/
def execPipeRetire (core pipe : Nat) (s : State) : Host.Outcome State Fault Refusal :=
  .next (match s.cores.get core with
    | none => s
    | some c =>
      if (c.replaysOf pipe s.clock).length < 16 ∨ c.state = .retired then s
      else
        let s1 := State.updCore { s with mgmt := { s.mgmt with wornPipes := s.mgmt.wornPipes ++ [(s.physCore core, pipe)] } } core
          (fun c => { c with replays := c.replays.filter (fun e => e.1 != pipe) })
        let s2 := (s1.writeLog (logEntry 1 core pipe)).countRetirement (coreDie core)
        if 3 ≤ (s2.lostPipes core).length then s2.retireCore core else s2)

/-- 50 ms in cycles (R462). -/
def testTime : Nat := 90000000

/-- CORE_TEST_COMPLETE (R462, R463). -/
def execCoreTestComplete (core : Nat) (pass : Bool) (s : State) : Host.Outcome State Fault Refusal :=
  .next (match s.cores.get core with
    | none => s
    | some c =>
      match c.state with
      | .underTest since =>
        if (s.clock - since).toNat < testTime then s
        else if pass then s.updCore core (fun c => { c with state := .inService })
        else s.retireCore core
      | _ => s)

end Sys2Proof.Machine
end

