-- ==== Sys2Proof/Machine/Digest.lean ====
section
/-! DEFINITION. The digests that the spec names: SHA3-512 (spec/00 R5; spec/26 R470, R471), and the SHAKE functions with which
ML-DSA-87 works. PRESUMED (log 113): the spec names the function, FIPS 202 gives it. -/

namespace Sys2Proof.Machine

open Sys2Proof

/-- The state of the permutation: 25 words, the one at column x and row y at place x + 5y. -/
abbrev Sheet : Type := List W64

def Sheet.at_ (a : Sheet) (col row : Nat) : W64 := a.getD (col % 5 + 5 * (row % 5)) 0

/-- The sum modulo 2 of some words. -/
def xorAll (l : List W64) : W64 := l.foldl (fun a b => a ^^^ b) 0

/-- Every word is joined by the sums of the column before its own and, turned by one bit, of the column behind it. -/
def Sheet.mixed (a : Sheet) : Sheet :=
  let sums := (List.range 5).map (fun x => xorAll ((List.range 5).map (a.at_ x)))
  a.mapIdx (fun k w => w ^^^ sums.getD ((k + 4) % 5) 0 ^^^ (sums.getD ((k + 1) % 5) 0).rotateLeft 1)

/-- The place to which the word of a place goes: from column x and row y to column y and row 2x + 3y. -/
def nextPlace (k : Nat) : Nat := k / 5 + 5 * ((2 * (k % 5) + 3 * (k / 5)) % 5)

/-- The words of one round of 24 places, from place 1 on, each go one place on; the n-th is turned by the n-th triangular number. -/
def Sheet.turned (old : Sheet) : Nat → Nat → Nat → Sheet → Sheet
  | 0, _, _, new => new
  | left + 1, n, k, new =>
    Sheet.turned old left (n + 1) (nextPlace k)
      (setAt 0 new (nextPlace k) ((old.getD k 0).rotateLeft (n * (n + 1) / 2 % 64)))

/-- Each word takes in what its two neighbours in the row allow. -/
def Sheet.bent (a : Sheet) : Sheet := a.mapIdx (fun k w => w ^^^ (~~~(a.at_ (k + 1) (k / 5)) &&& a.at_ (k + 2) (k / 5)))

/-- The shift register that gives the round constants: x^8 + x^6 + x^5 + x^4 + 1. -/
def nextBit (r : Nat) : Nat := if r < 128 then 2 * r else (2 * r) ^^^ 0x171

def bitAfter : Nat → Nat
  | 0 => 1
  | n + 1 => nextBit (bitAfter n)

/-- The constant of a round: its seven register bits at the bits 0, 1, 3, 7, 15, 31 and 63. -/
def roundWord (n : Nat) : W64 :=
  xorAll ((List.range 7).map (fun j => if bitAfter (7 * n + j) % 2 = 1 then oneBit64 (2 ^ j - 1) else 0))
where oneBit64 (k : Nat) : W64 := BitVec.ofNat 64 (2 ^ k)

def Sheet.round (a : Sheet) (n : Nat) : Sheet :=
  let b := a.mixed
  let c := (b.turned 24 1 1 b).bent
  setAt 0 c 0 (c.getD 0 0 ^^^ roundWord n)

/-- The permutation: 24 rounds. -/
def Sheet.permuted (a : Sheet) : Sheet := (List.range 24).foldl Sheet.round a

/-- The message with its suffix and the padding, a whole number of blocks of `rate` bytes. -/
def padded (rate suffix : Nat) (m : List Byte) : List Byte :=
  let gap := rate - m.length % rate
  m ++ (natBytes 1 suffix ++ List.replicate (gap - 1) 0).mapIdx (fun k b => if k + 1 = gap then b ||| 0x80 else b)

/-- Blocks join the state one after the other. -/
def Sheet.soak (rate : Nat) : Nat → Sheet → List Byte → Sheet
  | 0, a, _ => a
  | n + 1, a, m =>
    let b := m.take rate
    Sheet.soak rate n (Sheet.permuted (a.mapIdx (fun k w => w ^^^ BitVec.ofNat 64 (bytesNat ((b.drop (8 * k)).take 8))))) (m.drop rate)

/-- Blocks are taken from the state one after the other. -/
def Sheet.wring (rate : Nat) : Nat → Sheet → List Byte
  | 0, _ => []
  | n + 1, a => (a.flatMap (fun w => natBytes 8 w.toNat)).take rate ++ Sheet.wring rate n a.permuted

/-- n bytes of the sponge of a message. -/
def sponge (rate suffix : Nat) (m : List Byte) (n : Nat) : List Byte :=
  let p := padded rate suffix m
  ((Sheet.soak rate (p.length / rate) (List.replicate 25 0) p).wring rate ((n + rate - 1) / rate)).take n

/-- SHA3-512 of a message: 64 bytes. -/
def sha3 (m : List Byte) : List Byte := sponge 72 0x06 m 64

def shake128 (m : List Byte) (n : Nat) : List Byte := sponge 168 0x1F m n

def shake256 (m : List Byte) (n : Nat) : List Byte := sponge 136 0x1F m n

end Sys2Proof.Machine
end

