-- ==== Sys2Proof/Machine/Signature.lean ====
section
/-! DEFINITION. ML-DSA-87, the signature that the spec names (spec/00 R5; spec/26 R470, R471), over a digest, with an empty context
string. PRESUMED (log 113): the spec names the scheme and its sizes, FIPS 204 gives it. Polynomials are lists of 256 numbers below q. -/

namespace Sys2Proof.Machine

open Sys2Proof

/-! ### Numbers modulo q, and polynomials -/

def dsaQ : Nat := 8380417

abbrev Poly : Type := List Nat

def addQ (x y : Nat) : Nat := (x + y) % dsaQ
def subQ (x y : Nat) : Nat := (x + dsaQ - y % dsaQ) % dsaQ
def mulQ (x y : Nat) : Nat := x * y % dsaQ

def powQ (x : Nat) : Nat → Nat
  | 0 => 1
  | n + 1 => mulQ x (powQ x n)

def Poly.plus (a b : Poly) : Poly := (a.zip b).map (fun e => addQ e.1 e.2)
def Poly.minus (a b : Poly) : Poly := (a.zip b).map (fun e => subQ e.1 e.2)
def Poly.times (a b : Poly) : Poly := (a.zip b).map (fun e => mulQ e.1 e.2)

/-- The distance of a number from 0 modulo q. -/
def normQ (x : Nat) : Nat := min x (dsaQ - x)

def Poly.below (a : Poly) (n : Nat) : Bool := a.all (fun x => normQ x < n)

/-- The eight low bits of a number in reverse order. -/
def mirror8 (n : Nat) : Nat := (List.range 8).foldl (fun a k => 2 * a + n / 2 ^ k % 2) 0

/-- The values of a polynomial at the odd powers of 1753: node `m` of the tree of halves. -/
def Poly.spread : Nat → Nat → Poly → Poly
  | 0, _, a => a
  | depth + 1, m, a =>
    let h := a.length / 2
    let turned := (a.drop h).map (mulQ (powQ 1753 (mirror8 m)))
    Poly.spread depth (2 * m) (Poly.plus (a.take h) turned) ++ Poly.spread depth (2 * m + 1) (Poly.minus (a.take h) turned)

/-- A polynomial from those values: halves join again; 4190209 is one half. -/
def Poly.gather : Nat → Nat → Poly → Poly
  | 0, _, a => a
  | depth + 1, m, a =>
    let h := a.length / 2
    let lo := Poly.gather depth (2 * m) (a.take h)
    let hi := Poly.gather depth (2 * m + 1) (a.drop h)
    (Poly.plus lo hi).map (mulQ 4190209) ++ (Poly.minus lo hi).map (mulQ (mulQ 4190209 (powQ 1753 (512 - mirror8 m))))

def Poly.values (a : Poly) : Poly := a.spread 8 1
def Poly.ofValues (a : Poly) : Poly := a.gather 8 1

/-- A row of values times a vector of values. -/
def dotValues (row v : List Poly) : Poly := (row.zip v).foldl (fun a e => Poly.plus a (Poly.times e.1 e.2)) (List.replicate 256 0)

/-! ### Bytes and bits -/

/-- The n-th field of w bits of a list of bytes. -/
def dsaField (b : List Byte) (w n : Nat) : Nat := bytesNat ((b.drop (w * n / 8)).take (w / 8 + 2)) / 2 ^ (w * n % 8) % 2 ^ w

def fieldsOf (b : List Byte) (w : Nat) : List Nat := (List.range 256).map (dsaField b w)

/-- Fields of w bits as bytes. -/
def packFields (w : Nat) (l : List Nat) : List Byte := natBytes (w * l.length / 8) (l.foldr (fun x a => x + 2 ^ w * a) 0)

/-- The n-th part of `size` bytes. -/
def part (b : List Byte) (size n : Nat) : List Byte := (b.drop (size * n)).take size

/-- Polynomials that are stored as what is missing to a top value. -/
def downFrom (top w : Nat) (b : List Byte) : Poly := (fieldsOf b w).map (fun x => subQ top x)
def toDown (top w : Nat) (a : Poly) : List Byte := packFields w (a.map (fun x => subQ top x))

/-! ### Sampling -/

/-- Three bytes each give a number of 23 bits; those below q count. -/
def threes : Nat → List Byte → List Nat
  | 0, _ => []
  | n + 1, b =>
    let x := bytesNat (b.take 3) % 2 ^ 23
    if x < dsaQ then x :: threes n (b.drop 3) else threes n (b.drop 3)

/-- The values at row r and column s of the matrix. -/
def matrixAt (rho : List Byte) (r s : Nat) : Poly :=
  (threes 448 (shake128 (rho ++ natBytes 1 s ++ natBytes 1 r) 1344)).take 256

def matrixRows (rho : List Byte) : List (List Poly) := (List.range 8).map (fun r => (List.range 7).map (matrixAt rho r))

/-- The places of the challenge, from place i on: a byte names a place up to i, whose content moves to i, and takes a sign. -/
def challengeFrom (signs : List Byte) : Nat → Nat → Nat → List Byte → Poly → Poly
  | 0, _, _, _, c => c
  | _ + 1, _, _, [], c => c
  | fuel + 1, i, n, b :: t, c =>
    if 256 ≤ i then c
    else if i < b.toNat then challengeFrom signs fuel i n t c
    else
      let sign := dsaField signs 1 n
      challengeFrom signs fuel (i + 1) (n + 1) t
        (setAt 0 (setAt 0 c i (c.getD b.toNat 0)) b.toNat (if sign = 1 then dsaQ - 1 else 1))

/-- The challenge polynomial of 60 ones and minus ones. -/
def challenge (seed : List Byte) : Poly :=
  let b := shake256 seed 680
  challengeFrom (b.take 8) 672 196 0 (b.drop 8) (List.replicate 256 0)

/-! ### High and low parts: steps of 523,776 -/

def highStep : Nat := 523776

/-- The high part, and the low part as a number modulo q with whether it is positive. -/
def splitHigh (r : Nat) : Nat × Nat × Bool :=
  let low := r % highStep
  let up := highStep / 2 < low
  let rest := if up then r + highStep - low else r - low
  if rest = dsaQ - 1 then (0, if up then subQ low (highStep + 1) else subQ low 1, !up && 1 < low)
  else (rest / highStep, if up then subQ low highStep else low, !up && low ≠ 0)

def highOf (r : Nat) : Nat := (splitHigh r).1
def lowOf (r : Nat) : Nat := (splitHigh r).2.1

/-- The high part moved by a hint. -/
def hinted (hint : Bool) (r : Nat) : Nat :=
  let (h, _, positive) := splitHigh r
  if !hint then h else if positive then (h + 1) % 16 else (h + 15) % 16

def packHigh (l : List (List Nat)) : List Byte := l.flatMap (packFields 4)

/-! ### Hints: at most 75 places in eight polynomials -/

def rising : List Nat → Bool
  | x :: y :: t => x < y && rising (y :: t)
  | _ => true

/-- The places of each polynomial; none where the bytes are no hint. -/
def hintPlaces (b : List Byte) : Option (List (List Nat)) :=
  let ends := (List.range 8).map (fun i => (b.getD (75 + i) 0).toNat)
  let bounds := (0 :: ends).zip ends
  let parts := bounds.map (fun e => ((b.take 75).drop e.1).take (e.2 - e.1) |>.map (·.toNat))
  if bounds.all (fun e => e.1 ≤ e.2 && e.2 ≤ 75) && parts.all rising && ((b.take 75).drop (ends.getLastD 0)).all (· == 0) then some parts
  else none

def hintBytes (l : List (List Nat)) : List Byte :=
  let all := l.flatten
  let ends := (List.range 8).map (fun i => ((l.take (i + 1)).flatten).length)
  (all ++ List.replicate (75 - all.length) 0 ++ ends).map (fun n => BitVec.ofNat 8 n)

/-! ### Verification and signing -/

/-- The message as it is signed: the empty context string stands before it. -/
def dsaMessage (m : List Byte) : List Byte := [0, 0] ++ m

/-- Verification of a signature over a digest under a public key (R470). -/
def mldsaVerify (key digest sig : List Byte) : Bool :=
  key.length == 2592 && sig.length == 4627 &&
    (match hintPlaces (sig.drop 4544) with
     | none => false
     | some places =>
       let z := (List.range 7).map (fun i => downFrom (2 ^ 19) 20 (part ((sig.drop 64).take 4480) 640 i))
       let t1 := (List.range 8).map (fun i => (fieldsOf (part (key.drop 32) 320 i) 10).map (mulQ (2 ^ 13)))
       let mu := shake256 (shake256 key 64 ++ dsaMessage digest) 64
       let c := (challenge (sig.take 64)).values
       let zv := z.map Poly.values
       let w := ((matrixRows (key.take 32)).zip t1).map (fun e =>
         (Poly.minus (dotValues e.1 zv) (Poly.times c (Poly.values e.2))).ofValues)
       let w1 := (w.zip places).map (fun e => e.1.mapIdx (fun k x => hinted (e.2.contains k) x))
       z.all (fun a => a.below (2 ^ 19 - 120)) && shake256 (mu ++ packHigh w1) 64 == sig.take 64)

/-- One attempt at a signature, by its counter; none where it is rejected. -/
def dsaAttempt (rows : List (List Poly)) (s1 s2 t0 : List Poly) (mu seed : List Byte) (count : Nat) : Option (List Byte) :=
  let y := (List.range 7).map (fun r => downFrom (2 ^ 19) 20 (shake256 (seed ++ natBytes 2 (count + r)) 640))
  let w := rows.map (fun row => (dotValues row (y.map Poly.values)).ofValues)
  let tag := shake256 (mu ++ packHigh (w.map (fun a => a.map highOf))) 64
  let c := (challenge tag).values
  let byC (l : List Poly) : List Poly := l.map (fun a => (Poly.times c a.values).ofValues)
  let z := (y.zip (byC s1)).map (fun e => Poly.plus e.1 e.2)
  let r := (w.zip (byC s2)).map (fun e => Poly.minus e.1 e.2)
  let ct := byC t0
  let hints := (r.zip ct).map (fun e =>
    (List.range 256).filter (fun k => highOf (e.1.getD k 0) != highOf (addQ (e.1.getD k 0) (e.2.getD k 0))))
  if z.all (fun a => a.below (2 ^ 19 - 120)) && r.all (fun a => Poly.below (a.map lowOf) (261888 - 120)) &&
      ct.all (fun a => a.below 261888) && hints.flatten.length ≤ 75 then
    some (tag ++ z.flatMap (toDown (2 ^ 19) 20) ++ hintBytes hints)
  else none

def dsaTry (rows : List (List Poly)) (s1 s2 t0 : List Poly) (mu seed : List Byte) : Nat → Nat → List Byte
  | 0, _ => []
  | fuel + 1, count =>
    match dsaAttempt rows s1 s2 t0 mu seed count with
    | some sig => sig
    | none => dsaTry rows s1 s2 t0 mu seed fuel (count + 7)

/-- A signature over a digest with a private key of 4,896 bytes and 32 random ones (R471). -/
def mldsaSign (key digest random : List Byte) : List Byte :=
  let mu := shake256 ((key.drop 64).take 64 ++ dsaMessage digest) 64
  let small (from_ n : Nat) : List Poly := (List.range n).map (fun i => downFrom 2 3 (part (key.drop from_) 96 i))
  let t0 := (List.range 8).map (fun i => downFrom (2 ^ 12) 13 (part (key.drop 1568) 416 i))
  dsaTry (matrixRows (key.take 32)) (small 128 7) (small 800 8) t0 mu (shake256 ((key.drop 32).take 32 ++ random ++ mu) 64) 1000 0

end Sys2Proof.Machine
end

