-- ==== Sys2Proof/Machine/Manage.lean ====
section
/-! DEFINITION. The management function: its objects and actions, the resolution of trap records, firmware, attestation, reset,
bring-up, and the limits of temperature (spec/19 R346; spec/25 R440, R446-R451; spec/26 R467-R474). -/

namespace Sys2Proof.Machine

open Sys2Proof

/-! ### Requests (R472) -/

/-- What a management request comes to: STAT, reply data, state. -/
structure Mact where
  stat : W32
  data : List Byte
  s : State
  deriving Repr

def State.mreply (s : State) (seq stat : W32) (data : List Byte) : State := s.send ⟨19, 0, seq, stat, 0, data⟩

/-- A message that the function accepts: of version 1, its reserved field zero, VQ 0, on the management VLAN that the running
firmware's configuration names, untagged where it names none (R297, R472). -/
def State.accepts (s : State) (m : MgmtMsg) : Bool :=
  m.ver == 1 && m.rsv == 0 && m.vq == 0 && m.vlan == Config.managementVlan s.mgmt.image

/-- The reply that is remembered for a sequence number (R297). -/
def Mgmt.replyTo (m : Mgmt) (seq : W32) : Option (W32 × W32 × List Byte) := m.mgmtReplies.find? (fun r => r.1 == seq)

/-- A request: one of the 64 remembered is answered again, any other is acted on; one that is not accepted is dropped. The function
answers once bring-up has run its firmware. -/
def State.manage (s : State) (m : MgmtMsg) (act : Mact) : State :=
  if s.mode = .bringUp ∨ !s.accepts m then s
  else
    match s.mgmt.replyTo m.seq with
    | some (_, stat, data) =>
      State.mreply { s with mgmt := { s.mgmt with mgmtReplies := remember s.mgmt.mgmtReplies (m.seq, stat, data) } } m.seq stat data
    | none =>
      State.mreply { act.s with mgmt := { act.s.mgmt with
        mgmtReplies := remember act.s.mgmt.mgmtReplies (m.seq, act.stat, act.data) } } m.seq act.stat act.data

/-- An action without reply data; 0x02 where it names nothing. -/
def Mact.done (s : State) : Mact := ⟨0, [], s⟩
def Mact.bad (s : State) : Mact := ⟨2, [], s⟩
def Mact.ofOption (s : State) (o : Option State) : Mact := match o with | some t => Mact.done t | none => Mact.bad s

/-! ### Objects as bytes (R346, R449, R473) -/

/-- Bytes written into a list at an offset. -/
def patch (l : List Byte) (off : Nat) (d : List Byte) : List Byte := fit off l ++ d ++ l.drop (off + d.length)

def TrapRec.bytes (r : TrapRec) : List Byte :=
  let kind := match r.kind with | .replayable => 0 | .fatal => 1 | .information => 2
  let owner := match r.owner with | .operator => 0 | .guest => 1 | .none => 2
  natBytes 4 (r.code + 256 * (kind + 4 * owner) + 65536 * r.ctx + 16777216 * r.count) ++ natBytes 4 r.id ++
    natBytes 8 r.gva.toNat ++ natBytes 8 r.gpa.toNat ++
    natBytes 4 (16384 * coreDie r.core + 512 * coreCluster r.core + 64 * coreIn r.core + r.slot) ++ natBytes 4 r.data.toNat

/-- The trap queue: entries 0-503, then 504-511; which entry a record takes among the free ones is the model's (log 23). -/
def Mgmt.trapBytes (m : Mgmt) : List Byte :=
  fit (504 * 32) (m.traps.flatMap TrapRec.bytes) ++ fit (8 * 32) (m.fatals.flatMap TrapRec.bytes)

/-- The reserve prices. -/
def State.reserves (s : State) : List Byte :=
  (range 0 4).flatMap (fun d => homeClasses.flatMap (fun k =>
    natBytes 8 ((((s.dies.get d).map (fun (x : Die) => x.reserve.at_ k)).getD 0).toNat))) ++ natBytes 8 s.market.reserveLink.toNat

/-- The management counters; their layout is the model's (log 24). -/
def Mgmt.counters (m : Mgmt) : List Byte :=
  (range 0 4).flatMap (fun d =>
    (range (3 * d) 3).flatMap (fun k => natBytes 8 ((m.corrections.get k).getD 0)) ++
      [m.poisonings, m.replays, m.retirements].flatMap (fun t => natBytes 8 ((t.get d).getD 0)) ++ natBytes 8 m.lost) ++
    (range 0 256).flatMap (fun c => natBytes 8 ((m.droppedFatal.get c).getD 0))

/-- An object's bytes; none where there is no such object. A WO object reads as zero (R14). -/
def State.object (s : State) (obj : Nat) : Option (List Byte) :=
  if obj = 0 then some (fit 16384 s.mgmt.log)
  else if obj = 1 then some s.mgmt.trapBytes
  else if obj = 2 then some (s.mgmt.staging.map (fun _ => 0))
  else if 0x10 ≤ obj ∧ obj < 0x14 then some (fit 2112 (((s.dies.get (obj - 0x10)).map (·.staged)).getD []))
  else if 0x20 ≤ obj ∧ obj < 0x120 then (s.ctxs.get (obj - 0x20)).map Ctx.record
  else if obj = 0x120 then some s.reserves
  else if 0x200 ≤ obj ∧ obj < 0x300 then (s.ctxs.get (obj - 0x200)).map Ctx.config
  else if obj = 0x300 then some (fit 4897 s.mgmt.report)
  else if obj = 0x301 then some Config.certificate
  else if obj = 0x302 then some s.mgmt.counters
  else none

/-- MREAD (R473). -/
def execMread (msg : MgmtMsg) (obj : Nat) (off : W64) (len : Nat) (s : State) : Host.Outcome State Fault Refusal :=
  .next (s.manage msg (match s.object obj with
    | none => Mact.bad s
    | some b => if 1024 < len then Mact.bad s else ⟨0, fit len ((b.drop off.toNat).take len), s⟩))

/-- A market record written: PURSE waits for the interval's start (R347), REFILL is set, the rest is RO. -/
def Ctx.writeRecord (c : Ctx) (off : Nat) (d : List Byte) : Ctx :=
  let b := patch (natBytes 8 (c.purseWrite.getD c.purse).toNat ++ c.record.drop 8) off d
  { c with purseWrite := if off < 8 then some (BitVec.ofNat 64 (fieldAtOff b 0 8)) else c.purseWrite,
           refill := BitVec.ofNat 64 (fieldAtOff b 8 8) }

/-- Reserve prices set from their bytes. -/
def State.setReserves (s : State) (b : List Byte) : State :=
  let w (k : Nat) : W64 := BitVec.ofNat 64 (fieldAtOff b (8 * k) 8)
  { s with dies := s.dies.map (fun (e : Nat × Die) =>
             let k := 4 * e.1
             (e.1, { e.2 with reserve := ⟨w k, w (k + 1), w (k + 2), w (k + 3), 0⟩ })),
           market := { s.market with reserveLink := w 16 } }

/-- A configuration written; a context that was not there is created, but not in the state of R469. -/
def State.writeConfig (s : State) (id off : Nat) (d : List Byte) : Option State :=
  match s.ctxs.get id with
  | some c => some (s.updCtx id (fun _ => c.configure id (patch c.config off d)))
  | none =>
    if s.mode = .up then
      let c := { Ctx.fresh with born := s.market.interval }
      some { s with ctxs := s.ctxs.set id (c.configure id (patch c.config off d)) }
    else none

/-- The bits of a plan's byte that are not reserved (R380). -/
def planMask (k : Nat) : Byte :=
  if k < 64 then (if k = 0 then 3 else if (8 ≤ k ∧ k < 11) ∨ (16 ≤ k ∧ k < 20) then 0xFF else 0)
  else
    let j := (k - 64) % 32
    if j < 4 ∨ 8 ≤ j then 0xFF else if j = 4 then 0x0F else if j = 5 then 0x3F else 0

/-- Reserved bits of a plan read as zero (R15). -/
def planKept (b : List Byte) : List Byte := (range 0 b.length).map (fun k => b.getD k 0 &&& planMask k)

/-- An object written; a write to an RO object has no effect. -/
def State.writeObject (s : State) (obj off : Nat) (d : List Byte) : Option State :=
  if obj = 2 then
    if off + d.length ≤ 2 ^ 26 then some { s with mgmt := { s.mgmt with staging := patch s.mgmt.staging off d } } else none
  else if 0x10 ≤ obj ∧ obj < 0x14 then
    if off + d.length ≤ 2112 then some (s.updDie (obj - 0x10) (fun x => { x with staged := planKept (patch (fit 2112 x.staged) off d) }))
    else none
  else if 0x20 ≤ obj ∧ obj < 0x120 then
    (s.ctxs.get (obj - 0x20)).map (fun c => s.updCtx (obj - 0x20) (fun _ => c.writeRecord off d))
  else if obj = 0x120 then some (s.setReserves (patch s.reserves off d))
  else if 0x200 ≤ obj ∧ obj < 0x300 then s.writeConfig (obj - 0x200) off d
  else (s.object obj).map (fun _ => s)

/-- MWRITE (R473). -/
def execMwrite (msg : MgmtMsg) (obj : Nat) (off : W64) (data : List Byte) (s : State) : Host.Outcome State Fault Refusal :=
  .next (s.manage msg (if 1000 < data.length then Mact.bad s else Mact.ofOption s (s.writeObject obj off.toNat data)))

/-! ### Plans and translations (R381, R446) -/

/-- APPLY_STAGED_PLAN (R381): at the next interval start. -/
def execApplyStagedPlan (msg : MgmtMsg) (die : Nat) (s : State) : Host.Outcome State Fault Refusal :=
  .next (s.manage msg (Mact.ofOption s ((s.dies.get die).map (fun _ => s.updDie die (fun d => { d with apply := true })))))

/-- TLBs of every core, cluster and die filtered. -/
def State.filterTlbs (s : State) (keep : TlbEntry → Bool) (keepNested : TlbEntry → Bool) : State :=
  { s with
    cores := s.cores.map (fun (e : Nat × Core) => (e.1, { e.2 with tlb := e.2.tlb.filter keep })),
    clusters := s.clusters.map (fun (e : Nat × Cluster) => (e.1, { e.2 with tlb := e.2.tlb.filter keep })),
    dies := s.dies.map (fun (e : Nat × Die) => (e.1, { e.2 with nested := e.2.nested.filter keepNested })) }

/-- The entry does not stand for a byte of the range of the context. -/
def TlbEntry.outside (e : TlbEntry) (ctx base len : Nat) : Bool := e.ctx != ctx || e.base + e.size ≤ base || base + len ≤ e.base

/-- An open region, or a store that it has published and that is not performed, pins a translation that the invalidation would drop
(R432). -/
def State.pinned (s : State) (ctx stage base len : Nat) : Bool :=
  let meets (l : List TlbEntry) : Bool := l.any (fun p => stage == 2 || (stage == 1 && !p.outside ctx base len))
  s.groups.any (fun e => e.2.ctx == ctx && (e.2.tryR.any (fun t => meets t.pins) || s.ops.any (fun o => o.gid == e.1 && meets o.pins)))

/-- An invalidation that waits for open regions stands once in the list. -/
def State.holdInv (s : State) (i : Instr) : State :=
  if s.mgmt.heldInv.contains i then s else { s with mgmt := { s.mgmt with heldInv := s.mgmt.heldInv ++ [i] } }

/-- What an invalidation does (R446): no TLB holds the range of the context afterwards. An entry of both stages tells no GPA, so a
stage-2 invalidation drops all of the context's. -/
def State.invalidate (s : State) (ctx stage base len : Nat) : Mact :=
  if stage = 1 then Mact.done (s.filterTlbs (fun e => e.outside ctx base len) (fun _ => true))
  else if stage = 2 then Mact.done (s.filterTlbs (fun e => e.ctx != ctx) (fun e => e.outside ctx base len))
  else Mact.bad s

/-- INVALIDATE_TRANSLATIONS (R446): it waits while an open region pins a translation of its range (R432). -/
def execInvalidateTranslations (msg : MgmtMsg) (ctx stage : Nat) (base len : W64) (s : State) : Host.Outcome State Fault Refusal :=
  let i : Instr := .invalidateTranslations msg ctx stage base len
  .next (if s.mode ≠ .bringUp ∧ s.accepts msg ∧ (s.mgmt.replyTo msg.seq).isNone ∧ s.pinned ctx stage base.toNat len.toNat then
      s.holdInv i
    else
      let s1 : State := { s with mgmt := { s.mgmt with heldInv := s.mgmt.heldInv.filter (· != i) } }
      s1.manage msg (s1.invalidate ctx stage base.toNat len.toNat))

/-- The invalidations that no open region holds back any more. -/
def State.invReady (s : State) : List Instr :=
  s.mgmt.heldInv.filter (fun i => match i with
    | .invalidateTranslations _ ctx stage base len => !s.pinned ctx stage base.toNat len.toNat
    | _ => false)

/-! ### Resolutions (R448-R451) -/

def Mgmt.record? (m : Mgmt) (id : Nat) : Option TrapRec := (m.traps ++ m.fatals).find? (fun r => r.id == id)

def Mgmt.dropRecord (m : Mgmt) (id : Nat) : Mgmt :=
  { m with traps := m.traps.filter (fun r => r.id != id), fatals := m.fatals.filter (fun r => r.id != id) }

/-- The entry is free: units that waited for one look again (R450). -/
def State.freeEntry (s : State) (id : Nat) : State :=
  let s1 := { s with mgmt := s.mgmt.dropRecord id }
  s1.wakeAll (fun g f => f.status == .waiting .trapQueue || s1.looseFetch g f)

/-- The record is a translation fault's. -/
def TrapRec.isFault (r : TrapRec) : Bool := r.fault

/-- The fragment waits for a line of the page (R447). -/
def waitsForLine (r : TrapRec) (g : Group) (f : Frag) : Bool :=
  g.ctx == r.ctx && (match f.status with | .waiting (.fetch a) => a.toNat / 65536 == r.gva.toNat / 65536 | _ => false)

/-- Retry (R448): whatever the page held walks again. -/
def State.retryRecord (s : State) (id : Nat) : Option State :=
  match s.mgmt.record? id with
  | none => none
  | some r => if r.isFault then some ((s.freeEntry id).wakeAll (waitsForLine r)) else none

/-- RESOLVE_RETRY (R448). -/
def execResolveRetry (msg : MgmtMsg) (id : Nat) (s : State) : Host.Outcome State Fault Refusal :=
  .next (s.manage msg (Mact.ofOption s (s.retryRecord id)))

/-- The code of a refused fetch (R447). -/
def refusedFetch (r : TrapRec) : Nat := if r.code = 0x1B then 0x1B else 0x16

def onRecord (r : TrapRec) (ctx gva : Nat) : Bool := r.ctx == ctx && r.gva.toNat / 65536 == gva / 65536

/-- The address on whose missing mapping a logged instruction stands. -/
def State.blockedAt (s : State) (o : MemOp) (w : Who) : Option Nat :=
  if o.whole then (o.lanes.head?).map (fun x => x.addr.toNat)
  else
    match accForm o.instr with
    | none => none
    | some a =>
      match (s.withPins w.g.core o).resolveLanes o.gid w.g a o.lanes with
      | .ok _ => none
      | .error (gva, _) => some gva

/-- One held or logged access of the page is refused; that of a saved group keeps the refusal in its image, to be raised after
its restore (R138). -/
def State.refuseAccess (s : State) (r : TrapRec) (o : MemOp) : State :=
  match s.op? o.id, s.opWho o with
  | some o', some w =>
    if o'.stage = .issued then s
    else
      match s.blockedAt o' w with
      | some gva =>
        if !onRecord r w.g.ctx gva then s
        else if s.onCore w.g then s.refuseOp o' w (refusedData r) (BitVec.ofNat 64 gva)
        else { s with ops := s.ops.map (fun p =>
          if p.id == o.id then { p with refused := some (refusedData r, BitVec.ofNat 64 gva) } else p) }
      | none => s
  | _, _ => s

/-- A fetch of the page is refused, at the slot or the branch that waits (R448); that of a handler's first line fails its entry
(R440). -/
def State.refuseFetch (s : State) (r : TrapRec) (gid : Nat) (g : Group) (f : Frag) : State :=
  match f.status with
  | .waiting (.fetch a) =>
    if onRecord r g.ctx a.toNat then
      match (s.wake gid f.id).who? gid f.id with
      | some w =>
        if w.entering then (s.wake gid f.id).entryFails w
        else (s.wake gid f.id).raisePrecise w (refusedFetch r) (some a) w.f.pc.addr
      | none => s
    else s
  | _ => s

/-- Operations of a group's engines that hold on the page: number and address. -/
def Engines.heldOn (e : Engines) (r : TrapRec) (ctx : Nat) : List (Nat × W64) := e.holding.filter (fun x => onRecord r ctx x.2.toNat)

/-- Refuse (R448): every access held or logged on the page raises the refusal's code. -/
def State.refusePage (s : State) (r : TrapRec) : State :=
  let s1 := s.ops.foldl (fun s o => s.refuseAccess r o) s
  let s2 := (s1.groups.flatMap (fun e => e.2.frags.map (fun f => (e.1, e.2, f)))).foldl (fun s x => s.refuseFetch r x.1 x.2.1 x.2.2) s1
  let s3 := s2.groups.foldl (fun s e =>
    (e.2.eng.heldOn r e.2.ctx).foldl (fun s x => s.refuseEngine e.1 x.1 (refusedData r) x.2) s) s2
  (s3.refuseFront r).refuseHost r

/-- The firmware's reply in the request block of an SVC: bytes that belong to the service, so free values (R410, R451). -/
def State.writeReply (s : State) (r : TrapRec) : State :=
  match s.feLocs r.ctx r.gva.toNat 64 .store with
  | .error _ => s
  | .ok l =>
    let s1 := (s.feNote r.ctx r.gva.toNat l).fePut r.ctx l ((range 0 64).map (Config.replyByte s.free))
    { s1 with free := s1.free + 1 }

/-- The firmware's answer to an SVC, the block written whatever the answer (R451). -/
def State.answerSvc (s0 : State) (r : TrapRec) (ok : Bool) : State :=
  let id := r.id
  let s := s0.writeReply r
  let s1 := { s with groups := s.groups.map (fun (e : Nat × Group) =>
    (e.1, { e.2 with sent := e.2.sent.map (fun (x : Sent) => if x.record = id then { x with answer := some ok } else x) })) }
  s1.wakeAll (fun g f => f.status == .waiting .svc && g.sent.any (fun x => x.record == id && x.fid == f.id))

def TrapRec.isSvc (r : TrapRec) : Bool := r.kind == .replayable && r.code == 0x2C

def State.refuseRecord (s : State) (id : Nat) : Option State :=
  match s.mgmt.record? id with
  | none => none
  | some r =>
    if r.isFault then some ((s.freeEntry id).refusePage r)
    else if r.isSvc then some ((s.freeEntry id).answerSvc r false)
    else none

/-- RESOLVE_REFUSE (R448, R451). -/
def execResolveRefuse (msg : MgmtMsg) (id : Nat) (s : State) : Host.Outcome State Fault Refusal :=
  .next (s.manage msg (Mact.ofOption s (s.refuseRecord id)))

def State.doneRecord (s : State) (id : Nat) : Option State :=
  match s.mgmt.record? id with
  | none => none
  | some r => if r.isSvc then some ((s.freeEntry id).answerSvc r true) else none

/-- RESOLVE_DONE (R451). -/
def execResolveDone (msg : MgmtMsg) (id : Nat) (s : State) : Host.Outcome State Fault Refusal :=
  .next (s.manage msg (Mact.ofOption s (s.doneRecord id)))

/-- RESOLVE_ACKNOWLEDGE (R450): the entry is free; what a translation fault held walks again, as after a retry. -/
def execResolveAcknowledge (msg : MgmtMsg) (id : Nat) (s : State) : Host.Outcome State Fault Refusal :=
  .next (s.manage msg (Mact.ofOption s ((s.mgmt.record? id).map (fun r => (s.freeEntry id).wakeAll (waitsForLine r)))))

/-! ### Groups by location (R440, R452, R473) -/

/-- The group of a context in a resident slot. A cluster or core number that no die has names nothing (DESIGN CHOICE, log 109). -/
def State.groupAt (s : State) (ctx die cluster core slot : Nat) : Option (Nat × Group) :=
  match (if 22 ≤ cluster ∨ 8 ≤ core then none
      else (s.cores.get (176 * die + 8 * cluster + core)).bind (fun c => c.slots.getD slot none)) with
  | none => none
  | some gid =>
    match s.groups.get gid with
    | some g => if g.ctx = ctx then some (gid, g) else none
    | none => none

/-- PREEMPT_TEAM (R452, R453, R456). -/
def execPreemptTeam (msg : MgmtMsg) (ctx die cluster core slot : Nat) (s : State) : Host.Outcome State Fault Refusal :=
  .next (s.manage msg (Mact.ofOption s ((s.groupAt ctx die cluster core slot).map (fun e => s.preempt e.2.team .operator))))

/-- A stopped group goes on at CR.EPC with nothing pending; handler mode, if it stood in it, is over, and what a refusal had stalled is
issued again (R440, R442); a cause that its bobbin holds is delivered now (R438). -/
def State.resumeGroup (s : State) (gid : Nat) (g : Group) (fid : Nat) : State :=
  let g0 := if g.hm then g.endHandling else g
  ((((s.setGroup gid { g0 with cause := 0, pendTval := [], stopped := none }).unstall gid).resumeAtEpc gid fid).resumeBobbin
    g).deliverHeld gid

/-- RESUME_STOPPED_GROUP (R440). -/
def execResumeStoppedGroup (msg : MgmtMsg) (ctx die cluster core slot : Nat) (s : State) : Host.Outcome State Fault Refusal :=
  .next (s.manage msg (Mact.ofOption s (match s.groupAt ctx die cluster core slot with
    | none => none
    | some (gid, g) => g.stopped.map (fun fid => s.resumeGroup gid g fid))))

/-- A stopped group ends with its bobbin, as by exit; what it had in flight is dropped, and what waited on that is looked at again
(R222, R440). -/
def State.endGroup (s : State) (gid : Nat) (g : Group) : State :=
  let pair := s.pairOf gid g
  let s1 := pair.foldl (fun s e => (State.leave { s with ops := s.ops.filter (fun o => o.gid != e.1) } e.1 e.2).opGone e.2.core e.1)
    (s.dropCur (pair.map (·.1)))
  ((s1.lookTeam g.team).lookTrigger g.task).lookTask g.task

/-- END_STOPPED_GROUP (R440). -/
def execEndStoppedGroup (msg : MgmtMsg) (ctx die cluster core slot : Nat) (s : State) : Host.Outcome State Fault Refusal :=
  .next (s.manage msg (Mact.ofOption s (match s.groupAt ctx die cluster core slot with
    | none => none
    | some (gid, g) => g.stopped.map (fun _ => s.endGroup gid g))))

/-! ### Firmware and attestation (R470, R471) -/

/-- The parts of a staged image. -/
def imageBody (b : List Byte) : List Byte := b.take (512 + Config.imageLength (b.take 512))
def imageKey (b : List Byte) : List Byte := (b.drop (512 + Config.imageLength (b.take 512))).take 2592
def imageSig (b : List Byte) : List Byte := (b.drop (512 + Config.imageLength (b.take 512) + 2592)).take 4627

/-- The Bashild root accepts an image (R470). -/
def imageOk (b : List Byte) (fusedMin : Nat) : Bool :=
  mldsaVerify (imageKey b) (sha3 (imageBody b)) (imageSig b) && sha3 (imageKey b) == Config.fusedDigest &&
    decide (fusedMin ≤ Config.imageVersion (b.take 512))

/-- VERIFY_FIRMWARE (R470): a rejected image leaves everything as it is. -/
def execVerifyFirmware (msg : MgmtMsg) (s : State) : Host.Outcome State Fault Refusal :=
  .next (s.manage msg (
    if imageOk s.mgmt.staging s.mgmt.fusedMin then
      Mact.done { s with mgmt := { s.mgmt with committed := some s.mgmt.staging } }
    else Mact.bad s))

/-- The fields of a report (R471). -/
def State.reportFields (s : State) (vi : Nat) (nonce : W64) : List Byte :=
  let m := s.mgmt
  fit 64 ((m.staging.drop nonce.toNat).take 64) ++ fit 8 Config.serial ++ fit 64 (sha3 m.image) ++
    natBytes 4 (65536 * m.fusedMin + m.running % 65536) ++ fit 64 (sha3 (fit 16384 m.log)) ++ natBytes 2 vi ++
    fit 64 (match s.viCtx vi with | some (_, c) => sha3 c.config | none => [])

/-- A report: its fields, and the signature with the identity key over their digest; the signature takes 32 random bytes (log 113),
which are free values (R471). -/
def State.signed (s : State) (fields : List Byte) : State :=
  let random := (List.range 32).map (fun k => (Config.freeWord (s.free + k)).setWidth 8)
  { s with mgmt := { s.mgmt with report := fields ++ fit 4627 (mldsaSign Config.identityKey (sha3 fields) random) }, free := s.free + 32 }

/-- ATTESTATION_REPORT (R471). -/
def execAttestationReport (msg : MgmtMsg) (vi : Nat) (nonce : W64) (s : State) : Host.Outcome State Fault Refusal :=
  .next (s.manage msg (Mact.done (s.signed (s.reportFields vi nonce))))

/-! ### Reset and bring-up (R467-R470) -/

/-- What outlasts a reset: images, fuses and the self-test log; and the model's own counters and inputs. -/
def State.afterReset (s : State) : State :=
  { State.reset with
    agenda := s.agenda, nextId := s.nextId, free := s.free,
    fe := { FrontEnd.reset with out := s.fe.out },
    mgmt := { Mgmt.reset with log := s.mgmt.log, running := s.mgmt.running, image := s.mgmt.image,
                              committed := s.mgmt.committed, fusedMin := s.mgmt.fusedMin, boots := s.mgmt.boots,
                              wornPipes := s.mgmt.wornPipes, wornCores := s.mgmt.wornCores } }

/-- PACKAGE_RESET (R467, R473): the reply goes out first; bring-up follows. -/
def execPackageReset (msg : MgmtMsg) (s : State) : Host.Outcome State Fault Refusal :=
  .next (if s.mode = .bringUp ∨ !s.accepts msg then s
    else
      match s.mgmt.replyTo msg.seq with
      | some (_, stat, data) => s.mreply msg.seq stat data
      | none => (s.mreply msg.seq 0 []).afterReset.push .powerOnReset)

/-- The image that a bring-up starts: the committed one, else the one that ran, else the one shipped. -/
def Mgmt.bootImage (m : Mgmt) : List Byte :=
  match m.committed with
  | some b => b
  | none => if m.image.isEmpty then Config.shippedImage else m.image

/-- The image runs; one that was committed raises the fused minimum (R470). -/
def Mgmt.boot (m : Mgmt) : Mgmt :=
  let v := Config.imageVersion (m.bootImage.take 512)
  { m with image := m.bootImage, running := v, fusedMin := if m.committed.isSome then max m.fusedMin v else m.fusedMin,
           committed := none }

/-- The pipes of the package's cores that fail self-test; the cores by their physical clusters. -/
def failedPipes (boots : Nat) : List (Nat × Nat) :=
  (range 0 4).flatMap (fun d => (Config.badPipes boots d).map (fun p => (192 * d + p.1 % 192, p.2)))

/-- The failed pipes of the package: those on record, and what self-test finds besides (R463, R468). -/
def Mgmt.pipesNow (m : Mgmt) : List (Nat × Nat) :=
  m.wornPipes ++ (failedPipes m.boots).eraseDups.filter (fun p => !m.wornPipes.contains p)

/-- A cluster is whole, but for cores that are retired already: no core of it has more than two failed pipes (R463, R468; log 114). -/
def Mgmt.clusterWhole (m : Mgmt) (d c : Nat) : Bool :=
  (range 0 8).all (fun j =>
    let k := 192 * d + 8 * c + j
    m.wornCores.contains k || decide ((m.pipesNow.filter (fun p => p.1 == k)).length ≤ 2))

/-- The whole physical clusters of a die, and those that its logical ones stand for (R468). -/
def Mgmt.wholeClusters (m : Mgmt) (d : Nat) : List Nat :=
  ((Config.goodClusters m.boots d).filter (fun c => decide (c < 24) && m.clusterWhole d c)).eraseDups

def Mgmt.clustersOf (m : Mgmt) (d : Nat) : List Nat := (m.wholeClusters d).take 22

/-- The logical number of a core that is named by its physical cluster, where that is in use. -/
def Mgmt.logicalCore (m : Mgmt) (core : Nat) : Option Nat :=
  ((m.clustersOf (core / 192)).findIdx? (fun c => c == core % 192 / 8)).map (fun c => 176 * (core / 192) + 8 * c + core % 8)

/-- A die in service; `clusters` are its physical clusters, `worn` its retired cores, by their logical numbers. -/
def Die.atBringUp (boots d : Nat) (clusters worn : List Nat) : Die :=
  let bytes := Config.firstPlan boots d
  { Die.fresh with
    slotUnits := 256 - (Config.badChannels boots d).eraseDups.length, retiredSlices := (Config.badSlices boots d).eraseDups,
    retiredChans := (Config.badChannels boots d).eraseDups, deadRouters := (Config.badRouters boots d).eraseDups,
    failed := (Config.badLinks boots d).eraseDups, plan := ⟨planGen bytes, bytes⟩,
    progressHalf := topHalf ((range 0 44).filter (fun h => !worn.any (fun k => coreHalf k == (d, h)))),
    cluUnits := ((range 0 44).filter (fun h => !worn.any (fun k => coreHalf k == (d, h)))).dropLast,
    physical := clusters }

/-- Every part that is in service. -/
def State.fitOut (s : State) : State :=
  let worn := s.mgmt.wornCores.filterMap s.mgmt.logicalCore
  { s with
    cores := (range 0 704).map (fun k => (k, if worn.contains k then { Core.fresh with state := .retired } else Core.fresh)),
    clusters := (range 0 88).map (fun k => (k, Cluster.fresh)),
    halves := (range 0 176).map (fun k => (k, Half.fresh)),
    dies := (range 0 4).map (fun d => (d, Die.atBringUp s.mgmt.boots d (s.mgmt.clustersOf d) worn)) }

/-- The worst case of the steps of R467, in cycles: 2.7 s. -/
def bringUpLimit : Nat := 4860000000

/-- The clock value T0 at which the n-th bring-up starts the market: open, within the times of R467 (R7). -/
def marketStart (n : Nat) : W64 := BitVec.ofNat 64 ((Config.bringUpTime n).toNat % (bringUpLimit + 1))

/-- The market starts at interval 0 (R347, R467). -/
def State.startMarket (s : State) : State :=
  let t0 := marketStart s.mgmt.boots
  { s with clock := t0,
           market := { Market.reset with t0 := t0, started := true, lanes := (range 0 24).filter (fun k => !(Config.badLanes (s.mgmt.boots - 1)).contains k), rotation := s.market.rotation, pkg := s.market.pkg } }

/-- The first plan of a die meets R381 around what has failed (R467, R468). -/
def firstPlanOk (boots d : Nat) : Bool :=
  let die := Die.atBringUp boots d [] []
  planForm die.plan.bytes d && planSymmetric die.plan.bytes && planRoutes die.plan.bytes die d

/-- Failures of a die beyond its budget (R468). -/
def Mgmt.dieBeyond (m : Mgmt) (d : Nat) : Bool :=
  let chans := (Config.badChannels m.boots d).eraseDups
  decide ((m.wholeClusters d).length < 22) || slicesBeyond (Config.badSlices m.boots d).eraseDups ||
    !(Config.badBanks m.boots d).isEmpty || !(Config.badPorts m.boots d).isEmpty ||
    chans.any (fun c => decide (4 < (chans.filter (fun x => x.1 == c.1)).length)) || !firstPlanOk m.boots d

/-- The host ports of the package (R296). -/
def hostPorts : List Nat := [0, 1]

/-- Some failure is beyond its budget (R468). -/
def Mgmt.testFails (m : Mgmt) : Bool :=
  hostPorts.all (Config.badHostPorts m.boots).contains || (range 0 4).any m.dieBeyond

/-- What self-test has found, as entries of its log (R467, R468); their form is the model's (log 21). -/
def testEntries (boots : Nat) : List Byte :=
  ((failedPipes boots).flatMap (fun p => logEntry 1 p.1 p.2)) ++
    (range 0 4).flatMap (fun d =>
      ((Config.badSlices boots d).flatMap (fun n => logEntry 4 d n)) ++
      ((Config.badBanks boots d).flatMap (fun n => logEntry 9 d n)) ++
      ((Config.badPorts boots d).flatMap (fun n => logEntry 10 d n)) ++
      ((Config.badChannels boots d).flatMap (fun c => logEntry 5 (256 * d + c.1) c.2)) ++
      ((Config.badRouters boots d).flatMap (fun r => logEntry 6 d r)) ++
      ((Config.badLinks boots d).flatMap (fun l => logEntry 7 (256 * d + l.1) l.2))) ++
    (Config.badLanes boots).flatMap (fun l => logEntry 8 l 0) ++ (Config.badHostPorts boots).flatMap (fun p => logEntry 11 p 0)

/-- Pipes that have failed are recorded and stay out of service (R463). -/
def State.wearPipes (s : State) : State := { s with mgmt := { s.mgmt with wornPipes := s.mgmt.pipesNow } }

/-- The steps of R467: what self-test finds is mapped out within the budget of R468, or the package enters the state of R469, in which
the management objects of the dies still stand (R14). -/
def State.bringUp (s : State) : State :=
  let s1 := { s with mgmt := { s.mgmt with boots := s.mgmt.boots + 1 } }
  if !imageOk s.mgmt.bootImage s.mgmt.fusedMin || s.mgmt.testFails then
    State.writeLog { s1 with mode := .safe, dies := (range 0 4).map (fun d => (d, Die.fresh)) } (logEntry 3 0 0 ++ testEntries s.mgmt.boots)
  else
    let s2 : State := { s1 with mgmt := s.mgmt.boot }.wearPipes
    (({ s2.fitOut with mgmt := { s2.mgmt with boots := s.mgmt.boots + 1 }, mode := .up } : State).startMarket).writeLog
      (logEntry 0 0 0 ++ testEntries s.mgmt.boots)

/-- POWER_ON_RESET (R467-R469): whatever ran is lost, and the Bashild root brings the package up. -/
def execPowerOnReset (s : State) : Host.Outcome State Fault Refusal := .next s.afterReset.bringUp

/-! ### Temperature (R474) -/

def State.setThermal (s : State) (t : Thermal) : State := { s with mgmt := { s.mgmt with thermal := t } }

/-- THERMAL_GATE_HALF: from 95 °C. -/
def execThermalGateHalf (s : State) : Host.Outcome State Fault Refusal :=
  .next (if s.mode = .up then s.setThermal .half else s)

/-- THERMAL_GATE_SEVEN_EIGHTHS: from 105 °C; one information record in each interval, the first at once. -/
def execThermalGateSevenEighths (s : State) : Host.Outcome State Fault Refusal :=
  .next (if s.mode = .up ∧ s.mgmt.thermal ≠ .sevenEighths then (s.setThermal .sevenEighths).noteHeat else s)

/-- THERMAL_GATE_RELEASE: below 105 °C (level 1), below 95 °C (level 0). -/
def execThermalGateRelease (level : Nat) (s : State) : Host.Outcome State Fault Refusal :=
  .next (if level = 0 then s.setThermal .none else if level = 1 then s.setThermal .half else s)

/-- THERMAL_SHUTDOWN: above 110 °C. -/
def execThermalShutdown (s : State) : Host.Outcome State Fault Refusal :=
  .next (if s.mode = .up then
      let s1 := ((s.teams.filter (fun e => e.2.onCores)).map (·.1)).foldl (fun s k => s.saveTeam k .thermal) s
      State.fatal s1.enterSafe { deviceRecord 0 with kind := .fatal }
    else s)

end Sys2Proof.Machine
end

