-- ==== Sys2Proof/Machine/Choose.lean ====
section
/-! DEFINITION. What happens next: the chosen starts, then the instants that have come, then what is owed, then the inputs of
`agenda`, each in a cycle of its own, then what is left of the cycle, and then a new cycle with every event whose condition holds, each
core's issue starts first. Inputs that stand in `agenda` come before all of these, so any other order is a run of the model too
(log 1). -/

namespace Sys2Proof.Machine

open Sys2Proof

/-! ### Fragments and groups -/

/-- The event that ends a fragment's wait, where its condition holds. -/
def State.fragEvents (s : State) (gid : Nat) (g : Group) (f : Frag) : List Instr :=
  let w : Who := ⟨gid, f.id, g, f⟩
  match f.status with
  | .ready => []
  | .yielding u others => if u.toNat ≤ s.clock.toNat || !others.any s.stillFirst then [.yieldEnd gid f.id] else []
  | .waiting (.join id) => if (g.holders id).all (fun h => h.status == .waiting (.join id)) then [.regangJoin gid id] else []
  | .waiting .park => [.parkedSlicesResume gid f.id]
  | .waiting (.mwait fn a b _ t) =>
    (match s.readWord w a with
     | .value v => if mwaitStops fn v b then [.mwaitWake gid f.id] else []
     | _ => [.mwaitWake gid f.id]) ++
    (match t with | some t => if t.toNat ≤ s.clock.toNat then [.mwaitTimeout gid f.id] else [] | none => [])
  | .waiting (.waitc cls thr) => if (s.waitcEnd w cls thr).isSome then [.waitcSatisfied gid f.id] else []
  | .waiting (.counter a target) =>
    if (s.droppedCause w).isSome then [.joinWake gid f.id]
    else
      (match s.readAt w a 8 with
       | .value b => if counterMet b target then [.joinWake gid f.id] else []
       | _ => [.joinWake gid f.id])
  | .waiting .queue => if s.queueNext w then [] else [.queueWaitComplete gid f.id]
  | .waiting .ring => if s.ringGoes w then [.ringWaitWake gid f.id] else []
  | .waiting .exit =>
    if g.eng.owedAtExit.isSome || (s.droppedCause w).isSome || (s.pairOf gid g).all s.mayLeave then [.groupLeavesCore gid] else []
  | .waiting _ => []

/-- Engine work of a group that can go on. -/
def State.engineEvents (s : State) (gid : Nat) (g : Group) : List Instr :=
  let e := g.eng
  (if e.openBatch.any (s.copyLive g) then [.copyBatchComplete gid 65536] else []) ++
  ((e.closed.filter (fun b => b.2.any (s.copyLive g))).map (fun b => .copyBatchComplete gid b.1.toNat)) ++
  (match e.gathers with | o :: _ => if s.stillHeld g o.held then [] else [.gatherComplete gid] | [] => []) ++
  ((e.collStarts.filter (s.startLive gid g)).map (fun o => .collGenerationComplete o.id)) ++
  ((e.collWrites.filter (s.writeLive g)).map (fun o => .collGenerationComplete o.id)) ++
  (match e.sends with | o :: _ => if s.stillHeld g o.held then [] else [.networkEntryPerformed gid] | [] => []) ++
  (if (s.mxHead gid g).isSome then [.matrixFormComplete gid] else [])

/-- Events of groups on their cores. -/
def State.groupEvents (s : State) : List Instr :=
  (s.groups.filter (fun e => s.onCore e.2)).flatMap (fun e =>
    (if e.2.hm || e.2.stopped.isSome || e.2.bobCause.isSome then [] else e.2.frags.flatMap (s.fragEvents e.1 e.2)) ++
    s.engineEvents e.1 e.2 ++
    (if s.queueStuck e.2 then [.queueDeadlock e.1] else []) ++
    ((e.2.frags.filter (fun f => f.age == 1024 && s.isReady ⟨e.1, f.id, e.2, f⟩ &&
        !((s.cores.get e.2.core).map (fun c => (c.urgent e.2.access).contains (e.1, f.id))).getD true)).map (fun f =>
      .fragmentUrgent e.1 f.id)))

/-- In handler mode only the handler's own wait ends. -/
def State.handlerEvents (s : State) : List Instr :=
  (s.groups.filter (fun e => s.onCore e.2 && e.2.hm)).flatMap (fun e =>
    match e.2.handling.bind (fun h => e.2.frag? h.fid) with
    | some f => s.fragEvents e.1 e.2 f
    | none => [])

def State.teamEvents (s : State) : List Instr :=
  s.teams.flatMap (fun e =>
    (if e.2.onCores && (s.barrierStuck e.2).isSome then [.barrierDeadlock e.1] else []) ++
    (match e.2.state with
     | .draining since =>
       if drainLimit ≤ (s.clock - since).toNat then [.drainTimeout e.1]
       else if s.swapReady e.1 e.2 then [.teamSwapOut e.1] else []
     | .resident => if s.swapReady e.1 e.2 then [.teamSwapOut e.1] else []
     | _ => []))

/-! ### Memory -/

def State.opEvents (s : State) : List Instr :=
  s.ops.flatMap (fun o =>
    match s.opWho o with
    | none => []
    | some w =>
      if !s.onCore w.g then []
      else
        match o.stage with
        | .issued => [.longLatencyRetirement o.id]
        | .held => if s.accessHeld o w then [] else [.heldAccessResume o.id]
        | .sideLogged => []) ++
  (if (s.lateEntry s.ops).isSome then [.lateFault] else [])

/-- Lines that have stood in an L1 for their time (R229, R237). -/
def State.lineLimits (s : State) : List Instr :=
  s.cores.flatMap (fun e =>
    ((e.2.l1.filter (fun l => l.stale s.clock)).map (fun l => .l1WritebackTimeout e.1 l.line)) ++
    ((e.2.l1.filter (s.expired e.1)).map (fun l => .l1CleanCopyExpiry e.1 l.line)))

/-- Side logs. -/
def State.coreEvents (s : State) : List Instr :=
  s.cores.flatMap (fun e =>
    (if s.ops.any (fun o => o.core == e.1 && o.stage == .sideLogged) && (s.replayFirst (s.sideHeads e.1)).isSome then
      [.sideLogReplay e.1] else []))

def State.sharedEvents (s : State) : List Instr :=
  (s.clusters.flatMap (fun e => (e.2.reds.filter (fun r => r.count ≤ r.rows.length)).map (fun r =>
    .reductionGenerationComplete e.1 r.task r.dest))) ++
  ((s.colls.filter (fun e => e.2.full)).map (fun e => .collGenerationComplete e.1)) ++
  ((s.numbered.filter (fun e => e.2.inFlight)).map (fun e => .pageMoveComplete e.1)) ++
  (if s.heldLost then ((s.mem.pages.find? (·.lost)).bind (·.remote)).toList.map .destinationGivenUp else []) ++
  ((s.dies.filter (fun e => s.evicts e.1 &&
    (match oldestPage (s.victims e.1) with
     | some (_, p) => p.queued.isEmpty
     | none => false))).map (fun e => .pageEviction e.1))

/-! ### Front end -/

/-- A word of the front end can be looked at: mapped, or with a fault still to report. -/
def State.wordEvent (s : State) (ctx : Nat) (a : W64) (need : Need) (held : List W64) (ok : List Byte → Bool) (i : Instr) :
    List Instr :=
  match s.feLocs ctx a.toNat 8 need with
  | .ok l => if ok (l.map s.homeByte) then [i] else []
  | .error (g, _) =>
    if held.contains (BitVec.ofNat 64 g) && s.mgmt.traps.any (fun r => samePage r ctx g) then [] else [i]

def State.taskEvents (s : State) : List Instr :=
  s.tasks.flatMap (fun e =>
    (if e.2.completed then [] else (range 0 e.2.launch.deps.length).flatMap (fun k =>
      match e.2.launch.deps[k]?, e.2.deps[k]? with
      | some d, some false =>
        s.wordEvent e.2.ctx d.1 .load e.2.held (fun b => d.2.toNat ≤ bytesNat b) (.dependenceMet e.1 k)
      | _, _ => [])) ++
    (if s.triggerReady e.1 then
      (if e.2.launch.done = 0 then [.triggerPoint e.1]
       else s.wordEvent e.2.ctx e.2.launch.done .atomic e.2.held (fun _ => true) (.triggerPoint e.1))
     else [])) ++
  (s.edges.map (fun e => .edgeFlushEnd e.1)) ++
  ((s.cmds.filter (fun e => s.commandDone e.1 e.2)).map (fun e => .commandComplete e.1))

/-- A context's round would place a team, or finds a candidate that does not wait yet. -/
def State.roundDue (s : State) (ctx : Nat) : Bool :=
  let s1 := s.refresh ctx
  (match s1.firstFit (s1.ordered ctx) [] with
   | some (_, x) => !s1.deciding (x.cluster / 22)
   | none => false) ||
    (s1.passedOver ctx).any (fun c => c.waitingSince.isNone) ||
    s.tasks.any (fun e => e.2.ctx == ctx && e.2.unplaced && s.eligible e.1 e.2 && (s.entryMiss e.2).isSome)

def State.placeEvents (s : State) : List Instr :=
  (if s.placing then (s.ctxs.filter (fun e => s.roundDue e.1)).map (fun e => .placementRound e.1) else []) ++
  (range 0 s.fe.cands.length).flatMap (fun k =>
    match s.fe.cands[k]? with
    | none => []
    | some c =>
      if !s.waited c then []
      else if (s.candRegion c).isEmpty then (if c.noRegion then [] else [.candidateNoRegion c.ctx k])
      else if c.aged then [] else [.candidateAged c.ctx k])

def State.queueEvents (s : State) : List Instr :=
  (if !s.cpRuns then []
   else
    (match s.fe.waiting with
     | v :: _ => if s.freeLane.isSome then [.queueMap v] else []
     | [] => []) ++
    (if s.fe.queues.any (fun e => e.2.serving && (e.2.latch.isSome || e.2.head != e.2.tail)) then [.cpPass] else [])) ++
  s.fe.queues.flatMap (fun e =>
    (if e.2.badRing && s.mgmt.traps.length < 504 then [.queueUnmap e.1] else []) ++
    (if e.2.idle then [.queueUnmap e.1] else []) ++
    (match e.2.lane with
     | some (_, t) => if timeslice ≤ (s.clock - t).toNat && !s.fe.waiting.isEmpty then [.queueTimesliceExpiry e.1] else []
     | none => [])) ++
  (s.fe.hostHeld.filter (fun h => isRdma h.2.2 && oneMs ≤ (s.clock - h.2.1).toNat)).map (fun h => .hostRdmaHoldExpiry h.1)

/-! ### Contexts that move (R357) -/

/-- In the release window, contexts that are to move and have teams on cores. -/
def State.moveEvents (s : State) : List Instr :=
  if s.marketUp && s.inWindow then
    (s.ctxs.filter (fun e => (e.2.moveTo.isSome || e.2.offer.isSome) && s.teams.any (fun t => t.2.ctx == e.1 && t.2.onCores))).map
      (fun e => .contextMigrate e.1)
  else []

/-! ### Issue and the market -/

def State.issueEvents (s : State) : List Instr :=
  s.cores.flatMap (fun e =>
    (if (s.candidates e.1 false).any (fun w => !s.heldNext w) then [.issueStart e.1 .compute] else []) ++
    (if (s.candidates e.1 true).any (fun w => !s.heldNext w) then [.issueStart e.1 .pricking] else []))

/-- The market's next instant, once its cycle has come (R7). -/
def State.marketEvent (s : State) : Option Instr :=
  if !s.market.started then none
  else
    match s.market.stage with
    | .bidding => if 414000 ≤ s.elapsed then some .bidSnapshot else none
    | .snapshotted => if 423000 ≤ s.elapsed then some .pricePublication else none
    | .published => some .releaseWindow
    | .released => if intervalCycles ≤ s.elapsed then some .intervalStart else none

/-- What is due at its instant, before anything else runs: the market's next one, and the time limits of L1 lines (R7, R229,
R237). -/
def State.instant (s : State) : Option Instr :=
  match s.mode with
  | .up =>
    match s.marketEvent with
    | some e => some e
    | none => s.lineLimits.head?
  | _ => none

/-- Every event whose condition holds. -/
def State.enabled (s : State) : List Instr :=
  s.issueEvents ++ s.opEvents ++ s.groupEvents ++ s.handlerEvents ++ s.teamEvents ++ s.coreEvents ++ s.sharedEvents ++
    s.taskEvents ++ s.placeEvents ++ s.queueEvents ++ s.moveEvents ++ s.scrubEvents ++ s.invReady

def State.tick (s : State) : State := { s with clock := s.clock + 1 }

/-- The first held host request whose page has come, that no earlier one of its queue pair holds back (R246). -/
def State.firstReady (s : State) : List (Nat × W64 × Instr) → List Nat → Option (Nat × W64 × Instr)
  | [], _ => none
  | h :: t, pairs =>
    if !pairs.any (fun vi => onPair vi h.2.2) && s.heldReady h.2.2 then some h
    else State.firstReady s t (pairs ++ ((rdmaTarget h.2.2).map (·.1)).toList)

/-- A held host request whose page has come is acted on again. -/
def State.hostReady (s : State) : Option (Nat × W64 × Instr) := s.firstReady s.fe.hostHeld []

def State.resume (s : State) (h : Nat × W64 × Instr) : State :=
  let s1 := s.dropHeld h.1
  { s1 with fe := { s1.fe with resuming := true } }

/-- Candidates stand from the cycle in which their sources offer them (R305). -/
def State.refreshAll (s : State) : State := s.ctxs.foldl (fun s e => s.refresh e.1) s

/-- A new cycle: every event whose condition holds happens in it, each core's issue starts first (log 1). -/
def State.newCycle (s : State) : State := { s.refreshAll.tick with cycle := s.enabled }

/-- What the machine does by itself. -/
def State.choose (s : State) : Pick :=
  match s.mode with
  | .bringUp => .run .powerOnReset s
  | .safe => .stay s.tick
  | .up =>
    match s.cycle with
    | e :: r => .run e { s with cycle := r }
    | [] =>
      match s.hostReady with
      | some h => .run h.2.2 (s.resume h)
      | none => .stay s.newCycle

/-- The second start's word is a COMMIT, in whose cycle what arrives is ignored, or aborts the region with code 0x01, which is lower
than CONFLICT's (R403). -/
def State.closesNext (s : State) (x : Start) : Bool :=
  match s.who? x.gid x.fid with
  | none => false
  | some w =>
    match s.nextWord w with
    | some (.ok (.commit _)) | some (.ok (.abort _)) | some (.ok (.exit _)) => true
    | _ => false

/-- The second start of a cycle. A CONFLICT that the first start has raised in its group comes first: the lowest code of the cycle
is written (R403). -/
def State.pickSecond (s : State) (x : Start) : Pick :=
  if s.due.contains (.conflict x.gid) && !s.closesNext x then
    .run (.conflict x.gid) { s with due := s.due.erase (.conflict x.gid) }
  else .stay (s.startSecond x)

/-- The next event or instruction of a step. -/
def State.pick (s0 : State) : Pick :=
  match s0.cur with
  | some c => s0.fetch c
  | none =>
    match s0.second with
    | some x => s0.pickSecond x
    | none =>
      let s := s0.pruneYields
      match s.instant with
      | some e => .run e s
      | none =>
        match s.due with
        | e :: r => .run e { s with due := r }
        | [] =>
          match s.agenda with
          | e :: r => .run e { s.tick with agenda := r }
          | [] => s.choose

end Sys2Proof.Machine
end

