-- ==== Sys2Proof/Machine/Float.lean ====
section
/-! DEFINITION. The FP32 forms (spec/04 R110-R119; spec/07 R170-R181). -/

namespace Sys2Proof.Machine

open Sys2Proof

/-- VFADD (R111). -/
def execVfadd (fn : RndFn) (x : Args) (s : State) : Host.Outcome State Fault Refusal :=
  vecForm s x [x.a, x.b] (fun w l => addF32 (formMode fn w.f.fmt) (fmtFZ w.f.fmt) (s.srcV w x.imm x.a l) (s.srcV w x.imm x.b l))

/-- VFSUB (R111). -/
def execVfsub (fn : RndFn) (x : Args) (s : State) : Host.Outcome State Fault Refusal :=
  vecForm s x [x.a, x.b] (fun w l => subF32 (formMode fn w.f.fmt) (fmtFZ w.f.fmt) (s.srcV w x.imm x.a l) (s.srcV w x.imm x.b l))

/-- VFMUL (R111). -/
def execVfmul (fn : RndFn) (x : Args) (s : State) : Host.Outcome State Fault Refusal :=
  vecForm s x [x.a, x.b] (fun w l => mulF32 (formMode fn w.f.fmt) (fmtFZ w.f.fmt) (s.srcV w x.imm x.a l) (s.srcV w x.imm x.b l))

/-- VFMA (R111). -/
def execVfma (fn : RndFn) (x : Args) (s : State) : Host.Outcome State Fault Refusal :=
  vecForm s x [x.a, x.b, x.c] (fun w l => fmaF32 (formMode fn w.f.fmt) (fmtFZ w.f.fmt) (s.srcV w x.imm x.a l) (s.srcV w x.imm x.b l) (s.srcV w x.imm x.c l))

/-- VFNMA (R111). -/
def execVfnma (fn : RndFn) (x : Args) (s : State) : Host.Outcome State Fault Refusal :=
  vecForm s x [x.a, x.b, x.c] (fun w l => fnmaF32 (formMode fn w.f.fmt) (fmtFZ w.f.fmt) (s.srcV w x.imm x.a l) (s.srcV w x.imm x.b l) (s.srcV w x.imm x.c l))

/-- VFMIN (R112). -/
def execVfmin (fn : NanFn) (x : Args) (s : State) : Host.Outcome State Fault Refusal :=
  vecForm s x [x.a, x.b] (fun w l => minMaxF32 false fn (fmtFZ w.f.fmt) (s.srcV w x.imm x.a l) (s.srcV w x.imm x.b l))

/-- VFMAX (R112). -/
def execVfmax (fn : NanFn) (x : Args) (s : State) : Host.Outcome State Fault Refusal :=
  vecForm s x [x.a, x.b] (fun w l => minMaxF32 true fn (fmtFZ w.f.fmt) (s.srcV w x.imm x.a l) (s.srcV w x.imm x.b l))

/-- VFSGN (R113). -/
def execVfsgn (fn : SgnFn) (x : Args) (s : State) : Host.Outcome State Fault Refusal :=
  vecForm s x [x.a, x.b] (fun w l => (signF32 fn (s.srcV w x.imm x.a l) (s.srcV w x.imm x.b l), 0))

/-- VFRSQE (R114, R115). -/
def execVfrsqe (x : Args) (s : State) : Host.Outcome State Fault Refusal :=
  vecForm s x [x.a] (fun w l => rsqrtF32 (fmtFZ w.f.fmt) (s.srcV w x.imm x.a l))

/-- VFRCPE (R114, R115). -/
def execVfrcpe (x : Args) (s : State) : Host.Outcome State Fault Refusal :=
  vecForm s x [x.a] (fun w l => recipF32 (fmtFZ w.f.fmt) (s.srcV w x.imm x.a l))

/-- VFEX2E (R114, R115). -/
def execVfex2e (x : Args) (s : State) : Host.Outcome State Fault Refusal :=
  vecForm s x [x.a] (fun w l => exp2F32 (fmtFZ w.f.fmt) (s.srcV w x.imm x.a l))

/-- VFLG2E (R114, R115). -/
def execVflg2e (x : Args) (s : State) : Host.Outcome State Fault Refusal :=
  vecForm s x [x.a] (fun w l => log2F32 (fmtFZ w.f.fmt) (s.srcV w x.imm x.a l))

/-- VFSCL (R116). -/
def execVfscl (fn : RndFn) (x : Args) (s : State) : Host.Outcome State Fault Refusal :=
  vecForm s x [x.a, x.b] (fun w l => scaleF32 (formMode fn w.f.fmt) (fmtFZ w.f.fmt) (s.srcV w x.imm x.a l) (s.srcV w x.imm x.b l))

/-- VFXP (R117). -/
def execVfxp (fn : XpFn) (x : Args) (s : State) : Host.Outcome State Fault Refusal :=
  vecForm s x [x.a] (fun w l => (splitF32 fn (s.srcV w x.imm x.a l), 0))

/-- VFCLS (R118). -/
def execVfcls (x : Args) (s : State) : Host.Outcome State Fault Refusal :=
  vecForm s x [x.a] (fun w l => (classF32 (s.srcV w x.imm x.a l), 0))

/-- VFRND (R119). -/
def execVfrnd (fn : RndFn) (x : Args) (s : State) : Host.Outcome State Fault Refusal :=
  vecForm s x [x.a] (fun w l => integralF32 (formMode fn w.f.fmt) (fmtFZ w.f.fmt) (s.srcV w x.imm x.a l))

end Sys2Proof.Machine
end

