-- ==== Sys2Proof/Machine/Vector.lean ====
section
/-! DEFINITION. The vector integer forms (spec/03 R91-R96). -/

namespace Sys2Proof.Machine

open Sys2Proof

/-- A vector form that raises no flag. -/
def intForm (s : State) (x : Args) (srcs : List Operand) (val : Who → Nat → W32) : Host.Outcome State Fault Refusal :=
  vecForm s x srcs (fun w l => (val w l, 0))

/-- The lane of the register that D names, before the instruction (R96). -/
def Who.oldLane (w : Who) (d : Operand) (l : Nat) : W32 :=
  match d with
  | .v n => w.g.lane n.toNat l
  | _ => 0

/-- VADD (R92). -/
def execVadd (fn : SatFn) (x : Args) (s : State) : Host.Outcome State Fault Refusal :=
  intForm s x [x.a, x.b] (fun w l => addSat fn false (s.srcV w x.imm x.a l) (s.srcV w x.imm x.b l))

/-- VSUB (R92). -/
def execVsub (fn : SatFn) (x : Args) (s : State) : Host.Outcome State Fault Refusal :=
  intForm s x [x.a, x.b] (fun w l => addSat fn true (s.srcV w x.imm x.a l) (s.srcV w x.imm x.b l))

/-- VMUL (R93). -/
def execVmul (x : Args) (s : State) : Host.Outcome State Fault Refusal :=
  intForm s x [x.a, x.b] (fun w l => (s.srcV w x.imm x.a l) * (s.srcV w x.imm x.b l))

/-- VMULH (R93). -/
def execVmulh (fn : SignFn) (x : Args) (s : State) : Host.Outcome State Fault Refusal :=
  intForm s x [x.a, x.b] (fun w l => mulHigh fn (s.srcV w x.imm x.a l) (s.srcV w x.imm x.b l))

/-- VMAD (R93). -/
def execVmad (x : Args) (s : State) : Host.Outcome State Fault Refusal :=
  intForm s x [x.a, x.b, x.c] (fun w l => (s.srcV w x.imm x.a l) * (s.srcV w x.imm x.b l) + (s.srcV w x.imm x.c l))

/-- VAND (R94). -/
def execVand (fn : LogicFn) (x : Args) (s : State) : Host.Outcome State Fault Refusal :=
  intForm s x [x.a, x.b] (fun w l => (s.srcV w x.imm x.a l) &&& complN fn (s.srcV w x.imm x.b l))

/-- VOR (R94). -/
def execVor (fn : LogicFn) (x : Args) (s : State) : Host.Outcome State Fault Refusal :=
  intForm s x [x.a, x.b] (fun w l => (s.srcV w x.imm x.a l) ||| complN fn (s.srcV w x.imm x.b l))

/-- VXOR (R94). -/
def execVxor (fn : LogicFn) (x : Args) (s : State) : Host.Outcome State Fault Refusal :=
  intForm s x [x.a, x.b] (fun w l => (s.srcV w x.imm x.a l) ^^^ complN fn (s.srcV w x.imm x.b l))

/-- VSHL (R94): the amount is B[4:0]. -/
def execVshl (fn : ShlFn) (x : Args) (s : State) : Host.Outcome State Fault Refusal :=
  intForm s x [x.a, x.b] (fun w l => shiftLeft fn (s.srcV w x.imm x.a l) ((s.srcV w x.imm x.b l).toNat % 32))

/-- VSHR (R94). -/
def execVshr (fn : ShrFn) (x : Args) (s : State) : Host.Outcome State Fault Refusal :=
  intForm s x [x.a, x.b] (fun w l => shiftRight fn (s.srcV w x.imm x.a l) ((s.srcV w x.imm x.b l).toNat % 32))

/-- VMIN (R95). -/
def execVmin (fn : SignFn) (x : Args) (s : State) : Host.Outcome State Fault Refusal :=
  intForm s x [x.a, x.b] (fun w l => minMax (match fn with | .s => .min | .u => .minu) (s.srcV w x.imm x.a l) (s.srcV w x.imm x.b l))

/-- VMAX (R95). -/
def execVmax (fn : SignFn) (x : Args) (s : State) : Host.Outcome State Fault Refusal :=
  intForm s x [x.a, x.b] (fun w l => minMax (match fn with | .s => .max | .u => .maxu) (s.srcV w x.imm x.a l) (s.srcV w x.imm x.b l))

/-- VABS (R95). -/
def execVabs (fn : AbsFn) (x : Args) (s : State) : Host.Outcome State Fault Refusal :=
  intForm s x [x.a] (fun w l => absLane fn (s.srcV w x.imm x.a l))

/-- VCLZ (R95). -/
def execVclz (x : Args) (s : State) : Host.Outcome State Fault Refusal :=
  intForm s x [x.a] (fun w l => leadingZeros (s.srcV w x.imm x.a l))

/-- VPOPC (R95). -/
def execVpopc (x : Args) (s : State) : Host.Outcome State Fault Refusal :=
  intForm s x [x.a] (fun w l => BitVec.ofNat 32 (popCount (s.srcV w x.imm x.a l) 32))

/-- VBFX (R96): .ins keeps the rest of the register's lane. -/
def execVbfx (fn : BfxFn) (x : Args) (s : State) : Host.Outcome State Fault Refusal :=
  intForm s x [x.a, x.b, x.c] (fun w l => bitField fn (w.oldLane x.d l) (s.srcV w x.imm x.a l) (s.srcV w x.imm x.b l) (s.srcV w x.imm x.c l))

end Sys2Proof.Machine
end

