-- ==== Sys2Proof/Machine/Lane.lean ====
section
/-! DEFINITION. The lane and move forms (spec/03 R97-R105; spec/07 R177). -/

namespace Sys2Proof.Machine

open Sys2Proof

/-- VMOV (R97). -/
def execVmov (x : Args) (s : State) : Host.Outcome State Fault Refusal :=
  intForm s x [x.a] (fun w l => s.srcV w x.imm x.a l)

/-- The mask written by a comparison: the bits of active lanes; the others keep their value (R98). -/
def maskResult (old : W64) (act : W32) (p : Nat → Bool) : W64 :=
  (old &&& ~~~(act.setWidth 64)) ||| (bits32 (fun l => laneIn act l && p l)).setWidth 64

/-- VCMP (R98, R99). -/
def execVcmp (fn : CmpFn) (x : Args) (s : State) : Host.Outcome State Fault Refusal :=
  laneForm s x [x.a, x.b]
    (fun w act => maskResult (w.oldD x.cm x.d) act
      (fun l => cmpHolds fn (s.srcV w x.imm x.a l) (s.srcV w x.imm x.b l)))
    (fun _ _ _ => 0)

/-- One lane of VFCMP. -/
def State.fcmpLane (s : State) (w : Who) (fn : FcmpFn) (x : Args) (l : Nat) : Bool × FlagSet :=
  cmpF32 fn (fmtFZ w.f.fmt) (s.srcV w x.imm x.a l) (s.srcV w x.imm x.b l)

/-- VFCMP (R98, R99). -/
def execVfcmp (fn : FcmpFn) (x : Args) (s : State) : Host.Outcome State Fault Refusal :=
  laneForm s x [x.a, x.b]
    (fun w act => maskResult (w.oldD x.cm x.d) act (fun l => (s.fcmpLane w fn x l).1))
    (fun w _ l => (s.fcmpLane w fn x l).2)

/-- VSEL's selector (R97). -/
def State.selects (s : State) (w : Who) (x : Args) (l : Nat) : Bool :=
  let c := s.srcV w x.imm x.c l
  match x.c with
  | .v _ => c != 0
  | .q _ => c != 0
  | .sp y => if y.isScalar then c.getLsbD l else c != 0
  | _ => c.getLsbD l

/-- VSEL (R97). -/
def execVsel (x : Args) (s : State) : Host.Outcome State Fault Refusal :=
  intForm s x [x.a, x.b, x.c]
    (fun w l => if s.selects w x l then s.srcV w x.imm x.a l else s.srcV w x.imm x.b l)

/-- The source lane that a scalar operand names (R100, R105). -/
def State.laneNo (s : State) (w : Who) (x : Args) : Nat := (s.srcS w x.imm x.b).toNat % 32

/-- VBCAST (R100, R102). -/
def execVbcast (fn : BcastFn) (x : Args) (s : State) : Host.Outcome State Fault Refusal :=
  intForm s x [] (fun w l =>
    match fn with
    | .s => s.srcV w x.imm x.a l
    | .lane => s.srcV w x.imm x.a (s.laneNo w x))

/-- VSHFL (R101, R102). -/
def execVshfl (fn : ShflFn) (x : Args) (s : State) : Host.Outcome State Fault Refusal :=
  intForm s x [x.b] (fun w l => s.srcV w x.imm x.a (shuffleSrc fn l (s.srcV w x.imm x.b l)))

/-- An integer reduction over the active lanes (R103). -/
def reduceInt (fn : RedFn) (l : List W32) : W64 :=
  let fold (f : W32 → W32 → W32) : W32 :=
    match l with
    | [] => 0
    | a :: t => t.foldl f a
  match fn with
  | .add => (fold (· + ·)).signExtend 64
  | .min => (fold (minMax .min)).signExtend 64
  | .max => (fold (minMax .max)).signExtend 64
  | .minu => (fold (minMax .minu)).setWidth 64
  | .maxu => (fold (minMax .maxu)).setWidth 64
  | .and => (fold (· &&& ·)).setWidth 64
  | .or => (fold (· ||| ·)).setWidth 64
  | .xor => (fold (· ^^^ ·)).setWidth 64
  | _ => 0

/-- The FP32 operation of a reduction's tree (R104). -/
def reduceOp (fn : RedFn) (fmt : W32) (a b : W32) : W32 × FlagSet :=
  match fn with
  | .fmin => minMaxF32 false .num (fmtFZ fmt) a b
  | .fmax => minMaxF32 true .num (fmtFZ fmt) a b
  | _ => addF32 (rmodeOf (fmtRM fmt)) (fmtFZ fmt) a b

/-- The result of the tree; a value that no operation has met is brought to the canonical NaN all the same (R104, R175). -/
def reduceTree (op : W32 → W32 → W32 × FlagSet) (act : W32) (a : Nat → W32) : W32 × FlagSet :=
  match activeList act with
  | [l] => canonNan (a l)
  | _ =>
    let r := treeSum op 5 ((List.range 32).map (fun l => if laneIn act l then some (a l) else none))
    (r.1.getD 0, r.2)

/-- VRED over lane values: the value and the flags of its tree (R103, R104). -/
def reduce (fn : RedFn) (fmt : W32) (act : W32) (a : Nat → W32) : W64 × FlagSet :=
  let tree : W64 × FlagSet := let r := reduceTree (reduceOp fn fmt) act a; (r.1.setWidth 64, r.2)
  match fn with
  | .fadd => tree
  | .fmin => tree
  | .fmax => tree
  | _ => (reduceInt fn ((activeList act).map a), 0)

/-- VRED (R103, R104): with no lane active D keeps its value; a cause's mask is that of all active lanes (R177). -/
def execVred (fn : RedFn) (x : Args) (s : State) : Host.Outcome State Fault Refusal :=
  run s (fun w =>
    s.laneBody w (if w.active x.msk = 0 then keepD x else x) [x.a]
      (fun w act => if act = 0 then w.oldD x.cm x.d else (reduce fn w.f.fmt act (s.srcV w x.imm x.a)).1)
      (fun w act _ => (reduce fn w.f.fmt act (s.srcV w x.imm x.a)).2))

/-- VEXT (R102, R105): with no lane active D keeps its value. -/
def execVext (fn : ExtFn) (x : Args) (s : State) : Host.Outcome State Fault Refusal :=
  run s (fun w =>
    s.laneBody w (if w.active x.msk = 0 then keepD x else x) []
      (fun w act =>
        if act = 0 then w.oldD x.cm x.d
        else
          let v := s.srcV w x.imm x.a (s.laneNo w x)
          match fn with
          | .z => v.setWidth 64
          | .s => v.signExtend 64)
      (fun _ _ _ => 0))

end Sys2Proof.Machine
end

