-- ==== Sys2Proof/Machine/Narrow.lean ====
section
/-! DEFINITION. The narrow-format lane forms and the format register (spec/17 R332, R333; spec/08 R194, R195). -/

namespace Sys2Proof.Machine

open Sys2Proof

/-- VCVT (R333): the source format is IMM[3:0]. -/
def execVcvt (fn : NumFmt) (x : Args) (s : State) : Host.Outcome State Fault Refusal :=
  vecForm s x [x.a, x.b] (fun w l =>
    convert ((NumFmt.ofCode (immField x.imm 0 4)).getD .f32) fn (rmodeOf (fmtRM w.f.fmt)) (fmtCE w.f.fmt)
      (s.srcV w x.imm x.a l) (s.srcV w x.imm x.b l))

/-- VPACK (R333). -/
def execVpack (fn : PackFn) (x : Args) (s : State) : Host.Outcome State Fault Refusal :=
  vecForm s x [x.a, x.b] (fun w l =>
    packField fn (rmodeOf (fmtRM w.f.fmt)) (fmtCE w.f.fmt) (w.oldLane x.d l) (s.srcV w x.imm x.a l) (s.srcV w x.imm x.b l))

/-- VUNPK (R333). -/
def execVunpk (fn : PackFn) (x : Args) (s : State) : Host.Outcome State Fault Refusal :=
  vecForm s x [x.a, x.b] (fun w l =>
    unpackField fn (rmodeOf (fmtRM w.f.fmt)) (s.srcV w x.imm x.a l) (s.srcV w x.imm x.b l))

/-- VHFMA (R333). -/
def execVhfma (fn : HalfFn) (x : Args) (s : State) : Host.Outcome State Fault Refusal :=
  vecForm s x [x.a, x.b, x.c] (fun w l =>
    halfFma fn (rmodeOf (fmtRM w.f.fmt)) (fmtCE w.f.fmt) (s.srcV w x.imm x.a l) (s.srcV w x.imm x.b l)
      (s.srcV w x.imm x.c l))

/-- VDOT4 (R333). -/
def execVdot4 (fn : Dot4Fn) (x : Args) (s : State) : Host.Outcome State Fault Refusal :=
  vecForm s x [x.a, x.b, x.c] (fun w l =>
    dot4 fn (rmodeOf (fmtRM w.f.fmt)) (fmtCE w.f.fmt) (s.srcV w x.imm x.a l) (s.srcV w x.imm x.b l)
      (s.srcV w x.imm x.c l))

/-- VTSEL (R333). -/
def execVtsel (x : Args) (s : State) : Host.Outcome State Fault Refusal :=
  vecForm s x [x.a, x.b, x.c] (fun w l =>
    t2Select (s.srcV w x.imm x.a l) (s.srcV w x.imm x.b l) (s.srcV w x.imm x.c l))

/-- SETFMT (R194): a reserved format code is cause 0x02 and leaves fmt. -/
def execSetfmt (fn : SetfmtFn) (x : Args) (s : State) : Host.Outcome State Fault Refusal :=
  run s (fun w =>
    let v : W32 := match fn with
      | .reg => (s.srcS w x.imm x.a).setWidth 32
      | .i => x.imm
    if fmtLegal v then .ok ((s.updFrag w.gid w.fid (fun f => { f with fmt := v })).advance w)
    else .error (.cause 0x02 none))

/-- GETFMT (R195): .clr clears bits [31:24] after reading. -/
def execGetfmt (fn : GetfmtFn) (x : Args) (s : State) : Host.Outcome State Fault Refusal :=
  run s (fun w =>
    let sh : Shape := ⟨x.cm, x.d, x.imm, [], 0⟩
    match s.pre w sh with
    | .error e => .error e
    | .ok () =>
      let s1 := s.putScalar w sh (w.f.fmt.setWidth 64)
      let s2 := match fn with
        | .plain => s1
        | .clr => s1.updFrag w.gid w.fid (fun f => { f with fmt := fmtClear f.fmt })
      .ok (s2.advance w))

end Sys2Proof.Machine
end

