-- ==== Sys2Proof/Machine/Scalar.lean ====
section
/-! DEFINITION. The scalar forms (spec/03 R83-R90). -/

namespace Sys2Proof.Machine

open Sys2Proof

/-- SADD (R84). -/
def execSadd (fn : SatFn) (x : Args) (s : State) : Host.Outcome State Fault Refusal :=
  scalForm s x (fun w => addSat fn false (s.srcS w x.imm x.a) (s.srcS w x.imm x.b))

/-- SSUB (R84). -/
def execSsub (fn : SatFn) (x : Args) (s : State) : Host.Outcome State Fault Refusal :=
  scalForm s x (fun w => addSat fn true (s.srcS w x.imm x.a) (s.srcS w x.imm x.b))

/-- SMUL (R85). -/
def execSmul (x : Args) (s : State) : Host.Outcome State Fault Refusal :=
  scalForm s x (fun w => (s.srcS w x.imm x.a) * (s.srcS w x.imm x.b))

/-- SMULH (R85). -/
def execSmulh (fn : SignFn) (x : Args) (s : State) : Host.Outcome State Fault Refusal :=
  scalForm s x (fun w => mulHigh fn (s.srcS w x.imm x.a) (s.srcS w x.imm x.b))

/-- SAND (R86). -/
def execSand (fn : LogicFn) (x : Args) (s : State) : Host.Outcome State Fault Refusal :=
  scalForm s x (fun w => (s.srcS w x.imm x.a) &&& complN fn (s.srcS w x.imm x.b))

/-- SOR (R86). -/
def execSor (fn : LogicFn) (x : Args) (s : State) : Host.Outcome State Fault Refusal :=
  scalForm s x (fun w => (s.srcS w x.imm x.a) ||| complN fn (s.srcS w x.imm x.b))

/-- SXOR (R86). -/
def execSxor (fn : LogicFn) (x : Args) (s : State) : Host.Outcome State Fault Refusal :=
  scalForm s x (fun w => (s.srcS w x.imm x.a) ^^^ complN fn (s.srcS w x.imm x.b))

/-- SSHL (R87): the amount is B[5:0]. -/
def execSshl (fn : ShlFn) (x : Args) (s : State) : Host.Outcome State Fault Refusal :=
  scalForm s x (fun w => shiftLeft fn (s.srcS w x.imm x.a) ((s.srcS w x.imm x.b).toNat % 64))

/-- SSHR (R87). -/
def execSshr (fn : ShrFn) (x : Args) (s : State) : Host.Outcome State Fault Refusal :=
  scalForm s x (fun w => shiftRight fn (s.srcS w x.imm x.a) ((s.srcS w x.imm x.b).toNat % 64))

/-- SCMP (R88). -/
def execScmp (fn : CmpFn) (x : Args) (s : State) : Host.Outcome State Fault Refusal :=
  scalForm s x (fun w => if cmpHolds fn (s.srcS w x.imm x.a) (s.srcS w x.imm x.b) then 1 else 0)

/-- SSEL (R88). -/
def execSsel (x : Args) (s : State) : Host.Outcome State Fault Refusal :=
  scalForm s x (fun w => if (s.srcS w x.imm x.c) ≠ 0 then (s.srcS w x.imm x.a) else (s.srcS w x.imm x.b))

/-- SMOV (R89). -/
def execSmov (fn : MovFn) (x : Args) (s : State) : Host.Outcome State Fault Refusal :=
  scalForm s x (fun w => movValue fn (s.srcS w x.imm x.a) (x.a == .imm) x.imm)

/-- SPOPC (R90). -/
def execSpopc (fn : PopcFn) (x : Args) (s : State) : Host.Outcome State Fault Refusal :=
  scalForm s x (fun w => BitVec.ofNat 64 (popCount (s.srcS w x.imm x.a) (match fn with | .full => 64 | .w => 32)))

/-- SFFS (R90). -/
def execSffs (fn : FfsFn) (x : Args) (s : State) : Host.Outcome State Fault Refusal :=
  scalForm s x (fun w => findBit fn (s.srcS w x.imm x.a))

/-- SMINMAX (R90). -/
def execSminmax (fn : MinMaxFn) (x : Args) (s : State) : Host.Outcome State Fault Refusal :=
  scalForm s x (fun w => minMax fn (s.srcS w x.imm x.a) (s.srcS w x.imm x.b))

/-- SBIT (R90). -/
def execSbit (fn : BitFn) (x : Args) (s : State) : Host.Outcome State Fault Refusal :=
  scalForm s x (fun w => bitOp fn (s.srcS w x.imm x.a) ((s.srcS w x.imm x.b).toNat % 64))

end Sys2Proof.Machine
end

