-- ==== Sys2Proof/Machine/System.lean ====
section
/-! DEFINITION. The control registers and the system forms (spec/22 R404-R411). -/

namespace Sys2Proof.Machine

open Sys2Proof

/-! ### Control registers (R404-R406) -/

/-- CODE is open: it is valid while HM is 1, and is its reset value until a first cause is delivered (R405; log 26). -/
def Group.codeOpen (g : Group) : Bool := !g.hm && g.code != 0

/-- CR.STATUS (R405); `x` stands where CODE is open. -/
def Group.statusWord (g : Group) (x : W64) : W64 :=
  BitVec.ofNat 64 ((if g.hm then 1 else 0) + 4 * (match g.tryR with | some t => t.depth | none => 0) +
    (if g.idem then 16 else 0) + 256 * (if g.codeOpen then x.toNat % 256 else g.code.toNat))

/-- A control register as CTLR reads it. -/
def State.readCtl (s : State) (w : Who) (r : CtlReg) : W64 :=
  let half := s.halves.get (halfNo w.g.core)
  let ctx := s.ctxOf w.g
  match r with
  | .status => w.g.statusWord s.freeValue
  | .cause => w.g.cause
  | .epc => w.g.epc
  | .tval => w.g.tval
  | .trapvec => (ctx.map (·.trapvec)).getD 0
  | .idempc => w.g.idemPc
  | .lpext => (ctx.map (·.lpext)).getD 0
  | .trtab => w.g.trtab
  | .mxprog => w.g.eng.matrix.prog (s.looping w.gid w.g)
  | .mxsteps => (half.map (·.steps)).getD 0
  | .mxbusy => (half.map (·.busy)).getD 0
  | .mxwait => (half.map (·.wait)).getD 0
  | .relcnt => (ctx.map (·.relcnt)).getD 0
  | .cpq => w.g.eng.cpq
  | .red => w.g.eng.red
  | .net => w.g.eng.netAddr

/-- Registers that only a handler writes (R404). -/
def ctlHandlerOnly : CtlReg → Bool
  | .cause => true
  | .epc => true
  | .tval => true
  | .trapvec => true
  | .lpext => true
  | _ => false

/-- The bits that a W1C write clears go with their pending values (R406, R439). -/
def Group.clearCause (g : Group) (a : W64) : Group :=
  { g with cause := g.cause &&& ~~~a, pendTval := g.pendTval.filter (fun e => !a.getLsbD e.1) }

/-- A control register written with its new value. -/
def State.writeCtl (s : State) (w : Who) (r : CtlReg) (v : W64) : State :=
  match r with
  | .cause => s.updGroup w.gid (fun g => g.clearCause v)
  | .epc => s.updGroup w.gid (fun g => { g with epc := v, replay := none })
  | .tval => s.updGroup w.gid (fun g => { g with tval := v })
  | .trapvec => s.updCtx w.g.ctx (fun c => { c with trapvec := v })
  | .lpext => s.updCtx w.g.ctx (fun c => { c with lpext := v })
  | .trtab => s.updGroup w.gid (fun g => { g with trtab := v })
  | .cpq => s.updGroup w.gid (fun g => { g with eng := { g.eng with cpq := v } })
  | .red => s.updGroup w.gid (fun g => { g with eng := { g.eng with red := v } })
  | .net => s.updGroup w.gid (fun g => { g with eng := { g.eng with netAddr := v } })
  | _ => s

/-- A value that the register accepts (R258, R404). -/
def ctlAccepts (r : CtlReg) (v : W64) : Bool :=
  match r with
  | .epc => (Pc.ofAddr v).isSome
  | .trapvec => (Pc.ofAddr v).isSome
  | .trtab => v.toNat % 64 == 0
  | .red => decide (v.toNat / 2 ^ 42 = 0) && v.toNat % 128 == 0
  | _ => true

/-- The value that a CTLW gives (R406). -/
def ctlValue (fn : CtlwFn) (old a : W64) : W64 :=
  match fn with
  | .write => a
  | .set => old ||| a
  | .clr => old &&& ~~~a

def ctlOf (x : Args) : CtlReg := (CtlReg.ofNum (immField x.imm 0 12)).getD .status

/-- CTLR (R404, R406). -/
def execCtlr (x : Args) (s : State) : Host.Outcome State Fault Refusal :=
  run s (fun w =>
    let sh : Shape := ⟨x.cm, x.d, x.imm, [], 0⟩
    match s.pre w sh with
    | .error e => .error e
    | .ok () =>
      let s1 := s.putScalar w sh (s.readCtl w (ctlOf x))
      .ok ((if ctlOf x = .status && w.g.codeOpen then s1.takeFree else s1).advance w))

/-- CTLW (R404, R406, R411). -/
def execCtlw (fn : CtlwFn) (x : Args) (s : State) : Host.Outcome State Fault Refusal :=
  engineForm s (fun w =>
    let r := ctlOf x
    let a := s.srcS w x.imm x.a
    let v := match r with
      | .cause => a
      | _ => ctlValue fn (s.readCtl w r) a
    if ctlHandlerOnly r && !w.g.hm then .error (.cause 0x2B none)
    else if !ctlAccepts r v then .error (.cause 0x02 none)
    else .ok (((s.writeCtl w r v).disarm w).advance w))

/-! ### Restart points, traps and returns (R407-R409) -/

/-- IDEM, both forms: its wait and its fragment condition (R407, R411). -/
def idemForm (s : State) (upd : Who → State → State) : Host.Outcome State Fault Refusal :=
  engineForm s (fun w =>
    if !w.holdsAll then .error (.cause 0x2A none)
    else if !s.settled w.gid then .error (.wait .fence s)
    else .ok ((upd w s).advance w))

/-- IDEM .on (R407, R461). -/
def execIdemOn (_x : Args) (s : State) : Host.Outcome State Fault Refusal :=
  idemForm s (fun w s =>
    s.updGroup w.gid (fun g =>
      { g with idem := true, idemPc := w.f.pc.next.addr, idemFmt := w.f.fmt, idemStack := w.f.stack, restarts := 0,
               written := [] }))

/-- IDEM .off (R407, R453). -/
def execIdemOff (_x : Args) (s : State) : Host.Outcome State Fault Refusal := idemForm s (fun w s => s.spoil w)

/-- TRAP (R408, R411). -/
def execTrap (x : Args) (s : State) : Host.Outcome State Fault Refusal :=
  run s (fun w =>
    let n := BitVec.ofNat 64 (immField x.imm 0 16)
    if w.g.tryR.isSome then .error (.abort 0x06 0 (some n)) else .error (.trapNext 0x3E n))

/-- BKPT (R408, R411). -/
def execBkpt (x : Args) (s : State) : Host.Outcome State Fault Refusal :=
  run s (fun w =>
    let n := BitVec.ofNat 64 (immField x.imm 0 16)
    if w.g.tryR.isSome then .error (.abort 0x06 0 (some n)) else .error (.cause 0x3F (some n)))

/-- HRET (R409, R411, R439). -/
def execHret (_x : Args) (s : State) : Host.Outcome State Fault Refusal :=
  engineForm s (fun w => if w.g.hm then .ok (s.hret w) else .error (.cause 0x2B none))

/-! ### SVC (R410, R451) -/

/-- The checks of the request block: alignment, then where it lies. -/
def State.svcFail (s : State) (w : Who) (a : W64) : Option (Nat × W64) :=
  if a.toNat % 64 ≠ 0 then some (0x10, a)
  else
    match apertureOf a with
    | .none => some (0x12, a)
    | .global => (regionCause (s.launchOf w.g.task) a.toNat 64 true).map (fun c => (c, a))
    | _ => some (0x07, a)

def Who.sentHere (w : Who) (x : Sent) : Bool := x.fid == w.fid && x.hm == w.g.hm && x.pc == w.f.pc

/-- The answer is taken: the request is forgotten. -/
def State.forgetSent (s : State) (w : Who) (r : Sent) : State :=
  s.updGroup w.gid (fun g => { g with sent := g.sent.filter (fun x => x != r) })

/-- SVC (R410, R411, R450, R451). -/
def execSvc (x : Args) (s : State) : Host.Outcome State Fault Refusal :=
  engineForm s (fun w =>
    let n := immField x.imm 0 16
    match w.g.sent.find? w.sentHere with
    | some r =>
      match r.answer with
      | none => .error (.wait .svc s)
      | some true => .ok (((s.forgetSent w r).acquire w.g .system).advance w)
      | some false => .ok ((s.forgetSent w r).raisePrecise w 0x2C (some (BitVec.ofNat 64 n)) w.f.pc.addr)
    | none =>
      let a := s.srcS w x.imm x.a
      match s.svcFail w a with
      | some (c, tv) => .error (.cause c (some tv))
      | none =>
        if !s.settled w.gid then .error (.wait .fence s)
        else
          match s.mgmt.addReplayable (w.record 0x2C .replayable .operator a 0 (BitVec.ofNat 32 n)) with
          | none => .error (.wait .trapQueue s)
          | some m =>
            let s1 := { ((s.release w.gid w.g .system).spoil w) with mgmt := m }
            .error (.wait .svc (s1.updGroup w.gid (fun g =>
              { g with sent := g.sent ++ [⟨w.fid, g.hm, w.f.pc, s.mgmt.nextRec, none⟩] }))))

end Sys2Proof.Machine
end

