-- ==== Sys2Proof/Machine/Dispatch.lean ====
section
/-! DEFINITION. One arm for each constructor of `Instr`. -/

namespace Sys2Proof.Machine

open Sys2Proof

def exec (i : Instr) (s : State) : Host.Outcome State Fault Refusal :=
  match i with
  | .nop => Sys2Proof.Machine.execNop s
  | .bra x => Sys2Proof.Machine.execBra x s
  | .brc fn x => Sys2Proof.Machine.execBrc fn x s
  | .brs fn x => Sys2Proof.Machine.execBrs fn x s
  | .regang x => Sys2Proof.Machine.execRegang x s
  | .mskip x => Sys2Proof.Machine.execMskip x s
  | .call x => Sys2Proof.Machine.execCall x s
  | .ret x => Sys2Proof.Machine.execRet x s
  | .jmpi x => Sys2Proof.Machine.execJmpi x s
  | .djnz x => Sys2Proof.Machine.execDjnz x s
  | .exit x => Sys2Proof.Machine.execExit x s
  | .yield x => Sys2Proof.Machine.execYield x s
  | .sadd fn x => Sys2Proof.Machine.execSadd fn x s
  | .ssub fn x => Sys2Proof.Machine.execSsub fn x s
  | .smul x => Sys2Proof.Machine.execSmul x s
  | .smulh fn x => Sys2Proof.Machine.execSmulh fn x s
  | .sand fn x => Sys2Proof.Machine.execSand fn x s
  | .sor fn x => Sys2Proof.Machine.execSor fn x s
  | .sxor fn x => Sys2Proof.Machine.execSxor fn x s
  | .sshl fn x => Sys2Proof.Machine.execSshl fn x s
  | .sshr fn x => Sys2Proof.Machine.execSshr fn x s
  | .scmp fn x => Sys2Proof.Machine.execScmp fn x s
  | .ssel x => Sys2Proof.Machine.execSsel x s
  | .smov fn x => Sys2Proof.Machine.execSmov fn x s
  | .spopc fn x => Sys2Proof.Machine.execSpopc fn x s
  | .sffs fn x => Sys2Proof.Machine.execSffs fn x s
  | .sminmax fn x => Sys2Proof.Machine.execSminmax fn x s
  | .sbit fn x => Sys2Proof.Machine.execSbit fn x s
  | .vadd fn x => Sys2Proof.Machine.execVadd fn x s
  | .vsub fn x => Sys2Proof.Machine.execVsub fn x s
  | .vmul x => Sys2Proof.Machine.execVmul x s
  | .vmulh fn x => Sys2Proof.Machine.execVmulh fn x s
  | .vmad x => Sys2Proof.Machine.execVmad x s
  | .vand fn x => Sys2Proof.Machine.execVand fn x s
  | .vor fn x => Sys2Proof.Machine.execVor fn x s
  | .vxor fn x => Sys2Proof.Machine.execVxor fn x s
  | .vshl fn x => Sys2Proof.Machine.execVshl fn x s
  | .vshr fn x => Sys2Proof.Machine.execVshr fn x s
  | .vmin fn x => Sys2Proof.Machine.execVmin fn x s
  | .vmax fn x => Sys2Proof.Machine.execVmax fn x s
  | .vabs fn x => Sys2Proof.Machine.execVabs fn x s
  | .vclz x => Sys2Proof.Machine.execVclz x s
  | .vpopc x => Sys2Proof.Machine.execVpopc x s
  | .vbfx fn x => Sys2Proof.Machine.execVbfx fn x s
  | .vmov x => Sys2Proof.Machine.execVmov x s
  | .vcmp fn x => Sys2Proof.Machine.execVcmp fn x s
  | .vfcmp fn x => Sys2Proof.Machine.execVfcmp fn x s
  | .vsel x => Sys2Proof.Machine.execVsel x s
  | .vbcast fn x => Sys2Proof.Machine.execVbcast fn x s
  | .vshfl fn x => Sys2Proof.Machine.execVshfl fn x s
  | .vred fn x => Sys2Proof.Machine.execVred fn x s
  | .vext fn x => Sys2Proof.Machine.execVext fn x s
  | .vfadd fn x => Sys2Proof.Machine.execVfadd fn x s
  | .vfsub fn x => Sys2Proof.Machine.execVfsub fn x s
  | .vfmul fn x => Sys2Proof.Machine.execVfmul fn x s
  | .vfma fn x => Sys2Proof.Machine.execVfma fn x s
  | .vfnma fn x => Sys2Proof.Machine.execVfnma fn x s
  | .vfmin fn x => Sys2Proof.Machine.execVfmin fn x s
  | .vfmax fn x => Sys2Proof.Machine.execVfmax fn x s
  | .vfsgn fn x => Sys2Proof.Machine.execVfsgn fn x s
  | .vfrsqe x => Sys2Proof.Machine.execVfrsqe x s
  | .vfrcpe x => Sys2Proof.Machine.execVfrcpe x s
  | .vfex2e x => Sys2Proof.Machine.execVfex2e x s
  | .vflg2e x => Sys2Proof.Machine.execVflg2e x s
  | .vfscl fn x => Sys2Proof.Machine.execVfscl fn x s
  | .vfxp fn x => Sys2Proof.Machine.execVfxp fn x s
  | .vfcls x => Sys2Proof.Machine.execVfcls x s
  | .vfrnd fn x => Sys2Proof.Machine.execVfrnd fn x s
  | .vcvt fn x => Sys2Proof.Machine.execVcvt fn x s
  | .vpack fn x => Sys2Proof.Machine.execVpack fn x s
  | .vunpk fn x => Sys2Proof.Machine.execVunpk fn x s
  | .vhfma fn x => Sys2Proof.Machine.execVhfma fn x s
  | .vdot4 fn x => Sys2Proof.Machine.execVdot4 fn x s
  | .vtsel x => Sys2Proof.Machine.execVtsel x s
  | .qscale fn x => Sys2Proof.Machine.execQscale fn x s
  | .qcvt fn x => Sys2Proof.Machine.execQcvt fn x s
  | .setfmt fn x => Sys2Proof.Machine.execSetfmt fn x s
  | .getfmt fn x => Sys2Proof.Machine.execGetfmt fn x s
  | .ld w x => Sys2Proof.Machine.execLd w x s
  | .st w x => Sys2Proof.Machine.execSt w x s
  | .ldu w x => Sys2Proof.Machine.execLdu w x s
  | .lds w x => Sys2Proof.Machine.execLds w x s
  | .sts w x => Sys2Proof.Machine.execSts w x s
  | .pref fn x => Sys2Proof.Machine.execPref fn x s
  | .lea x => Sys2Proof.Machine.execLea x s
  | .atom fn x => Sys2Proof.Machine.execAtom fn x s
  | .xchg x => Sys2Proof.Machine.execXchg x s
  | .cas x => Sys2Proof.Machine.execCas x s
  | .red fn x => Sys2Proof.Machine.execRed fn x s
  | .satom fn x => Sys2Proof.Machine.execSatom fn x s
  | .cpy x => Sys2Proof.Machine.execCpy x s
  | .cpy2d x => Sys2Proof.Machine.execCpy2d x s
  | .batch x => Sys2Proof.Machine.execBatch x s
  | .waitb x => Sys2Proof.Machine.execWaitb x s
  | .waitbTest x => Sys2Proof.Machine.execWaitbTest x s
  | .gth fn x => Sys2Proof.Machine.execGth fn x s
  | .sct fn x => Sys2Proof.Machine.execSct fn x s
  | .coll fn x => Sys2Proof.Machine.execColl fn x s
  | .rpush fn x => Sys2Proof.Machine.execRpush fn x s
  | .rpop fn x => Sys2Proof.Machine.execRpop fn x s
  | .mxloop x => Sys2Proof.Machine.execMxloop x s
  | .mxstep x => Sys2Proof.Machine.execMxstep x s
  | .mxzero fn x => Sys2Proof.Machine.execMxzero fn x s
  | .mxld fn x => Sys2Proof.Machine.execMxld fn x s
  | .mxst fn x => Sys2Proof.Machine.execMxst fn x s
  | .mxprogRd x => Sys2Proof.Machine.execMxprogRd x s
  | .mxprogWr x => Sys2Proof.Machine.execMxprogWr x s
  | .mxepi fn x => Sys2Proof.Machine.execMxepi fn x s
  | .fence fn x => Sys2Proof.Machine.execFence fn x s
  | .bar x => Sys2Proof.Machine.execBar x s
  | .bara x => Sys2Proof.Machine.execBara x s
  | .barw x => Sys2Proof.Machine.execBarw x s
  | .waitc fn x => Sys2Proof.Machine.execWaitc fn x s
  | .cmaint op lvl x => Sys2Proof.Machine.execCmaint op lvl x s
  | .mwait fn x => Sys2Proof.Machine.execMwait fn x s
  | .enq fn x => Sys2Proof.Machine.execEnq fn x s
  | .trig x => Sys2Proof.Machine.execTrig x s
  | .join fn x => Sys2Proof.Machine.execJoin fn x s
  | .grow fn x => Sys2Proof.Machine.execGrow fn x s
  | .shrink x => Sys2Proof.Machine.execShrink x s
  | .tryOpen x => Sys2Proof.Machine.execTryOpen x s
  | .commit x => Sys2Proof.Machine.execCommit x s
  | .abort x => Sys2Proof.Machine.execAbort x s
  | .qctlCnt x => Sys2Proof.Machine.execQctlCnt x s
  | .qctlRst x => Sys2Proof.Machine.execQctlRst x s
  | .bid cls x => Sys2Proof.Machine.execBid cls x s
  | .bidrd cls x => Sys2Proof.Machine.execBidrd cls x s
  | .lease cls x => Sys2Proof.Machine.execLease cls x s
  | .mighintOn x => Sys2Proof.Machine.execMighintOn x s
  | .mighintOff x => Sys2Proof.Machine.execMighintOff x s
  | .trap x => Sys2Proof.Machine.execTrap x s
  | .idemOn x => Sys2Proof.Machine.execIdemOn x s
  | .idemOff x => Sys2Proof.Machine.execIdemOff x s
  | .hret x => Sys2Proof.Machine.execHret x s
  | .ctlr x => Sys2Proof.Machine.execCtlr x s
  | .ctlw fn x => Sys2Proof.Machine.execCtlw fn x s
  | .bkpt x => Sys2Proof.Machine.execBkpt x s
  | .svc x => Sys2Proof.Machine.execSvc x s
  | .fetchCheckFail g f => Sys2Proof.Machine.execFetchCheckFail g f s
  | .conflict g => Sys2Proof.Machine.execConflict g s
  | .queueWaitComplete g f => Sys2Proof.Machine.execQueueWaitComplete g f s
  | .queueDeadlock g => Sys2Proof.Machine.execQueueDeadlock g s
  | .regangJoin g rec => Sys2Proof.Machine.execRegangJoin g rec s
  | .parkedSlicesResume g f => Sys2Proof.Machine.execParkedSlicesResume g f s
  | .barrierPhaseComplete team bar => Sys2Proof.Machine.execBarrierPhaseComplete team bar s
  | .barrierDeadlock team => Sys2Proof.Machine.execBarrierDeadlock team s
  | .growGrant core octet => Sys2Proof.Machine.execGrowGrant core octet s
  | .yieldEnd g f => Sys2Proof.Machine.execYieldEnd g f s
  | .mwaitWake g f => Sys2Proof.Machine.execMwaitWake g f s
  | .mwaitTimeout g f => Sys2Proof.Machine.execMwaitTimeout g f s
  | .waitcSatisfied g f => Sys2Proof.Machine.execWaitcSatisfied g f s
  | .joinWake g f => Sys2Proof.Machine.execJoinWake g f s
  | .groupLeavesCore g => Sys2Proof.Machine.execGroupLeavesCore g s
  | .fragmentUrgent g f => Sys2Proof.Machine.execFragmentUrgent g f s
  | .issueStart core side => Sys2Proof.Machine.execIssueStart core side s
  | .sideLogReplay core => Sys2Proof.Machine.execSideLogReplay core s
  | .heldAccessResume op => Sys2Proof.Machine.execHeldAccessResume op s
  | .l1WritebackTimeout core line => Sys2Proof.Machine.execL1WritebackTimeout core line s
  | .l1CleanCopyExpiry core line => Sys2Proof.Machine.execL1CleanCopyExpiry core line s
  | .copyBatchComplete g batch => Sys2Proof.Machine.execCopyBatchComplete g batch s
  | .reductionGenerationComplete cluster task dest => Sys2Proof.Machine.execReductionGenerationComplete cluster task dest s
  | .networkEntryPerformed g => Sys2Proof.Machine.execNetworkEntryPerformed g s
  | .gatherComplete g => Sys2Proof.Machine.execGatherComplete g s
  | .collGenerationComplete coll => Sys2Proof.Machine.execCollGenerationComplete coll s
  | .ringWaitWake g f => Sys2Proof.Machine.execRingWaitWake g f s
  | .engineOperationRefused g op code addr => Sys2Proof.Machine.execEngineOperationRefused g op code addr s
  | .matrixFormComplete g => Sys2Proof.Machine.execMatrixFormComplete g s
  | .dependenceMet task k => Sys2Proof.Machine.execDependenceMet task k s
  | .placementRound ctx => Sys2Proof.Machine.execPlacementRound ctx s
  | .candidateAged ctx cand => Sys2Proof.Machine.execCandidateAged ctx cand s
  | .candidateNoRegion ctx cand => Sys2Proof.Machine.execCandidateNoRegion ctx cand s
  | .teamSwapOut team => Sys2Proof.Machine.execTeamSwapOut team s
  | .teamSwapIn team => Sys2Proof.Machine.execTeamSwapIn team s
  | .triggerPoint task => Sys2Proof.Machine.execTriggerPoint task s
  | .edgeFlushEnd edge => Sys2Proof.Machine.execEdgeFlushEnd edge s
  | .commandComplete cmd => Sys2Proof.Machine.execCommandComplete cmd s
  | .pktNop vq => Sys2Proof.Machine.execPktNop vq s
  | .pktLaunch vq => Sys2Proof.Machine.execPktLaunch vq s
  | .pktWaitctr vq => Sys2Proof.Machine.execPktWaitctr vq s
  | .pktStore64 vq => Sys2Proof.Machine.execPktStore64 vq s
  | .pktAdd64 vq => Sys2Proof.Machine.execPktAdd64 vq s
  | .pktDrain vq => Sys2Proof.Machine.execPktDrain vq s
  | .queueMap vq => Sys2Proof.Machine.execQueueMap vq s
  | .queueUnmap vq => Sys2Proof.Machine.execQueueUnmap vq s
  | .queueTimesliceExpiry vq => Sys2Proof.Machine.execQueueTimesliceExpiry vq s
  | .doorbell fr vq seq tail => Sys2Proof.Machine.execDoorbell fr vq seq tail s
  | .regrd fr vi seq off => Sys2Proof.Machine.execRegrd fr vi seq off s
  | .regwr fr vi seq off val => Sys2Proof.Machine.execRegwr fr vi seq off val s
  | .qcbWrite fr vi seq q val => Sys2Proof.Machine.execQcbWrite fr vi seq q val s
  | .qcmdEnable fr vi seq q => Sys2Proof.Machine.execQcmdEnable fr vi seq q s
  | .qcmdDisable fr vi seq q => Sys2Proof.Machine.execQcmdDisable fr vi seq q s
  | .qcmdClearStop fr vi seq q => Sys2Proof.Machine.execQcmdClearStop fr vi seq q s
  | .rdmaWrite peer addr data => Sys2Proof.Machine.execRdmaWrite peer addr data s
  | .rdmaRead peer addr n => Sys2Proof.Machine.execRdmaRead peer addr n s
  | .rdmaAtomicRefused peer addr => Sys2Proof.Machine.execRdmaAtomicRefused peer addr s
  | .gatedDomainWake dom => Sys2Proof.Machine.execGatedDomainWake dom s
  | .priceTableReceive pkg ival prices unsold => Sys2Proof.Machine.execPriceTableReceive pkg ival prices unsold s
  | .contextMigrate ctx => Sys2Proof.Machine.execContextMigrate ctx s
  | .migrationAccept about news => Sys2Proof.Machine.execMigrationAccept about news s
  | .pageMoveStart page far die frame => Sys2Proof.Machine.execPageMoveStart page far die frame s
  | .pageMoveComplete page => Sys2Proof.Machine.execPageMoveComplete page s
  | .pageEviction die => Sys2Proof.Machine.execPageEviction die s
  | .farAccessPromotion page => Sys2Proof.Machine.execFarAccessPromotion page s
  | .channelRetire die stack chan => Sys2Proof.Machine.execChannelRetire die stack chan s
  | .channelRebuildComplete die stack chan => Sys2Proof.Machine.execChannelRebuildComplete die stack chan s
  | .scrubVisit line res => Sys2Proof.Machine.execScrubVisit line res s
  | .sliceRetire die slice readable => Sys2Proof.Machine.execSliceRetire die slice readable s
  | .linkFailure die router port => Sys2Proof.Machine.execLinkFailure die router port s
  | .packetDrop loss => Sys2Proof.Machine.execPacketDrop loss s
  | .packetResend op => Sys2Proof.Machine.execPacketResend op s
  | .destinationGivenUp pkg => Sys2Proof.Machine.execDestinationGivenUp pkg s
  | .lateTransitionReplay core pipe => Sys2Proof.Machine.execLateTransitionReplay core pipe s
  | .pipeRetire core pipe => Sys2Proof.Machine.execPipeRetire core pipe s
  | .idemRestart g e => Sys2Proof.Machine.execIdemRestart g e s
  | .restartLimitMove g e => Sys2Proof.Machine.execRestartLimitMove g e s
  | .coreTestComplete core pass => Sys2Proof.Machine.execCoreTestComplete core pass s
  | .preemptDrain team => Sys2Proof.Machine.execPreemptDrain team s
  | .drainTimeout team => Sys2Proof.Machine.execDrainTimeout team s
  | .preemptFlushRestart team => Sys2Proof.Machine.execPreemptFlushRestart team s
  | .preemptSave team why => Sys2Proof.Machine.execPreemptSave team why s
  | .contextRestore team => Sys2Proof.Machine.execContextRestore team s
  | .mread msg obj off len => Sys2Proof.Machine.execMread msg obj off len s
  | .mwrite msg obj off data => Sys2Proof.Machine.execMwrite msg obj off data s
  | .applyStagedPlan msg die => Sys2Proof.Machine.execApplyStagedPlan msg die s
  | .invalidateTranslations msg ctx stage base len => Sys2Proof.Machine.execInvalidateTranslations msg ctx stage base len s
  | .resolveRetry msg id => Sys2Proof.Machine.execResolveRetry msg id s
  | .resolveRefuse msg id => Sys2Proof.Machine.execResolveRefuse msg id s
  | .resolveDone msg id => Sys2Proof.Machine.execResolveDone msg id s
  | .resolveAcknowledge msg id => Sys2Proof.Machine.execResolveAcknowledge msg id s
  | .preemptTeam msg ctx die cluster core slot => Sys2Proof.Machine.execPreemptTeam msg ctx die cluster core slot s
  | .resumeStoppedGroup msg ctx die cluster core slot => Sys2Proof.Machine.execResumeStoppedGroup msg ctx die cluster core slot s
  | .endStoppedGroup msg ctx die cluster core slot => Sys2Proof.Machine.execEndStoppedGroup msg ctx die cluster core slot s
  | .verifyFirmware msg => Sys2Proof.Machine.execVerifyFirmware msg s
  | .attestationReport msg vi nonce => Sys2Proof.Machine.execAttestationReport msg vi nonce s
  | .packageReset msg => Sys2Proof.Machine.execPackageReset msg s
  | .longLatencyRetirement op => Sys2Proof.Machine.execLongLatencyRetirement op s
  | .powerGating dom => Sys2Proof.Machine.execPowerGating dom s
  | .thermalGateRelease level => Sys2Proof.Machine.execThermalGateRelease level s
  | .hostRdmaHoldExpiry id => Sys2Proof.Machine.execHostRdmaHoldExpiry id s
  | .lateFault => Sys2Proof.Machine.execLateFault s
  | .cpPass => Sys2Proof.Machine.execCpPass s
  | .cpFirmwareReload => Sys2Proof.Machine.execCpFirmwareReload s
  | .intervalStart => Sys2Proof.Machine.execIntervalStart s
  | .bidSnapshot => Sys2Proof.Machine.execBidSnapshot s
  | .pricePublication => Sys2Proof.Machine.execPricePublication s
  | .releaseWindow => Sys2Proof.Machine.execReleaseWindow s
  | .powerOnReset => Sys2Proof.Machine.execPowerOnReset s
  | .thermalGateHalf => Sys2Proof.Machine.execThermalGateHalf s
  | .thermalGateSevenEighths => Sys2Proof.Machine.execThermalGateSevenEighths s
  | .thermalShutdown => Sys2Proof.Machine.execThermalShutdown s

end Sys2Proof.Machine
end

