-- ==== Sys2Proof/Machine/Step.lean ====
section
/-! DEFINITION. One step of the machine, and the laying of a word where the next step fetches it. -/

namespace Sys2Proof.Machine

open Sys2Proof

/-- One step: the chosen fragment's instruction, else what is owed, else an input, else what the machine chooses. -/
def step (s : State) : Host.Outcome State Fault Refusal :=
  match s.pick with
  | .run i t => exec i t
  | .stay t => .next t

/-- The state with an instruction of `nbits` bits laid where `step` fetches next. -/
def State.withFetchWord (s : State) (_nbits w : Nat) : State := s.placeWord (BitVec.ofNat 96 w)

end Sys2Proof.Machine
end

