-- ==== Sys2Proof/Safety.lean ====
section
/-! DEFINITION. The words in which claims are made: a safe run, the canonical form of every memory, who issues, what a
completed form leaves behind, and the integer forms' results by exact arithmetic. -/

namespace Sys2Proof

open Sys2Proof.Machine

/-- Every memory of the package has its canonical form. -/
def memsOk (s : State) : Bool :=
  s.mem.sys.wf && s.mem.priv.all (fun e => e.2.wf) && s.mem.backing.all (fun e => e.2.wf) &&
    s.clusters.all (fun e => e.2.sram.all (fun x => x.2.wf)) && s.dies.all (fun e => e.2.banks.all (fun x => x.2.wf)) &&
    s.tasks.all (fun e => e.2.images.all (fun x => x.2.wf))

/-- The trap queue holds no more than its entries: 0 to 503 for every kind of record, 504 to 511 for fatal ones (R450). -/
def trapsOk (s : State) : Bool := s.mgmt.traps.length ≤ 504 && s.mgmt.fatals.length ≤ 8

/-- n steps from a state all answer next states. -/
def runsFor : Nat → State → Prop
  | 0, _ => True
  | n + 1, s => ∃ t, step s = .next t ∧ runsFor n t

/-! ### Who issues, and what completes -/

/-- `w` is the fragment that ISSUE_START chose, with its group, as they stand in `s` (R309). -/
def Issues (s : State) (w : Who) : Prop := s.cur = some ⟨w.gid, w.fid⟩ ∧ s.who? w.gid w.fid = some w

/-- The operands and consumers of a form pass every check that comes before its result, and nothing that it pops, pushes or
feeds makes it wait (R35, R70, R107, R166, R167, R257-R260). What this means is stated by `Obligations.ChecksPass`. -/
def Passes (s : State) (w : Who) (x : Shape) : Prop := s.pre w x = .ok ()

/-- What a form with a scalar result brings to the checks. -/
def scalShape (x : Args) : Shape := ⟨x.cm, x.d, x.imm, [], 0⟩

/-- What a vector form with these source fields brings to the checks. -/
def vecShape (w : Who) (x : Args) (srcs : List Operand) : Shape := ⟨x.cm, x.d, x.imm, queuesIn srcs, w.active x.msk⟩

/-- The form completes in `t`: its issue slot is used up and the machine goes on. -/
def doneIn (t : State) : Host.Outcome State Fault Refusal := .next t.endIssue

/-- The form raises a precise cause at its own address (R17, R437). -/
def trapsIn (s : State) (w : Who) (code : Nat) (tval : Option W64) : Host.Outcome State Fault Refusal :=
  .next (s.raisePrecise w code tval w.f.pc.addr).endIssue

/-- A scalar form completes with the result v. -/
def scalarDone (s : State) (w : Who) (x : Args) (v : W64) : Host.Outcome State Fault Refusal :=
  doneIn ((s.putScalar w (scalShape x) v).advance w)

/-- A vector form completes with a value and the flags of each lane (R110, R372): no enabled flag is raised. -/
def lanesDone (s : State) (w : Who) (x : Args) (srcs : List Operand) (val : Nat → W32) (fl : Nat → FlagSet) :
    Host.Outcome State Fault Refusal :=
  doneIn (((s.putLanes w (vecShape w x srcs) val).raiseFlags w (orFlags (w.active x.msk) fl)).advance w)

/-- A lane form completes with one scalar result and the flags of each lane. -/
def laneScalarDone (s : State) (w : Who) (x : Args) (srcs : List Operand) (v : W64) (fl : Nat → FlagSet) :
    Host.Outcome State Fault Refusal :=
  doneIn (((s.putScalar w (vecShape w x srcs) v).raiseFlags w (orFlags (w.active x.msk) fl)).advance w)

/-- The flags that the active lanes raise are not enabled in fmt (R372). -/
def NoEnabledFlag (w : Who) (x : Args) (fl : Nat → FlagSet) : Prop :=
  orFlags (w.active x.msk) fl &&& fmtEnables w.f.fmt = 0

/-- A transfer of `w` to the byte address `a` lands at `pc`: the address is a slot of a line of the global window, and its line
is read, passes its check and marks the slot as a target (R20, R24). -/
def Lands (s : State) (w : Who) (a : W64) (pc : Pc) : Prop :=
  Pc.ofAddr a = some pc ∧ lineOk pc.line = true ∧
    ∃ line, s.fetchLine w.g.ctx w.g.core pc.line = .ok line ∧ lineCheckOk line = true ∧
      (lineWord line).target.getLsbD pc.slot = true

/-! ### What stays -/

/-- A byte of the registers of a group. -/
def isRegOf (gid : Nat) : Loc → Bool
  | .vreg g _ _ _ => g == gid
  | .sreg g _ _ => g == gid
  | _ => false

/-- Every byte outside `out` reads for every core as it did. -/
def SameBytes (s t : State) (out : Loc → Bool) : Prop := ∀ core x, out x = false → t.readLoc core x = s.readLoc core x

/-- The parts of the package that no operate form writes: tasks, commands, edges, contexts, queues, market, tiles. -/
def SameDevice (s t : State) : Prop :=
  t.tasks = s.tasks ∧ t.cmds = s.cmds ∧ t.edges = s.edges ∧ t.ctxs = s.ctxs ∧ t.market = s.market ∧ t.fe = s.fe ∧
    t.halves = s.halves ∧ t.dies = s.dies ∧ t.colls = s.colls

/-- The special, exception, engine and queue state of a group. -/
def SameSpecial (g h : Group) : Prop :=
  h.queues = g.queues ∧ h.hm = g.hm ∧ h.code = g.code ∧ h.cause = g.cause ∧ h.epc = g.epc ∧ h.tval = g.tval ∧
    h.idemPc = g.idemPc ∧ h.trtab = g.trtab ∧ h.shadow = g.shadow ∧ h.eng = g.eng ∧ h.blocks = g.blocks

/-- The fragment has gone on to `pc` with its slices and records, `fmt` changed by `upd`; the other fragments of its group are
as they were (R20, R192). -/
def WentOn (w : Who) (pc : Pc) (upd : W32 → W32) (h : Group) : Prop :=
  h.frags = w.g.frags.map (fun f => if f.id == w.fid then
      { f.arrive pc with fmt := upd f.fmt, status := .ready, age := 0, byTransfer := false, begun := false, crcTries := 0,
                         landTries := 0, retiredHere := f.retiredHere + 1, waitFrom := none } else f)

/-- The operate forms: scalar, vector, lane, FP32 and narrow forms, and those that only read a register of the machine. -/
def isOperate : Instr → Bool
  | .sadd _ _ | .ssub _ _ | .smul _ | .smulh _ _ | .sand _ _ | .sor _ _ | .sxor _ _ | .sshl _ _ | .sshr _ _ => true
  | .scmp _ _ | .ssel _ | .smov _ _ | .spopc _ _ | .sffs _ _ | .sminmax _ _ | .sbit _ _ => true
  | .vadd _ _ | .vsub _ _ | .vmul _ | .vmulh _ _ | .vmad _ | .vand _ _ | .vor _ _ | .vxor _ _ | .vshl _ _ => true
  | .vshr _ _ | .vmin _ _ | .vmax _ _ | .vabs _ _ | .vclz _ | .vpopc _ | .vbfx _ _ | .vmov _ | .vsel _ => true
  | .vcmp _ _ | .vfcmp _ _ | .vbcast _ _ | .vshfl _ _ | .vred _ _ | .vext _ _ => true
  | .vfadd _ _ | .vfsub _ _ | .vfmul _ _ | .vfma _ _ | .vfnma _ _ | .vfmin _ _ | .vfmax _ _ | .vfsgn _ _ => true
  | .vfrsqe _ | .vfrcpe _ | .vfex2e _ | .vflg2e _ | .vfscl _ _ | .vfxp _ _ | .vfcls _ | .vfrnd _ _ => true
  | .vcvt _ _ | .vpack _ _ | .vunpk _ _ | .vhfma _ _ | .vdot4 _ _ | .vtsel _ | .setfmt _ _ | .getfmt _ _ => true
  | .mxprogRd _ | .ctlr _ | .bidrd _ _ | .lease _ _ | .qctlCnt _ => true
  | _ => false

/-! ### Accesses -/

/-- What an access form brings to the checks of operands and consumers. -/
def accShape (w : Who) (x : MArgs) (a : AccForm) : Shape :=
  ⟨x.cm, x.d, 0, queuesIn [x.b], if a.scalar then 0 else w.active x.msk⟩

/-- An access form may go ahead: no region is open, its operands and every lane's address pass their checks (R122, R124,
R142), a load/store unit and an operand-log entry are free (R134, R137), nothing earlier of the group must come first (R131,
R135), a register window waits for no pending register (R69, R164), and a first access after a join for no store of the joined
paths (R191). -/
def AccessReady (s : State) (w : Who) (i : Instr) (x : MArgs) (a : AccForm) : Prop :=
  w.g.tryR = none ∧ w.wideUnprotected i x = false ∧ Passes s w (accShape w x a) ∧
    s.checkLanes w.gid w.g a.kind (s.lanesOf w i x a.scalar) = .ok () ∧
    s.heldUnits w.g.core < 4 ∧ s.logged w.g.core < 48 ∧ orderedBehind s.ops w.gid w.g.who a (s.lanesOf w i x a.scalar) = false ∧
    s.windowWaits w a (s.lanesOf w i x a.scalar) = false ∧ (w.f.afterJoin = true → s.pathsPending w.gid = false)

/-- The access has LA 0, reaches a register window, pops a queue, or feeds a consumer other than its register: it is performed
at issue. An atomic with no active lane has nothing to log (log 129). -/
def atOnce (s : State) (w : Who) (i : Instr) (x : MArgs) (a : AccForm) : Bool :=
  x.la == 0 || !(queuesIn [x.b]).isEmpty || (s.lanesOf w i x a.scalar).any (fun y => apertureOf y.addr == .core) ||
    x.cm.queue || x.cm.mxq || x.cm.cpq || x.cm.red || x.cm.net ||
    ((match a.action with | .atomic _ => true | _ => false) && (s.lanesOf w i x a.scalar).isEmpty)

/-- Every line among these bytes has a copy in the core's L1. -/
def Held (s : State) (core : Nat) (l : List Loc) : Prop :=
  ∀ k ∈ linesOf l, ((s.cores.get core).bind (fun c => c.copy? k)).isSome = true

/-- A byte that exists: its group, cluster or die is there, and its number lies in its register. -/
def Exists (s : State) : Loc → Prop
  | .gva _ => False
  | .spa _ => True
  | .priv _ _ => True
  | .vreg g _ _ b => (s.groups.get g).isSome = true ∧ b < 4
  | .sreg g _ b => (s.groups.get g).isSome = true ∧ b < 8
  | .sram c _ _ => (s.clusters.get c).isSome = true
  | .bank d _ _ => (s.dies.get d).isSome = true

/-! ### Requests from outside -/

/-- A mapped queue has at HEAD a packet of this type with its payload, and every page that serving it touches is mapped (R264,
R286): its context, its entry, the record's bytes, the places of its header, and where its payload begins and lies. -/
def HeadPacket (s : State) (vq tag : Nat) (ctx : Nat) (q : Queue) (n : Nat) (hdr : List Loc) (body : Nat) (l : List Loc) : Prop :=
  s.cpRuns = true ∧ s.fe.queues.get vq = some q ∧ (∃ c, s.viCtx (vq / 64) = some (ctx, c)) ∧ q.serving = true ∧
    s.viewHead ctx q = .packet tag (payloadBytes tag) n hdr body ∧ s.feLocs ctx body (payloadBytes tag) .load = .ok l ∧
      ∃ s0, s.putQueue vq q = .ok s0

/-- A packet whose effect stands in `t` has been served: its record has been read, and HEAD goes past it (R264, R295, R376). -/
def passed (t : State) (vq ctx : Nat) (q : Queue) (n : Nat) (hdr : List Loc) (body : Nat) (l : List Loc) : State :=
  (t.feRead ctx (body - 4) (hdr ++ l)).passHead vq ctx q n hdr

/-- A request that reaches the package from the host bound to a VI, for the first time, and that has not waited (R288, R297). -/
def FromHost (s : State) (fr : Frame) (vi : Nat) (seq : W32) (id : Nat) (c : Ctx) : Prop :=
  s.viCtx vi = some (id, c) ∧ s.mode = .up ∧ c.takes fr = true ∧ s.fe.resuming = false ∧
    c.replies.find? (fun r => r.1 == seq) = none

/-- The reply of a host request is remembered and sent (R297). -/
def answered (s : State) (id vi : Nat) (seq stat : W32) (value : W64) : State :=
  (s.updCtx id (fun c => { c with replies := remember c.replies (seq, stat, value) })).send
    (Message.plain 4 vi seq stat value)

/-- A management request in the form that R472 gives it arrives and is answered for the first time. -/
def Managed (s : State) (msg : MgmtMsg) : Prop :=
  s.mode ≠ .bringUp ∧ s.accepts msg = true ∧ s.mgmt.replyTo msg.seq = none

/-- The reply of a management request is remembered and sent (R472). -/
def managed (t : State) (seq stat : W32) (data : List Byte) : State :=
  State.mreply { t with mgmt := { t.mgmt with mgmtReplies := remember t.mgmt.mgmtReplies (seq, stat, data) } } seq stat data

/-! ### Results by exact arithmetic (R84-R96) -/

/-- R84, R92. -/
def sumBy {n : Nat} (fn : SatFn) (sub : Bool) (a b : BitVec n) : BitVec n :=
  match fn with
  | .wrap => BitVec.ofInt n (if sub then a.toInt - b.toInt else a.toInt + b.toInt)
  | .ss => BitVec.ofInt n (max (-2 ^ (n - 1)) (min (2 ^ (n - 1) - 1) (if sub then a.toInt - b.toInt else a.toInt + b.toInt)))
  | .us => BitVec.ofInt n (max 0 (min (2 ^ n - 1) (if sub then (a.toNat : Int) - b.toNat else a.toNat + b.toNat)))

/-- R85, R93: the upper half of the product. -/
def highBy {n : Nat} (fn : SignFn) (a b : BitVec n) : BitVec n :=
  match fn with
  | .s => BitVec.ofInt n (a.toInt * b.toInt / 2 ^ n)
  | .u => BitVec.ofNat n (a.toNat * b.toNat / 2 ^ n)

/-- R86, R94: B, or its complement for .n. -/
def secondBy {n : Nat} (fn : LogicFn) (b : BitVec n) : BitVec n := match fn with | .plain => b | .n => ~~~b

/-- R87, R94: a left shift fills with zeros; a rotation brings the bits back in at the right. -/
def leftBy {n : Nat} (fn : ShlFn) (a : BitVec n) (k : Nat) : BitVec n :=
  match fn with
  | .logical => BitVec.ofNat n (a.toNat * 2 ^ k)
  | .rot => BitVec.ofNat n (a.toNat * 2 ^ k) ||| BitVec.ofNat n (a.toNat / 2 ^ (n - k))

/-- R87, R94: a right shift fills with zeros, or with the sign. -/
def rightBy {n : Nat} (fn : ShrFn) (a : BitVec n) (k : Nat) : BitVec n :=
  match fn with
  | .l => BitVec.ofNat n (a.toNat / 2 ^ k)
  | .a => BitVec.ofInt n (a.toInt / 2 ^ k)

/-- R88, R99. -/
def holdsBy {n : Nat} (fn : CmpFn) (a b : BitVec n) : Bool :=
  match fn with
  | .eq => decide (a.toNat = b.toNat)
  | .ne => decide (a.toNat ≠ b.toNat)
  | .lt => decide (a.toInt < b.toInt)
  | .le => decide (a.toInt ≤ b.toInt)
  | .gt => decide (b.toInt < a.toInt)
  | .ge => decide (b.toInt ≤ a.toInt)
  | .ltu => decide (a.toNat < b.toNat)
  | .leu => decide (a.toNat ≤ b.toNat)
  | .gtu => decide (b.toNat < a.toNat)
  | .geu => decide (b.toNat ≤ a.toNat)

/-- R90, R95: the lesser or greater. -/
def chosenBy {n : Nat} (fn : MinMaxFn) (a b : BitVec n) : BitVec n :=
  match fn with
  | .min => if a.toInt ≤ b.toInt then a else b
  | .max => if b.toInt ≤ a.toInt then a else b
  | .minu => if a.toNat ≤ b.toNat then a else b
  | .maxu => if b.toNat ≤ a.toNat then a else b

/-- R90, R95: how many of the k low bits are 1. -/
def onesBy {n : Nat} (a : BitVec n) (k : Nat) : Nat := ((List.range k).filter a.getLsbD).length

/-- R90: the index of the lowest or highest 1 bit, 64 where there is none. -/
def indexBy (fn : FfsFn) (a : W64) : Nat :=
  match fn with
  | .lo => ((List.range 64).find? a.getLsbD).getD 64
  | .hi => ((List.range 64).reverse.find? a.getLsbD).getD 64

/-- R95: a 32-bit value has k leading zeros. -/
def zerosBy (a : W32) : Nat := if a.toNat = 0 then 32 else 31 - Nat.log2 a.toNat

/-- R95. -/
def absBy (fn : AbsFn) (a : W32) : W32 :=
  match fn with
  | .wrap => BitVec.ofNat 32 a.toInt.natAbs
  | .ss => BitVec.ofNat 32 (min a.toInt.natAbs 0x7FFFFFFF)

/-- R89, with IMM as the upper half of .hi. -/
def movedBy (fn : MovFn) (x : Args) (a : W64) : W64 :=
  match fn with
  | .plain => a
  | .z32 => BitVec.ofNat 64 (if x.a = .imm then x.imm.toNat else a.toNat % 2 ^ 32)
  | .s32 => BitVec.ofInt 64 (a.setWidth 32).toInt
  | .hi => BitVec.ofNat 64 (x.imm.toNat * 2 ^ 32 + (if x.a = .imm then x.imm.toNat else a.toNat % 2 ^ 32))

/-- R90: bit k of A as 0 or 1, or A with bit k set, cleared or inverted. -/
def bitBy (fn : BitFn) (a : W64) (k : Nat) : W64 :=
  match fn with
  | .tst => BitVec.ofNat 64 (a.toNat / 2 ^ k % 2)
  | .set => a ||| BitVec.ofNat 64 (2 ^ k)
  | .clr => a &&& ~~~BitVec.ofNat 64 (2 ^ k)
  | .inv => a ^^^ BitVec.ofNat 64 (2 ^ k)

/-- R96: the bits of the field, clipped at bit 31. -/
def fieldBy (fn : BfxFn) (old a b c : W32) : W32 :=
  let p := b.toNat % 32
  let k := min (c.toNat % 64) (32 - p)
  let field := a.toNat / 2 ^ p % 2 ^ k
  match fn with
  | .zx => BitVec.ofNat 32 field
  | .sx => BitVec.ofInt 32 (if 0 < k ∧ field / 2 ^ (k - 1) = 1 then (field : Int) - 2 ^ k else field)
  | .ins => BitVec.ofNat 32 (old.toNat % 2 ^ p + a.toNat % 2 ^ k * 2 ^ p + old.toNat / 2 ^ (p + k) * 2 ^ (p + k))

/-! ### Results of floating-point forms, by exact arithmetic (R170-R172, R365) -/

/-- The value of a finite pattern of a format (R170, R365). -/
def patVal (f : FloatFmt) (x : Nat) : ℚ :=
  let mag := x % 2 ^ (f.width - 1)
  let ex := mag / 2 ^ f.frac
  let sig := mag % 2 ^ f.frac + (if ex = 0 then 0 else 2 ^ f.frac)
  let v : ℚ := (sig : ℚ) * 2 ^ ((max ex 1 : Nat) - (f.bias + f.frac : Nat) : Int)
  if x / 2 ^ (f.width - 1) % 2 = 1 then -v else v

/-- The pattern is that of a finite value. -/
def finPat (f : FloatFmt) (x : Nat) : Prop := x < 2 ^ f.width ∧ x % 2 ^ (f.width - 1) ≤ f.maxBits

/-- The finite pattern `r` is the exact value `q` rounded in a mode: no finite value of the format lies between them on the
mode's side, and of two as near the one with F[0] = 0 is taken (R171). -/
def RoundsTo (f : FloatFmt) (mode : RMode) (q : ℚ) (r : Nat) : Prop :=
  finPat f r ∧ ∀ y, finPat f y →
    match mode with
    | .rdn => patVal f r ≤ q ∧ (patVal f y ≤ q → patVal f y ≤ patVal f r)
    | .rup => q ≤ patVal f r ∧ (q ≤ patVal f y → patVal f r ≤ patVal f y)
    | .rtz => |patVal f r| ≤ |q| ∧ 0 ≤ q * patVal f r ∧ (|patVal f y| ≤ |q| → |patVal f y| ≤ |patVal f r|)
    | .rne => |patVal f r - q| < |patVal f y - q| ∨ patVal f y = patVal f r ∨
        (|patVal f r - q| = |patVal f y - q| ∧ r % 2 = 0)

/-- The FP32 result of an exact value too great for the format (R172). -/
def overflowBy (mode : RMode) (neg : Bool) : W32 :=
  match mode, neg with
  | .rne, false => 0x7F800000
  | .rne, true => 0xFF800000
  | .rtz, false => 0x7F7FFFFF
  | .rtz, true => 0xFF7FFFFF
  | .rdn, false => 0x7F7FFFFF
  | .rdn, true => 0xFF800000
  | .rup, false => 0x7F800000
  | .rup, true => 0xFF7FFFFF

/-- An FP32 result and its flags from an exact value, with flush off: rounded once, inexact where it differs, underflow where it
is tiny too; overflow from 2^128 on (R111, R171-R173). -/
def GivesF32 (mode : RMode) (q : ℚ) (r : W32 × FlagSet) : Prop :=
  (|q| ≤ patVal fp32 0x7F7FFFFF → RoundsTo fp32 mode q r.1.toNat ∧
    (patVal fp32 r.1.toNat = q → r.2 = 0) ∧
    (patVal fp32 r.1.toNat ≠ q → (2 ^ (-126 : Int) ≤ |q| → r.2 = flagNX) ∧ (|q| < 2 ^ (-127 : Int) → r.2 = flagUF ||| flagNX))) ∧
  (2 ^ (128 : Int) ≤ |q| → r = (overflowBy mode (decide (q < 0)), flagOF ||| flagNX))

/-- R101: VSHFL's source lane. -/
def sourceBy (fn : ShflFn) (l : Nat) (b : W32) : Nat :=
  match fn with
  | .idx => b.toNat % 32
  | .up => if l < b.toNat then l else l - b.toNat
  | .dn => if 31 < l + b.toNat then l else l + b.toNat
  | .xor => l ^^^ (b.toNat % 32)

end Sys2Proof
end

