-- ==== Sys2Proof/Certificates/Slice0/Obligations.lean ====
section
/-! DEFINITION. The statements for the provers, from the numbered rules of the spec. -/

open Sys2Proof Sys2Proof.Machine

/-! ### Reset and invariants -/

/-- R66, R161, R404, R405, R467: at reset nothing runs and no context exists, and the first step starts bring-up. A group
begins with its registers at zero, one fragment of every slice at its entry point, CR.IDEMPC there, IDEM as its launch record
says and every other control register of its own at 0; a context begins with its market and control registers at 0. -/
def Obligations.ResetState : Prop :=
  (State.reset.mode = .bringUp ∧ State.reset.ctxs = [] ∧ State.reset.tasks = [] ∧ State.reset.teams = [] ∧
    State.reset.groups = [] ∧ State.reset.fe.queues = [] ∧ State.reset.mem.sys = [] ∧ State.reset.cur = none ∧
    step State.reset = exec .powerOnReset State.reset) ∧
  (∀ b : Birth, let g := Group.fresh b
    (∀ n, g.s? n = 0) ∧ (∀ n l, g.lane n l = 0) ∧ g.frags = [Frag.first b.frag b.pc] ∧ (Frag.first b.frag b.pc).slices = 0xFF ∧
      (Frag.first b.frag b.pc).pc = b.pc ∧ (Frag.first b.frag b.pc).fmt = 0 ∧ g.idemPc = b.pc.addr ∧ g.idem = b.idem ∧
      g.hm = false ∧ g.code = 0 ∧ g.cause = 0 ∧ g.epc = 0 ∧ g.tval = 0 ∧ g.trtab = 0 ∧ g.tryR = none ∧ g.eng.cpq = 0 ∧
      g.eng.red = 0 ∧ g.eng.netAddr = 0) ∧
  (let c := Ctx.fresh
   c.purse = 0 ∧ c.refill = 0 ∧ c.spent = 0 ∧ c.trapvec = 0 ∧ c.relcnt = 0 ∧ c.mig = false ∧
     ∀ cls, c.bids.at_ cls = ⟨0, 0⟩)

/-- At reset, and once bring-up has ended, every memory has its canonical form and the trap queue is empty. -/
def Obligations.ResetMemoryForm : Prop :=
  memsOk State.reset = true ∧ trapsOk State.reset = true ∧
    ∃ t, step State.reset = .next t ∧ memsOk t = true ∧ trapsOk t = true ∧ t.mgmt.traps = []

/-- Every step keeps the canonical form of every memory: addresses rise, and no listed byte equals what an unlisted one reads
as. -/
def Obligations.StepKeepsMemories : Prop :=
  ∀ (s t : State), memsOk s = true → step s = .next t → memsOk t = true

/-- R450: every step keeps the trap queue within its 512 entries: 504 for every kind of record and eight more for fatal ones.
-/
def Obligations.StepKeepsTrapQueue : Prop :=
  ∀ (s t : State), trapsOk s = true → step s = .next t → trapsOk t = true

/-! ### Words and steps -/

/-- Words of ten families, their fields written out from R26-R47, decode to the instructions they stand for. -/
def Obligations.WordsDecode : Prop :=
  decode 0x090000004340_0000FFFFFFFB = .ok (.djnz ⟨.v 0, .s 13, -1, 3⟩) ∧
  decode 0x12000181_52FFE000_00000060 =
    .ok (.smul ⟨0, 0, ⟨true, false, false, false, false, false⟩, .s 2, .sp .team, .imm, .v 0, 0x60⟩) ∧
  decode 0x320001850_27FE0022F800000 =
    .ok (.vfcmp .lt ⟨0, 0, ⟨true, false, false, false, false, false⟩, .s 10, .v 9, .imm, .v 0, 0x2F800000⟩) ∧
  decode 0x4300_0302_8080_6050_0000_0001 =
    .ok (.vfma .fmt ⟨0, 0, ⟨true, true, false, false, false, false⟩, .v 5, .v 2, .v 3, .v 5, 1⟩) ∧
  decode 0x58000000000000010004_5243 = .ok (.setfmt .i ⟨0, 0, Consumers.none, .v 0, .v 0, .v 0, .v 0, 0x45243⟩) ∧
  decode 0x6100_0000_0080_D205_0000_0010 =
    .ok (.st .b64 ⟨0, 0, Consumers.none, .v 0, .v 2, .v 6, ⟨.device, .release, .normal, false, false⟩, 16⟩) ∧
  decode 0x80000000_4120B060_00000000 =
    .ok (.cpy ⟨0, 0, Consumers.none, .v 0, .s 4, .s 5, .s 6, 0⟩) ∧
  decode 0x9030000041_20B06000010002 = .ok (.mxloop ⟨3, 0, Consumers.none, .v 0, .s 4, .s 5, .s 6, 0x10002⟩) ∧
  decode 0xD00000004221200100000000 = .ok (.bid .bank ⟨0, 0, Consumers.none, .v 0, .s 8, .s 9, .v 0, 0⟩) ∧
  decode 0xE2000000_00000000_00000000 = .ok (.hret ⟨0, 0, Consumers.none, .v 0, .v 0, .v 0, .v 0, 0⟩)

/-- No bit of an encoding is dropped: a well-formed instruction form decodes from its own word. -/
def Obligations.EncodedFormsDecode : Prop :=
  ∀ i : Instr, Instr.wf i = true → (Instr.opFn i).isSome = true → decode (encode i) = .ok i

/-- Each word has one meaning: what decodes is well-formed, and its encoding is the word. -/
def Obligations.DecodedFormsEncode : Prop :=
  ∀ (w : InsnWord) (i : Instr), decode w = .ok i → Instr.wf i = true ∧ encode i = w

/-- A step runs the decoded instruction: where the chosen fragment's line is read and passes its checks, its word decodes, and
the form is legal in its group, step is exec of that instruction. The line's good check first ends the count of its restarts
(R22), its page and its slices note the read, and the TLBs take its translation (R376, R383, R446): no group and no byte
changes by that, and of a core its TLB alone. -/
def Obligations.StepRunsDecoded : Prop :=
  ∀ (s : State) (w : Who) (line : List Byte) (i : Instr), Issues s w →
    s.fetchLine w.g.ctx w.g.core w.f.pc.line = .ok line → lineCheckOk line = true → (lineWord line).reserved = 0 →
    (w.f.byTransfer = true → (lineWord line).target.getLsbD w.f.pc.slot = true) →
    decode (lineSlot line w.f.pc.slot) = .ok i → Instr.roleOk i w.g = true → Instr.beyond i w.g = false →
    pairFails line w.f.pc.slot w.g i = false → (s.lineGood w).holds w i = false →
    step s = exec i (s.lineGood w) ∧ (w.f.crcTries = 0 → (s.lineGood w).groups = s.groups) ∧
      (s.lineGood w).mem.sys = s.mem.sys ∧ (s.lineGood w).mem.priv = s.mem.priv ∧
      ∀ k c, s.cores.get k = some c → ∃ tlb, (s.lineGood w).cores.get k = some { c with tlb := tlb }

/-- R19-R38, R440: the same step where a check fails: the cause that R36's order of checks puts first is raised and nothing
executes, that of an invalid pair last (R25). By the model's reading (log 38) a handler's entry is made at once where its line
has not come, and fails as an entry where the slot then is no target. -/
def Obligations.StepRefusesIllegal : Prop :=
  ∀ (s : State) (w : Who) (line : List Byte), Issues s w →
    s.fetchLine w.g.ctx w.g.core w.f.pc.line = .ok line → lineCheckOk line = true →
    let s' := s.lineGood w
    let marked := (lineWord line).target.getLsbD w.f.pc.slot
    (w.entering = true → marked = false → step s = .next (s'.entryFails w).endIssue) ∧
    ((w.entering = true → marked = true) →
      ((lineWord line).reserved ≠ 0 → step s = trapsIn s' w 0x02 (some w.f.pc.line)) ∧
      ((lineWord line).reserved = 0 → w.f.byTransfer = true → marked = false → step s = trapsIn s' w 0x03 (some w.f.pc.addr)) ∧
      ((lineWord line).reserved = 0 → (w.f.byTransfer = true → marked = true) →
        (∀ e, decode (lineSlot line w.f.pc.slot) = .error e → step s = trapsIn s' w e.cause none) ∧
        (∀ i, decode (lineSlot line w.f.pc.slot) = .ok i →
          (Instr.roleOk i w.g = false → step s = trapsIn s' w 0x0E none) ∧
          (Instr.roleOk i w.g = true → Instr.beyond i w.g = true → step s = trapsIn s' w 0x06 none) ∧
          (Instr.roleOk i w.g = true → Instr.beyond i w.g = false → pairFails line w.f.pc.slot w.g i = true →
            step s = trapsIn s' w 0x05 none))))

/-! ### Operate forms -/

/-- What `Passes` means, check by check: no open region with an engine consumer of copies, reductions or the network; no write
of a register that an open region leaves unprotected; no engine consumer that fails its own check; a partner, and the right
direction, for every pop and push; an entry in every active lane for a pop; and room for a push unless the partner is at its
EXIT. By the model's choice an unprotected D fails whatever the mask is (log 120), and an engine consumer that has no room
does not keep the form from its result: the consumer is owed its entry (log 32). -/
def Obligations.ChecksPass : Prop :=
  ∀ (s : State) (w : Who) (x : Shape),
    let pushes := match destQueue x.cm x.d x.imm with | some q => [q] | none => []
    Passes s w x ↔
      ((w.g.tryR.isSome → x.cm.cpq = false ∧ x.cm.red = false ∧ x.cm.net = false) ∧
       (x.cm.reg = true → ∀ n, x.d = .v n → w.g.unprotected n.toNat = false) ∧
       s.consumerFail w x.cm = none ∧
       (x.pops ≠ [] ∨ pushes ≠ [] → w.g.partner.isSome) ∧
       (∀ q ∈ x.pops, canPop w.g.access q = true ∧ s.canTake w x.act q = true) ∧
       (∀ q ∈ pushes, canPop w.g.access q = false ∧ (s.partnerAtExit w = true ∨ s.canGive w x.act q = true)))

/-- R84-R90: every scalar form completes with the value that exact arithmetic gives; none raises a cause of its own. -/
def Obligations.ScalarFormsComplete : Prop :=
  ∀ (s : State) (w : Who) (x : Args), Issues s w → Passes s w (scalShape x) →
    let a := s.srcS w x.imm x.a
    let b := s.srcS w x.imm x.b
    let k := b.toNat % 64
    (∀ fn, exec (.sadd fn x) s = scalarDone s w x (sumBy fn false a b)) ∧
    (∀ fn, exec (.ssub fn x) s = scalarDone s w x (sumBy fn true a b)) ∧
    exec (.smul x) s = scalarDone s w x (BitVec.ofNat 64 (a.toNat * b.toNat)) ∧
    (∀ fn, exec (.smulh fn x) s = scalarDone s w x (highBy fn a b)) ∧
    (∀ fn, exec (.sand fn x) s = scalarDone s w x (a &&& secondBy fn b)) ∧
    (∀ fn, exec (.sor fn x) s = scalarDone s w x (a ||| secondBy fn b)) ∧
    (∀ fn, exec (.sxor fn x) s = scalarDone s w x (a ^^^ secondBy fn b)) ∧
    (∀ fn, exec (.sshl fn x) s = scalarDone s w x (leftBy fn a k)) ∧
    (∀ fn, exec (.sshr fn x) s = scalarDone s w x (rightBy fn a k)) ∧
    (∀ fn, exec (.scmp fn x) s = scalarDone s w x (if holdsBy fn a b = true then 1 else 0)) ∧
    exec (.ssel x) s = scalarDone s w x (if s.srcS w x.imm x.c ≠ 0 then a else b) ∧
    (∀ fn, exec (.smov fn x) s = scalarDone s w x (movedBy fn x a)) ∧
    (∀ fn, exec (.spopc fn x) s =
      scalarDone s w x (BitVec.ofNat 64 (onesBy a (match fn with | .full => 64 | .w => 32)))) ∧
    (∀ fn, exec (.sffs fn x) s = scalarDone s w x (BitVec.ofNat 64 (indexBy fn a))) ∧
    (∀ fn, exec (.sminmax fn x) s = scalarDone s w x (chosenBy fn a b)) ∧
    (∀ fn, exec (.sbit fn x) s = scalarDone s w x (bitBy fn a k))

/-- R34, R66, R67: where a form with a scalar result completes and names no engine consumer, D's s register holds the value
and no other register changes; the fragment goes on to the next PC; no byte of memory, no flag, no special register, no other
group and nothing of the device changes. -/
def Obligations.ScalarResultFrame : Prop :=
  ∀ (s t : State) (w : Who) (x : Args) (v : W64), s.who? w.gid w.fid = some w → x.cm.mxq = false → x.cm.cpq = false →
    x.cm.red = false → x.cm.net = false → x.cm.queue = false → scalarDone s w x v = .next t →
    ∃ h, t.groups.get w.gid = some h ∧
      (∀ n : BitVec 6, h.s? n.toNat = if x.cm.reg = true ∧ x.d = .s n then v else w.g.s? n.toNat) ∧
      h.v = w.g.v ∧ SameSpecial w.g h ∧ h.idem = w.g.idem ∧ h.tryR = w.g.tryR ∧ WentOn w w.f.pc.next id h ∧
      (∀ k, k ≠ w.gid → t.groups.get k = s.groups.get k) ∧
      SameDevice s t ∧ t.mem = s.mem ∧ t.cores = s.cores ∧ t.clusters = s.clusters ∧ t.mgmt = s.mgmt ∧
      SameBytes s t (isRegOf w.gid)

/-- R92-R97, R100-R102: every vector integer form and every move completes, each active lane with the value that exact
arithmetic gives on the lane's own operands, or on those of its source lane; none raises a flag. -/
def Obligations.VectorFormsComplete : Prop :=
  ∀ (s : State) (w : Who) (x : Args), Issues s w →
    let a (l : Nat) := s.srcV w x.imm x.a l
    let b (l : Nat) := s.srcV w x.imm x.b l
    let c (l : Nat) := s.srcV w x.imm x.c l
    let old (l : Nat) : W32 := match x.d with | .v n => w.g.lane n.toNat l | _ => 0
    (Passes s w (vecShape w x [x.a, x.b]) →
      let done (val : Nat → W32) := lanesDone s w x [x.a, x.b] val (fun _ => 0)
      (∀ fn, exec (.vadd fn x) s = done (fun l => sumBy fn false (a l) (b l))) ∧
      (∀ fn, exec (.vsub fn x) s = done (fun l => sumBy fn true (a l) (b l))) ∧
      exec (.vmul x) s = done (fun l => BitVec.ofNat 32 ((a l).toNat * (b l).toNat)) ∧
      (∀ fn, exec (.vmulh fn x) s = done (fun l => highBy fn (a l) (b l))) ∧
      (∀ fn, exec (.vand fn x) s = done (fun l => a l &&& secondBy fn (b l))) ∧
      (∀ fn, exec (.vor fn x) s = done (fun l => a l ||| secondBy fn (b l))) ∧
      (∀ fn, exec (.vxor fn x) s = done (fun l => a l ^^^ secondBy fn (b l))) ∧
      (∀ fn, exec (.vshl fn x) s = done (fun l => leftBy fn (a l) ((b l).toNat % 32))) ∧
      (∀ fn, exec (.vshr fn x) s = done (fun l => rightBy fn (a l) ((b l).toNat % 32))) ∧
      exec (.vmin .s x) s = done (fun l => chosenBy .min (a l) (b l)) ∧
      exec (.vmin .u x) s = done (fun l => chosenBy .minu (a l) (b l)) ∧
      exec (.vmax .s x) s = done (fun l => chosenBy .max (a l) (b l)) ∧
      exec (.vmax .u x) s = done (fun l => chosenBy .maxu (a l) (b l))) ∧
    (Passes s w (vecShape w x [x.a, x.b, x.c]) →
      let done (val : Nat → W32) := lanesDone s w x [x.a, x.b, x.c] val (fun _ => 0)
      exec (.vmad x) s = done (fun l => BitVec.ofNat 32 ((a l).toNat * (b l).toNat + (c l).toNat)) ∧
      (∀ fn, exec (.vbfx fn x) s = done (fun l => fieldBy fn (old l) (a l) (b l) (c l))) ∧
      exec (.vsel x) s = done (fun l =>
        let perLane := match x.c with | .v _ | .q _ | .sp .lane | .sp .slice => true | _ => false
        if (if perLane then c l ≠ 0 else (c l).toNat / 2 ^ l % 2 = 1) then a l else b l)) ∧
    (Passes s w (vecShape w x [x.a]) →
      let done (val : Nat → W32) := lanesDone s w x [x.a] val (fun _ => 0)
      (∀ fn, exec (.vabs fn x) s = done (fun l => absBy fn (a l))) ∧
      exec (.vclz x) s = done (fun l => BitVec.ofNat 32 (zerosBy (a l))) ∧
      exec (.vpopc x) s = done (fun l => BitVec.ofNat 32 (onesBy (a l) 32)) ∧
      exec (.vmov x) s = done a) ∧
    (Passes s w (vecShape w x []) →
      exec (.vbcast .s x) s = lanesDone s w x [] a (fun _ => 0) ∧
      exec (.vbcast .lane x) s = lanesDone s w x [] (fun _ => a ((s.srcS w x.imm x.b).toNat % 32)) (fun _ => 0)) ∧
    (Passes s w (vecShape w x [x.b]) →
      ∀ fn, exec (.vshfl fn x) s = lanesDone s w x [x.b] (fun l => a (sourceBy fn l (b l))) (fun _ => 0))

/-- R34, R66, R68: where a vector form completes and names no queue and no engine consumer, the active lanes of D's v register
hold their values and no other lane, register, byte of memory, special register, group or part of the device changes; fmt
gains the flags and nothing else. -/
def Obligations.VectorResultFrame : Prop :=
  ∀ (s t : State) (w : Who) (x : Args) (srcs : List Operand) (val : Nat → W32) (fl : Nat → FlagSet),
    s.who? w.gid w.fid = some w → x.cm.mxq = false → x.cm.cpq = false → x.cm.red = false → x.cm.net = false →
    x.cm.queue = false → queuesIn srcs = [] → lanesDone s w x srcs val fl = .next t →
    ∃ h, t.groups.get w.gid = some h ∧
      (∀ (n : BitVec 8) (l : Nat), l < 32 → h.lane n.toNat l =
        if x.cm.reg = true ∧ x.d = .v n ∧ (w.active x.msk).getLsbD l = true then val l else w.g.lane n.toNat l) ∧
      h.s = w.g.s ∧ SameSpecial w.g h ∧ h.idem = w.g.idem ∧
      WentOn w w.f.pc.next (fun m => fmtRaise m (orFlags (w.active x.msk) fl)) h ∧
      (∀ k, k ≠ w.gid → t.groups.get k = s.groups.get k) ∧
      SameDevice s t ∧ t.mem = s.mem ∧ t.cores = s.cores ∧ t.clusters = s.clusters ∧ t.mgmt = s.mgmt ∧
      SameBytes s t (isRegOf w.gid)

/-- R31, R34, R165: a form that pops queue p and pushes queue q, different queues of a pair whose partner is not at its EXIT,
takes the oldest entry of p in every active lane and appends its value to q; entries of other lanes stay. -/
def Obligations.QueueTraffic : Prop :=
  ∀ (s : State) (w : Who) (k : Nat) (h : Group) (act : W32) (p q : Nat) (val : Nat → W32),
    s.who? w.gid w.fid = some w → s.windowHolder w = some (k, h) → s.groups.get k = some h → s.partnerAtExit w = false →
    p ≠ q → p < 8 → q < 8 →
    ∃ h', ((s.pop w act p).pushQ w act q val).groups.get k = some h' ∧
      (∀ r l, l < 32 → (h'.queues.getD r []).getD l [] =
        if r = p ∧ act.getLsbD l = true then ((h.queues.getD r []).getD l []).tail
        else if r = q ∧ act.getLsbD l = true then ((h.queues.getD r []).getD l []) ++ [val l]
        else (h.queues.getD r []).getD l []) ∧
      h'.s = h.s ∧ h'.v = h.v ∧ h'.frags = h.frags

/-- R98, R99, R103, R105: the lane forms with a scalar result complete. VCMP writes the bits of the active lanes and keeps all
others; VRED and VEXT keep D where no lane is active. By the model's choice the bits that VCMP keeps are 0 where CM names no
register (log 40), and VRED and VEXT with no active lane give their engine consumers D's value (log 121). R103: the integer
reductions give the sum, the least, the greatest and the bitwise combinations of the active lanes' values, with the upper half
that the rule's table gives. -/
def Obligations.LaneScalarFormsComplete : Prop :=
  (∀ (s : State) (w : Who) (x : Args), Issues s w →
     let a (l : Nat) := s.srcV w x.imm x.a l
     let b (l : Nat) := s.srcV w x.imm x.b l
     let act := w.active x.msk
     let old : W64 := if x.cm.reg = true then (match x.d with | .s n => w.g.s? n.toNat | _ => 0) else 0
     let kept := if act = 0 then keepD x else x
     (Passes s w (vecShape w x [x.a, x.b]) →
       (∀ fn, ∃ m : W64, exec (.vcmp fn x) s = laneScalarDone s w x [x.a, x.b] m (fun _ => 0) ∧
         ∀ l, l < 64 → m.getLsbD l = if act.getLsbD l = true then holdsBy fn (a l) (b l) else old.getLsbD l) ∧
       (∀ fn, NoEnabledFlag w x (fun l => (cmpF32 fn (fmtFZ w.f.fmt) (a l) (b l)).2) →
         ∃ m : W64, exec (.vfcmp fn x) s =
             laneScalarDone s w x [x.a, x.b] m (fun l => (cmpF32 fn (fmtFZ w.f.fmt) (a l) (b l)).2) ∧
           ∀ l, l < 64 → m.getLsbD l =
             if act.getLsbD l = true then (cmpF32 fn (fmtFZ w.f.fmt) (a l) (b l)).1 else old.getLsbD l)) ∧
     (Passes s w (vecShape w kept [x.a]) →
       ∀ fn, NoEnabledFlag w x (fun _ => (reduce fn w.f.fmt act a).2) →
         exec (.vred fn x) s = laneScalarDone s w kept [x.a] (if act = 0 then old else (reduce fn w.f.fmt act a).1)
           (fun _ => (reduce fn w.f.fmt act a).2)) ∧
     (Passes s w (vecShape w kept []) →
       let v := a ((s.srcS w x.imm x.b).toNat % 32)
       exec (.vext .z x) s = laneScalarDone s w kept [] (if act = 0 then old else BitVec.ofNat 64 v.toNat) (fun _ => 0) ∧
       exec (.vext .s x) s = laneScalarDone s w kept [] (if act = 0 then old else BitVec.ofInt 64 v.toInt) (fun _ => 0))) ∧
  (∀ (act : W32) (a : Nat → W32) (fmt : W32), act ≠ 0 →
     let vals := ((List.range 32).filter act.getLsbD).map a
     (reduce .add fmt act a).1 = (BitVec.ofNat 32 (vals.map BitVec.toNat).sum).signExtend 64 ∧
     (∃ v ∈ vals, (reduce .min fmt act a).1 = v.signExtend 64 ∧ ∀ u ∈ vals, v.toInt ≤ u.toInt) ∧
     (∃ v ∈ vals, (reduce .max fmt act a).1 = v.signExtend 64 ∧ ∀ u ∈ vals, u.toInt ≤ v.toInt) ∧
     (∃ v ∈ vals, (reduce .minu fmt act a).1 = v.setWidth 64 ∧ ∀ u ∈ vals, v.toNat ≤ u.toNat) ∧
     (∃ v ∈ vals, (reduce .maxu fmt act a).1 = v.setWidth 64 ∧ ∀ u ∈ vals, u.toNat ≤ v.toNat) ∧
     (∀ k, k < 64 → (reduce .and fmt act a).1.getLsbD k = decide (k < 32 ∧ ∀ v ∈ vals, v.getLsbD k = true)) ∧
     (∀ k, k < 64 → (reduce .or fmt act a).1.getLsbD k = decide (k < 32 ∧ ∃ v ∈ vals, v.getLsbD k = true)) ∧
     (∀ k, k < 64 → (reduce .xor fmt act a).1.getLsbD k =
       decide (k < 32 ∧ (vals.filter (fun v => v.getLsbD k)).length % 2 = 1)))

/-- R110-R119: every FP32 lane form completes with the operation of its rule on each active lane, in the rounding and flush
modes of fmt, where its operands and consumers pass their checks and the active lanes raise no enabled flag; where fmt enables
none, they raise none that is enabled. What the operations give is stated by `Obligations.LoadedAtomicAndFloatValues`. R333:
the narrow-format lane forms complete with the operation of their rule on each active lane, where their operands and consumers
pass their checks and the active lanes raise no enabled flag; where fmt enables none, they raise none that is enabled. -/
def Obligations.FloatAndNarrowForms : Prop :=
  (∀ (s : State) (w : Who) (x : Args), Issues s w →
     let a (l : Nat) := s.srcV w x.imm x.a l
     let b (l : Nat) := s.srcV w x.imm x.b l
     let c (l : Nat) := s.srcV w x.imm x.c l
     let fz := fmtFZ w.f.fmt
     let clear (f : Nat → W32 × FlagSet) : Prop := fmtEnables w.f.fmt = 0 ∨ NoEnabledFlag w x (fun l => (f l).2)
     (Passes s w (vecShape w x [x.a, x.b]) →
       let done (f : Nat → W32 × FlagSet) := lanesDone s w x [x.a, x.b] (fun l => (f l).1) (fun l => (f l).2)
       (∀ fn, let f := fun l => addF32 (formMode fn w.f.fmt) fz (a l) (b l); clear f → exec (.vfadd fn x) s = done f) ∧
       (∀ fn, let f := fun l => subF32 (formMode fn w.f.fmt) fz (a l) (b l); clear f → exec (.vfsub fn x) s = done f) ∧
       (∀ fn, let f := fun l => mulF32 (formMode fn w.f.fmt) fz (a l) (b l); clear f → exec (.vfmul fn x) s = done f) ∧
       (∀ fn, let f := fun l => minMaxF32 false fn fz (a l) (b l); clear f → exec (.vfmin fn x) s = done f) ∧
       (∀ fn, let f := fun l => minMaxF32 true fn fz (a l) (b l); clear f → exec (.vfmax fn x) s = done f) ∧
       (∀ fn, exec (.vfsgn fn x) s = done (fun l => (signF32 fn (a l) (b l), 0))) ∧
       (∀ fn, let f := fun l => scaleF32 (formMode fn w.f.fmt) fz (a l) (b l); clear f → exec (.vfscl fn x) s = done f)) ∧
     (Passes s w (vecShape w x [x.a, x.b, x.c]) →
       let done (f : Nat → W32 × FlagSet) := lanesDone s w x [x.a, x.b, x.c] (fun l => (f l).1) (fun l => (f l).2)
       (∀ fn, let f := fun l => fmaF32 (formMode fn w.f.fmt) fz (a l) (b l) (c l); clear f → exec (.vfma fn x) s = done f) ∧
       (∀ fn, let f := fun l => fnmaF32 (formMode fn w.f.fmt) fz (a l) (b l) (c l); clear f → exec (.vfnma fn x) s = done f)) ∧
     (Passes s w (vecShape w x [x.a]) →
       let done (f : Nat → W32 × FlagSet) := lanesDone s w x [x.a] (fun l => (f l).1) (fun l => (f l).2)
       (let f := fun l => rsqrtF32 fz (a l); clear f → exec (.vfrsqe x) s = done f) ∧
       (let f := fun l => recipF32 fz (a l); clear f → exec (.vfrcpe x) s = done f) ∧
       (let f := fun l => exp2F32 fz (a l); clear f → exec (.vfex2e x) s = done f) ∧
       (let f := fun l => log2F32 fz (a l); clear f → exec (.vflg2e x) s = done f) ∧
       (∀ fn, exec (.vfxp fn x) s = done (fun l => (splitF32 fn (a l), 0))) ∧
       exec (.vfcls x) s = done (fun l => (classF32 (a l), 0)) ∧
       (∀ fn, let f := fun l => integralF32 (formMode fn w.f.fmt) fz (a l); clear f → exec (.vfrnd fn x) s = done f))) ∧
  (∀ (s : State) (w : Who) (x : Args), Issues s w →
     let a (l : Nat) := s.srcV w x.imm x.a l
     let b (l : Nat) := s.srcV w x.imm x.b l
     let c (l : Nat) := s.srcV w x.imm x.c l
     let old (l : Nat) : W32 := match x.d with | .v n => w.g.lane n.toNat l | _ => 0
     let mode := rmodeOf (fmtRM w.f.fmt)
     let ce := fmtCE w.f.fmt
     let clear (f : Nat → W32 × FlagSet) : Prop := fmtEnables w.f.fmt = 0 ∨ NoEnabledFlag w x (fun l => (f l).2)
     (Passes s w (vecShape w x [x.a, x.b]) →
       let done (f : Nat → W32 × FlagSet) := lanesDone s w x [x.a, x.b] (fun l => (f l).1) (fun l => (f l).2)
       (∀ fn src, NumFmt.ofCode (immField x.imm 0 4) = some src →
         let f := fun l => convert src fn mode ce (a l) (b l); clear f → exec (.vcvt fn x) s = done f) ∧
       (∀ fn, let f := fun l => packField fn mode ce (old l) (a l) (b l); clear f → exec (.vpack fn x) s = done f) ∧
       (∀ fn, let f := fun l => unpackField fn mode (a l) (b l); clear f → exec (.vunpk fn x) s = done f)) ∧
     (Passes s w (vecShape w x [x.a, x.b, x.c]) →
       let done (f : Nat → W32 × FlagSet) := lanesDone s w x [x.a, x.b, x.c] (fun l => (f l).1) (fun l => (f l).2)
       (∀ fn, let f := fun l => halfFma fn mode ce (a l) (b l) (c l); clear f → exec (.vhfma fn x) s = done f) ∧
       (∀ fn, let f := fun l => dot4 fn mode ce (a l) (b l) (c l); clear f → exec (.vdot4 fn x) s = done f) ∧
       (let f := fun l => t2Select (a l) (b l) (c l); clear f → exec (.vtsel x) s = done f)))

/-- R194, R195: SETFMT completes with a value whose two format codes are not reserved, and writes the whole of fmt; with a
reserved code it raises 0x02 and leaves fmt. GETFMT completes where its operands and consumers pass their checks: it gives fmt
to D, and .clr clears bits [31:24] after the read. -/
def Obligations.FormatRegisterAndFlags : Prop :=
  ∀ (s : State) (w : Who) (x : Args), Issues s w →
    let set (v : W32) : Host.Outcome State Fault Refusal :=
      .next (State.endIssue ((s.updFrag w.gid w.fid (fun f => { f with fmt := v })).advance w))
    let low := (s.srcS w x.imm x.a).setWidth 32
    let legal (v : W32) : Prop := v.toNat % 16 < 10 ∧ v.toNat / 16 % 16 < 10
    (legal low → exec (.setfmt .reg x) s = set low) ∧ (¬ legal low → exec (.setfmt .reg x) s = trapsIn s w 0x02 none) ∧
    (legal x.imm → exec (.setfmt .i x) s = set x.imm) ∧ (¬ legal x.imm → exec (.setfmt .i x) s = trapsIn s w 0x02 none) ∧
    (Passes s w (scalShape x) →
      let given := s.putScalar w (scalShape x) (BitVec.ofNat 64 w.f.fmt.toNat)
      exec (.getfmt .plain x) s = .next (given.advance w).endIssue ∧
      exec (.getfmt .clr x) s = .next (State.endIssue ((given.updFrag w.gid w.fid
          (fun f => { f with fmt := BitVec.ofNat 32 (f.fmt.toNat % 2 ^ 24) })).advance w)))

/-- Whatever an operate form does when it answers a next state, a cause, a wait or an abort of an open region included: with
no engine consumer it leaves every byte of memory, every other group's registers, every L1, every cluster and every part of
the device as they were. -/
def Obligations.OperateFormsFrame : Prop :=
  ∀ (s t : State) (i : Instr) (x : Args) (c : Issuer), s.cur = some c → isOperate i = true →
    Instr.payload i = some (.v x) → x.cm.cpq = false → x.cm.red = false → x.cm.net = false → exec i s = .next t →
    SameDevice s t ∧ t.mem = s.mem ∧ t.clusters = s.clusters ∧
      (∀ k, (t.cores.get k).map (fun e => (e.l1, e.tlb)) = (s.cores.get k).map (fun e => (e.l1, e.tlb))) ∧
      SameBytes s t (isRegOf c.gid)

/-! ### Control -/

/-- R20, R24, R73-R78: NOP goes on to the next PC; a taken BRA, BRC, CALL, RET, JMPI or DJNZ goes to its target where the
target is a slot whose TARGET bit is set in a line that is read and passes its check, CALL linking the following PC and DJNZ
writing its count; a BRC whose condition fails and a DJNZ that reaches 0 go on to the next PC. No other register changes. -/
def Obligations.TransfersComplete : Prop :=
  ∀ (s : State) (w : Who) (x : BArgs) (pc : Pc), Issues s w → w.f.dormant = [] →
    let target := w.f.pc.line + BitVec.ofInt 64 (64 * x.lineOff.toInt) + BitVec.ofNat 64 (12 * x.slot.toNat)
    let a := s.srcS w 0 x.a
    exec .nop s = doneIn (s.advance w) ∧
    (Lands s w target pc →
      exec (.bra x) s = doneIn (s.goto w pc false) ∧
      (∀ n : BitVec 6, x.d = .s n →
        exec (.call x) s = doneIn ((s.setSreg w n.toNat w.f.pc.next.addr).goto w pc false)) ∧
      (∀ n : BitVec 6, x.a = .s n → w.g.s? n.toNat ≠ 1 →
        exec (.djnz x) s = doneIn ((s.setSreg w n.toNat (w.g.s? n.toNat - 1)).goto w pc false))) ∧
    (∀ n : BitVec 6, x.a = .s n → w.g.s? n.toNat = 1 →
      exec (.djnz x) s = doneIn ((s.setSreg w n.toNat 0).advance w)) ∧
    (∀ fn : BrcFn,
      let taken : Prop := match fn with
        | .z => a.toInt = 0
        | .nz => a.toInt ≠ 0
        | .lt => a.toInt < 0
        | .ge => 0 ≤ a.toInt
        | .gt => 0 < a.toInt
        | .le => a.toInt ≤ 0
      (taken → Lands s w target pc → exec (.brc fn x) s = doneIn (s.goto w pc false)) ∧
      (¬ taken → exec (.brc fn x) s = doneIn (s.advance w))) ∧
    (Lands s w a pc →
      exec (.ret x) s = doneIn (s.goto w pc false) ∧ exec (.jmpi x) s = doneIn (s.goto w pc false))

/-- R20, R24, R75-R78, R185: a taken transfer, a BRS that any running slice takes among them, to an address that is no slot of
a line of the global window, or to a slot whose TARGET bit is clear, raises cause 0x03 at the transfer with the target's
address in CR.TVAL, and writes no register; and every control form reached with a dormant slice raises 0x0B (R193). -/
def Obligations.TransfersTrap : Prop :=
  ∀ (s : State) (w : Who) (x : BArgs), Issues s w →
    let target := w.f.pc.line + BitVec.ofInt 64 (64 * x.lineOff.toInt) + BitVec.ofNat 64 (12 * x.slot.toNat)
    let a := s.srcS w 0 x.a
    let noTarget (b : W64) : Prop :=
      Pc.ofAddr b = none ∨ (∃ pc, Pc.ofAddr b = some pc ∧ (lineOk pc.line = false ∨
        ∃ line, s.fetchLine w.g.ctx w.g.core pc.line = .ok line ∧ lineCheckOk line = true ∧
          (lineWord line).target.getLsbD pc.slot = false))
    (w.f.dormant = [] → noTarget target →
      exec (.bra x) s = trapsIn s w 0x03 (some target) ∧ exec (.call x) s = trapsIn s w 0x03 (some target) ∧
      (∀ fn : BrcFn,
        (match fn with
          | .z => a.toInt = 0
          | .nz => a.toInt ≠ 0
          | .lt => a.toInt < 0
          | .ge => 0 ≤ a.toInt
          | .gt => 0 < a.toInt
          | .le => a.toInt ≤ 0) → exec (.brc fn x) s = trapsIn s w 0x03 (some target)) ∧
      (∀ fn : BrsFn,
        (∃ j, j < 8 ∧ w.f.slices.getLsbD j = true ∧ (let bits := a.toNat / 2 ^ (4 * j) % 16
          (match fn with | .any => bits != 0 | .all => bits == 15 | .none => bits == 0 | .nall => bits != 15) = true)) →
        exec (.brs fn x) s = trapsIn s w 0x03 (some target)) ∧
      (∀ n : BitVec 6, x.a = .s n → w.g.s? n.toNat ≠ 1 → exec (.djnz x) s = trapsIn s w 0x03 (some target))) ∧
    (w.f.dormant = [] → noTarget a →
      exec (.ret x) s = trapsIn s w 0x03 (some a) ∧ exec (.jmpi x) s = trapsIn s w 0x03 (some a)) ∧
    (w.f.dormant ≠ [] →
      exec (.bra x) s = trapsIn s w 0x0B none ∧ exec (.call x) s = trapsIn s w 0x0B none ∧
      exec (.ret x) s = trapsIn s w 0x0B none ∧ exec (.jmpi x) s = trapsIn s w 0x0B none ∧
      exec (.djnz x) s = trapsIn s w 0x0B none ∧ (∀ fn, exec (.brc fn x) s = trapsIn s w 0x0B none) ∧
      (∀ fn, exec (.brs fn x) s = trapsIn s w 0x0B none) ∧
      ∀ y : Args, exec (.regang y) s = trapsIn s w 0x0B none ∧ exec (.exit y) s = trapsIn s w 0x0B none ∧
        exec (.yield y) s = trapsIn s w 0x0B none)

/-- R185-R187: BRS pushes a record that saves fmt. With no slice taken the fragment goes on whole at the next PC, with every
slice taken at the target; otherwise, below fork depth 8, the smaller part (on equal counts the taken one) leaves as a new
fragment, and at fork depth 8 the slices not taken are parked. -/
def Obligations.PartingBranch : Prop :=
  ∀ (s : State) (w : Who) (x : BArgs) (fn : BrsFn) (pc : Pc), Issues s w → w.f.dormant = [] →
    let m := (s.srcS w 0 x.a).toNat
    let target := w.f.pc.line + BitVec.ofInt 64 (64 * x.lineOff.toInt) + BitVec.ofNat 64 (12 * x.slot.toNat)
    let cond (j : Nat) : Bool :=
      let bits := m / 2 ^ (4 * j) % 16
      match fn with | .any => bits != 0 | .all => bits == 15 | .none => bits == 0 | .nall => bits != 15
    let depth := (w.f.stack.filter (fun r => match r with | .fork _ _ => true | _ => false)).length
    let count (p : BitVec 8) : Nat := ((List.range 8).filter p.getLsbD).length
    ∀ taken : BitVec 8, (∀ j, j < 8 → taken.getLsbD j = (w.f.slices.getLsbD j && cond j)) →
      let rest := w.f.slices &&& ~~~taken
      let record := Rec.fork s.nextId w.f.fmt
      (taken = 0 → depth < 8 →
        exec (.brs fn x) s = doneIn (State.advance { s.updFrag w.gid w.fid (fun f => { f with stack := record :: w.f.stack })
          with nextId := s.nextId + 2 } w)) ∧
      (taken ≠ 0 → rest = 0 → depth < 8 → Lands s w target pc →
        exec (.brs fn x) s = doneIn (State.goto { s.updFrag w.gid w.fid (fun f => { f with stack := record :: w.f.stack })
          with nextId := s.nextId + 2 } w pc false)) ∧
      (taken ≠ 0 → rest ≠ 0 → depth < 8 → Lands s w target pc → w.g.frag? (s.nextId + 1) = none →
        ∃ t h f n, exec (.brs fn x) s = .next t ∧ t.groups.get w.gid = some h ∧
          h.frag? w.fid = some f ∧ h.frag? (s.nextId + 1) = some n ∧ h.frags.length = w.g.frags.length + 1 ∧
          f.stack = record :: w.f.stack ∧ n.stack = record :: w.f.stack ∧ n.fmt = w.f.fmt ∧
          (if count taken ≤ count rest then n.slices = taken ∧ n.pc = pc ∧ f.slices = rest ∧ f.pc = w.f.pc.next
           else n.slices = rest ∧ n.pc = w.f.pc.next ∧ f.slices = taken ∧ f.pc = pc) ∧
          h.s = w.g.s ∧ h.v = w.g.v ∧ t.mem = s.mem) ∧
      (taken ≠ 0 → depth = 8 → w.f.stack.length < 16 → Lands s w target pc →
        exec (.brs fn x) s = doneIn (State.goto { s.updFrag w.gid w.fid (fun f =>
            { f with stack := Rec.park s.nextId w.f.fmt rest w.f.pc.next 0 false :: w.f.stack, slices := taken })
          with nextId := s.nextId + 1 } w pc false)) ∧
      (depth = 8 → w.f.stack.length = 16 → taken = 0 → exec (.brs fn x) s = trapsIn s w 0x0A none)

/-- R188-R190: REGANG with no record raises 0x09; a fork record that no other fragment holds, and a park entry with no slice
still to run, are popped at once, with saved_fmt back in fmt and the waiting slices back in the fragment; otherwise the
fragment waits at the bound REGANG. R192: MSKIP makes each running slice whose four mask bits are all zero dormant until the
slot after the block, and the fragment goes on. -/
def Obligations.JoiningAndSkipping : Prop :=
  (∀ (s : State) (w : Who) (x : Args), Issues s w → w.f.dormant = [] →
     let fits (id : Nat) : Prop := w.g.bound id = none ∨ w.g.bound id = some (x.imm.toNat % 2 ^ 16, w.f.pc)
     (w.f.stack = [] → exec (.regang x) s = trapsIn s w 0x09 none) ∧
     (∀ id saved r, w.f.stack = .fork id saved :: r →
       (¬ fits id → exec (.regang x) s = trapsIn s w 0x09 none) ∧
       (fits id → (∀ f ∈ w.g.frags, f.id ≠ w.fid → Rec.fork id saved ∉ f.stack) →
         (∀ f ∈ w.g.frags, ∀ v, Rec.fork id v ∈ f.stack → v = saved) →
         ∃ t h f, exec (.regang x) s = .next t ∧ t.groups.get w.gid = some h ∧ h.frag? w.fid = some f ∧
           f.stack = r ∧ f.fmt = saved ∧ f.slices = w.f.slices ∧ f.status = .ready ∧ h.bound id = none ∧
           h.s = w.g.s ∧ h.v = w.g.v ∧ t.mem = s.mem) ∧
       (fits id → (∃ f ∈ w.g.frags, f.id ≠ w.fid ∧ Rec.fork id saved ∈ f.stack) →
         ∃ t h f, exec (.regang x) s = .next t ∧ t.groups.get w.gid = some h ∧ h.frag? w.fid = some f ∧
           f.status = .waiting (.join id) ∧ f.pc = w.f.pc ∧ (h.bound id).isSome ∧ t.mem = s.mem)) ∧
     (∀ id saved parked resume waiting ran r, w.f.stack = .park id saved parked resume waiting ran :: r → fits id →
       (ran = true ∨ parked = 0 →
         ∃ t h f, exec (.regang x) s = .next t ∧ t.groups.get w.gid = some h ∧ h.frag? w.fid = some f ∧
           f.stack = r ∧ f.fmt = saved ∧ f.slices = w.f.slices ||| waiting ∧ f.status = .ready ∧ t.mem = s.mem) ∧
       (ran = false → parked ≠ 0 →
         ∃ t h f, exec (.regang x) s = .next t ∧ t.groups.get w.gid = some h ∧ h.frag? w.fid = some f ∧
           f.status = .waiting .park ∧ f.pc = w.f.pc ∧ t.mem = s.mem))) ∧
  (∀ (s : State) (w : Who) (x : Args), Issues s w →
     let m := (w.g.s? x.msk.toNat).toNat
     let skipped := (List.range 8).filter (fun j => w.f.runs j && m / 2 ^ (4 * j) % 16 == 0)
     exec (.mskip x) s = doneIn ((s.updFrag w.gid w.fid (fun f =>
       { f with dormant := f.dormant ++ skipped.map (fun j => (j, w.f.pc.skip (x.imm.toNat % 2 ^ 8 + 1))) })).advance w))

/-- R79-R82: EXIT in an open region aborts the group with code 0x01; else the fragment is gone with its slices marked exited,
or, as its group's last, waits at EXIT. YIELD goes on to the next PC and yields for at most 64 cycles. -/
def Obligations.ExitAndYield : Prop :=
  ∀ (s : State) (w : Who) (x : Args), Issues s w → w.f.dormant = [] →
    (w.g.tryR.isSome → exec (.exit x) s = .next (s.abortGroup w.gid 0x01 0 none).endIssue) ∧
    (w.g.tryR = none → (∀ r ∈ w.f.stack, ∃ id saved, r = .fork id saved) →
      (1 < w.g.frags.length →
        ∃ t h, exec (.exit x) s = .next t ∧ t.groups.get w.gid = some h ∧ h.exited = w.g.exited ||| w.f.slices ∧
          h.frags = w.g.frags.filter (fun f => f.id != w.fid) ∧ h.s = w.g.s ∧ h.v = w.g.v ∧ t.mem = s.mem) ∧
      (w.g.frags = [w.f] →
        ∃ t h, exec (.exit x) s = .next t ∧ t.groups.get w.gid = some h ∧
          h.frags = [{ w.f.issued with status := .waiting .exit }] ∧ .groupLeavesCore w.gid ∈ t.due ∧ h.s = w.g.s ∧ h.v = w.g.v ∧
          t.mem = s.mem)) ∧
    (∃ t h f, exec (.yield x) s = .next t ∧ t.groups.get w.gid = some h ∧ h.frag? w.fid = some f ∧
      f.pc = (w.f.arrive w.f.pc.next).pc ∧ (∃ others, f.status = .yielding (s.clock + 64) others) ∧
      h.s = w.g.s ∧ h.v = w.g.v ∧ t.mem = s.mem)

/-! ### Memory -/

/-- R120-R127, R140-R142: LD, ST, LDU, LDS, STS, ATOM, XCHG, CAS, RED and SATOM with LA 0, or with a reason to be performed at
issue, complete where every byte has a translation and the package holds no poison: the access is performed, a load or
returning atomic gives its lanes' old bytes to its consumers, and the fragment goes on. With LA above 0 and no such reason the
instruction enters the operand log with LA younger instructions still to issue, and the fragment goes on (R33, R137). The
first access after a join comes behind the stores of the joined paths (R191). An atomic with no active lane takes no unit and
is performed at issue, by the model's reading (log 129). -/
def Obligations.AccessFormsComplete : Prop :=
  ∀ (s : State) (w : Who) (i : Instr) (x : MArgs) (a : AccForm), Issues s w → accForm i = some a → opMArgs i = some x →
    AccessReady s w i x a →
    let lanes := s.lanesOf w i x a.scalar
    let s0 := s.afterPaths w
    let note (t : State) : State := match a.action with | .atomic _ => t.disarm w | _ => t
    (atOnce s w i x a = true → (a.action = .store → s0.overlapsSide w.gid w.g.who lanes a.bytes = false) →
      s.mem.poison = [] → (∃ l, s0.resolveLanes w.gid w.g a lanes = .ok l) →
      ∃ s1 old, s0.perform w.gid w.g i a fadd32 lanes = .done s1 old ∧
        exec i s = doneIn ((note (if a.posted then s1.putLanes w (accShape w x a) (fun _ => 0)
          else s1.putLoaded w (accShape w x a) i old)).advance w)) ∧
    (atOnce s w i x a = false →
      exec i s = doneIn (((note s0).advance w).addOp
        { id := s0.nextId, gid := w.gid, fid := w.fid, core := w.g.core, pc := w.f.pc, instr := i, left := x.la.toNat,
          younger := 0, lanes := lanes, act := if a.scalar then 0 else w.active x.msk, stage := .issued, whole := false,
          waits := false, joined := false, hm := w.g.hm, seq := s0.nextId, first := false, pins := [], owe := none,
          refused := none, dormant := w.f.dormant }))

/-- R124, R142: an access form whose lane fails a check raises the lane's cause, its address in CR.TVAL, and accesses nothing:
the checks are made lowest lane first, and before any lane accesses. R459: a load or returning atomic, without order, that
reads a poisoned byte at its point of coherence gives no value: the fragment goes on, and its group's fate is R461's. R122,
R124, R142, R374: what one lane's check finds: the aperture and bound causes first, 0x12, 0x0D and, in the scratchpad
apertures, 0x13 for a bad field, a group, a slot or a byte that is not held; then 0x10 for a misaligned atomic, 0x11 for an
atomic on lane-private memory, 0x07 for a global byte outside the task's regions and 0x08 for a store outside its writable
ones. By the model's reading an access that ends past the global window, or past 2^32 in the lane-private one, raises 0x12
before the region check and before 0x0D (logs 122, 125). -/
def Obligations.AccessFormsTrap : Prop :=
  ((∀ (s : State) (w : Who) (i : Instr) (x : MArgs) (a : AccForm) (l : List (LaneAccess × List Loc)), Issues s w →
     accForm i = some a → opMArgs i = some x → AccessReady s w i x a → atOnce s w i x a = true → w.f.afterJoin = false →
     a.attrs.order = .relaxed → a.action = .load ∨ a.action = .atomic true →
     s.resolveLanes w.gid w.g a (s.lanesOf w i x a.scalar) = .ok l →
     (∃ e ∈ l, ∃ y ∈ e.2, isPoisoned s.mem.poison y = true ∧
       ∀ n c, y = .spa n → s.cores.get w.g.core = some c → c.copy? (n / 128) = none) →
     ∃ e ∈ l, ∃ h, exec i s = doneIn (((s.push (.idemRestart w.gid (.poison e.1.addr h w.fid))).noteIssue w a
       (accShape w x a)).advance w)) ∧
   ∀ (s : State) (w : Who) (i : Instr) (x : MArgs) (a : AccForm) (c : Nat) (tv : W64), Issues s w → accForm i = some a →
     opMArgs i = some x → w.g.tryR = none → w.wideUnprotected i x = false → Passes s w (accShape w x a) →
     s.checkLanes w.gid w.g a.kind (s.lanesOf w i x a.scalar) = .error (c, tv) →
     exec i s = trapsIn s w c (some tv) ∧
       ∃ pre y post, s.lanesOf w i x a.scalar = pre ++ y :: post ∧ y.addr = tv ∧
         s.checkLane (s.seat w.gid w.g y.lane) y.addr a.kind = .error c ∧
         ∀ z ∈ pre, ∃ l, s.checkLane (s.seat w.gid w.g z.lane) z.addr a.kind = .ok l) ∧
  (∀ (s : State) (w : Who) (lane : Nat) (addr : W64) (k : AccessKind),
     let seat := s.seat w.gid w.g lane
     let a := addr.toNat
     let covered (l : List (W64 × W64)) (b : Nat) : Prop := ∃ r ∈ l, r.1.toNat ≤ b ∧ b < r.1.toNat + r.2.toNat
     let readable := seat.launch.reads ++ seat.launch.writes
     (apertureOf addr = .none → s.checkLane seat addr k = .error 0x12) ∧
     (apertureOf addr = .global → a < 2 ^ 56 ∧
       (2 ^ 56 < a + k.bytes → s.checkLane seat addr k = .error 0x12) ∧
       (a + k.bytes ≤ 2 ^ 56 → k.atomic = true → a % k.bytes ≠ 0 → s.checkLane seat addr k = .error 0x10) ∧
       (a + k.bytes ≤ 2 ^ 56 → (k.atomic = true → a % k.bytes = 0) →
         ((∃ b, a ≤ b ∧ b < a + k.bytes ∧ ¬ covered readable b) → s.checkLane seat addr k = .error 0x07) ∧
         ((∀ b, a ≤ b → b < a + k.bytes → covered readable b) →
           (k.write = true → (∃ b, a ≤ b ∧ b < a + k.bytes ∧ ¬ covered seat.launch.writes b) →
             s.checkLane seat addr k = .error 0x08) ∧
           ((k.write = true → ∀ b, a ≤ b → b < a + k.bytes → covered seat.launch.writes b) →
             ∃ l, s.checkLane seat addr k = .ok l)))) ∧
     (apertureOf addr = .priv →
       (2 ^ 32 < a % 2 ^ 52 + k.bytes → s.checkLane seat addr k = .error 0x12) ∧
       (a % 2 ^ 52 + k.bytes ≤ 2 ^ 32 → (s.lpext w.g.ctx).toNat < a % 2 ^ 52 + k.bytes →
         s.checkLane seat addr k = .error 0x0D) ∧
       (a % 2 ^ 52 + k.bytes ≤ 2 ^ 32 → a % 2 ^ 52 + k.bytes ≤ (s.lpext w.g.ctx).toNat →
         (k.atomic = true → a % k.bytes ≠ 0 → s.checkLane seat addr k = .error 0x10) ∧
         (k.atomic = true → a % k.bytes = 0 → s.checkLane seat addr k = .error 0x11) ∧
         (k.atomic = false → ∃ l, s.checkLane seat addr k = .ok l))) ∧
     (let inside (good : Prop) : Prop :=
        (¬ good → s.checkLane seat addr k = .error 0x13) ∧
        (good → k.atomic = true → a % k.bytes ≠ 0 → s.checkLane seat addr k = .error 0x10) ∧
        (good → (k.atomic = true → a % k.bytes = 0) → ∃ l, s.checkLane seat addr k = .ok l)
      (apertureOf addr = .core → inside (a / 2 ^ 23 % 2 ^ 29 = 0 ∧ ∃ t h, s.whoGroup seat (a / 2 ^ 16 % 128) = some (t, h) ∧
        (a % 2 ^ 16 + k.bytes ≤ 1024 * h.blocks ∨ (0x8000 ≤ a % 2 ^ 16 ∧ a % 2 ^ 16 + k.bytes ≤ 0x8200)))) ∧
      (apertureOf addr = .cluster → inside (a % 2 ^ 52 < 2 ^ 22 ∧ a % 2 ^ 52 + k.bytes ≤ seat.launch.csram)) ∧
      (apertureOf addr = .chip → inside (∀ b, a ≤ b → b < a + k.bytes →
        b / 2 ^ 42 % 2 ^ 10 = 0 ∧ b / 2 ^ 26 % 2 ^ 14 = 0 ∧ b / 2 ^ 18 % 256 < seat.launch.banks ∧
          ∃ c, s.ctxs.get w.g.ctx = some c ∧ b / 2 ^ 18 % 256 < (c.banksOn (b / 2 ^ 40 % 4)).length))))

/-- R44, R125-R127: what a load puts into registers: bytes read little-endian, zero-extended for .z8 and .z16, sign-extended
for .s8, .s16 and .s32, in two or four registers, low half first, for .b64 and .b128; a scalar load extends to 64 bits. R141,
R142: the value that each atomic form writes, from the value before its step and the lane's operand: sum, bitwise combination,
lesser or greater, exchange, or the operand only where the value before equals D's. R111-R119, R171-R175: what the FP32
operations give, with flush off. Sums, products, their combinations and scalings of finite values are the exact value rounded
once, with inexact, underflow and overflow as it needs them; VFRND gives the integer that its mode asks for and no flag; the
lesser and greater are one of the two; any NaN gives the canonical NaN, invalid if it signals; the estimates of 1/x and 1/√x
have 12 significant bits and a relative error below 2^-12, and those of 2^x at integers and of log2 at powers of 2 are exact;
and worked cases of R114, R115, R119 and R172. R333, R365-R368: what the narrow-format operations give. VCVT between float
formats, the scale byte included, writes the exact value rounded once where it lies in the destination's range; VPACK writes
its field and keeps the others, VUNPK is exact; VHFMA and VDOT4 round their exact sums once, the integer forms saturate; VTSEL
selects by its code; and worked cases of R367. -/
def Obligations.LoadedAtomicAndFloatValues : Prop :=
  (∀ (b : List Byte),
     let word (k : Nat) : W32 := BitVec.ofNat 32 (bytesNat ((b.drop (4 * k)).take 4))
     (b.length = 1 → loadRegs .z8 b = [BitVec.ofNat 32 (bytesNat b)] ∧
       loadRegs .s8 b = [(BitVec.ofNat 8 (bytesNat b)).signExtend 32] ∧ loadScalar .z8 b = BitVec.ofNat 64 (bytesNat b) ∧
       loadScalar .s8 b = (BitVec.ofNat 8 (bytesNat b)).signExtend 64) ∧
     (b.length = 2 → loadRegs .z16 b = [BitVec.ofNat 32 (bytesNat b)] ∧
       loadRegs .s16 b = [(BitVec.ofNat 16 (bytesNat b)).signExtend 32] ∧ loadScalar .z16 b = BitVec.ofNat 64 (bytesNat b) ∧
       loadScalar .s16 b = (BitVec.ofNat 16 (bytesNat b)).signExtend 64) ∧
     (b.length = 4 → loadRegs .b32 b = [word 0] ∧ loadScalar .b32 b = BitVec.ofNat 64 (bytesNat b) ∧
       loadScalar .s32 b = (BitVec.ofNat 32 (bytesNat b)).signExtend 64) ∧
     (b.length = 8 → loadRegs .b64 b = [word 0, word 1] ∧ loadScalar .b64 b = BitVec.ofNat 64 (bytesNat b)) ∧
     (b.length = 16 → loadRegs .b128 b = [word 0, word 1, word 2, word 3])) ∧
  (∀ (x : MArgs) (y : LaneAccess) (old : W64) (fadd : W32 → W32 → W32),
     let o : W32 := old.setWidth 32
     let b : W32 := y.data.getD 0 0
     let bb : W64 := y.data.getD 1 0 ++ y.data.getD 0 0
     let atom (fn : AtomFn) (v : W32) : Prop :=
       atomNew (.atom fn x) y old fadd = v.setWidth 64 ∧ atomNew (.red fn x) y old fadd = v.setWidth 64
     atom .add (BitVec.ofNat 32 (o.toNat + b.toNat)) ∧ atom .and (o &&& b) ∧ atom .or (o ||| b) ∧ atom .xor (o ^^^ b) ∧
     atom .min (chosenBy .min o b) ∧ atom .max (chosenBy .max o b) ∧ atom .minu (chosenBy .minu o b) ∧
     atom .maxu (chosenBy .maxu o b) ∧ atom .fadd (fadd o b) ∧
     atomNew (.xchg x) y old fadd = b.setWidth 64 ∧
     atomNew (.cas x) y old fadd = (if o = y.expect.setWidth 32 then b else o).setWidth 64 ∧
     atomNew (.satom .add x) y old fadd = BitVec.ofNat 64 (old.toNat + bb.toNat) ∧
     atomNew (.satom .and x) y old fadd = (old &&& bb) ∧ atomNew (.satom .or x) y old fadd = (old ||| bb) ∧
     atomNew (.satom .xor x) y old fadd = old ^^^ bb ∧
     atomNew (.satom .min x) y old fadd = chosenBy .min old bb ∧ atomNew (.satom .max x) y old fadd = chosenBy .max old bb ∧
     atomNew (.satom .minu x) y old fadd = chosenBy .minu old bb ∧ atomNew (.satom .maxu x) y old fadd = chosenBy .maxu old bb ∧
     atomNew (.satom .xchg x) y old fadd = bb ∧ atomNew (.satom .cas x) y old fadd = (if old = y.expect then bb else old)) ∧
  ((∀ (mode : RMode) (a b c n : W32), finPat fp32 a.toNat → finPat fp32 b.toNat → finPat fp32 c.toNat →
     let v (x : W32) : ℚ := patVal fp32 x.toNat
     GivesF32 mode (v a + v b) (addF32 mode false a b) ∧ GivesF32 mode (v a - v b) (subF32 mode false a b) ∧
     GivesF32 mode (v a * v b) (mulF32 mode false a b) ∧ GivesF32 mode (v a * v b + v c) (fmaF32 mode false a b c) ∧
     GivesF32 mode (v c - v a * v b) (fnmaF32 mode false a b c) ∧ GivesF32 mode (v a * 2 ^ n.toInt) (scaleF32 mode false a n) ∧
     (let r := integralF32 mode false a
      r.2 = 0 ∧ finPat fp32 r.1.toNat ∧ (match mode with
       | .rdn => v r.1 = (⌊v a⌋ : ℚ)
       | .rup => v r.1 = (⌈v a⌉ : ℚ)
       | .rtz => v r.1 = if 0 ≤ v a then (⌊v a⌋ : ℚ) else (⌈v a⌉ : ℚ)
       | .rne => ∃ k : Int, v r.1 = k ∧ |v r.1 - v a| ≤ 1 / 2 ∧ (|v r.1 - v a| = 1 / 2 → k % 2 = 0))) ∧
     (∀ fn, (let r := minMaxF32 false fn false a b; (r.1 = a ∨ r.1 = b) ∧ v r.1 = min (v a) (v b) ∧ r.2 = 0) ∧
       (let r := minMaxF32 true fn false a b; (r.1 = a ∨ r.1 = b) ∧ v r.1 = max (v a) (v b) ∧ r.2 = 0)) ∧
     (2 ^ (-128 : Int) < |v a| → |v a| ≤ 2 ^ (126 : Int) →
       let r := recipF32 false a
       r.2 = 0 ∧ r.1.toNat % 2 ^ 12 = 0 ∧ |v r.1 * v a - 1| < 2 ^ (-12 : Int)) ∧
     (0 < v a → let r := rsqrtF32 false a
       r.2 = 0 ∧ r.1.toNat % 2 ^ 12 = 0 ∧ 0 < v r.1 ∧ (1 - 2 ^ (-12 : Int)) ^ 2 < (v r.1) ^ 2 * v a ∧
         (v r.1) ^ 2 * v a < (1 + 2 ^ (-12 : Int)) ^ 2) ∧
     (∀ k : Int, (-149 ≤ k → k < 128 → v a = k → v (exp2F32 false a).1 = 2 ^ k ∧ (exp2F32 false a).2 = 0) ∧
       (v a = 2 ^ k → v (log2F32 false a).1 = k ∧ (log2F32 false a).2 = 0))) ∧
   (∀ (mode : RMode) (fz : Bool) (a b : W32),
     let nan (x : W32) : Bool := decide (0x7F800000 < x.toNat % 2 ^ 31)
     let sig (x : W32) : Bool := nan x && !x.getLsbD 22
     let bad (l : List W32) : W32 × FlagSet := (0x7FC00000, if l.any sig then flagNV else 0)
     (nan a || nan b → addF32 mode fz a b = bad [a, b] ∧ subF32 mode fz a b = bad [a, b] ∧ mulF32 mode fz a b = bad [a, b]) ∧
     (nan a → rsqrtF32 fz a = bad [a] ∧ recipF32 fz a = bad [a] ∧ exp2F32 fz a = bad [a] ∧ log2F32 fz a = bad [a] ∧
       scaleF32 mode fz a b = bad [a] ∧ integralF32 mode fz a = bad [a])) ∧
   addF32 .rne false 0x7F800000 0xFF800000 = (0x7FC00000, flagNV) ∧ mulF32 .rne false 0 0x7F800000 = (0x7FC00000, flagNV) ∧
   fmaF32 .rne false 0 0x7F800000 0x7FC00000 = (0x7FC00000, flagNV) ∧
   addF32 .rne false 0x3F800000 0x33800000 = (0x3F800000, flagNX) ∧ addF32 .rup false 0x3F800000 0x33800000 = (0x3F800001, flagNX) ∧
   addF32 .rdn false 0xBF800000 0xB3800000 = (0xBF800001, flagNX) ∧
   mulF32 .rne false 0x5F800000 0x5F800000 = (0x7F800000, flagOF ||| flagNX) ∧
   scaleF32 .rne false 3 64 = (0x15C00000, 0) ∧ scaleF32 .rne false 0x3FC00000 (BitVec.ofInt 32 (-149)) = (2, flagUF ||| flagNX) ∧
   scaleF32 .rtz false 0x3FC00000 (BitVec.ofInt 32 (-149)) = (1, flagUF ||| flagNX) ∧
   addF32 .rne true 1 0x80000002 = (0, 0) ∧ mulF32 .rne true 0x00800000 0x3F000000 = (0, flagUF ||| flagNX) ∧
   rsqrtF32 false 0x41100000 = (0x3EAAB000, 0) ∧ rsqrtF32 false 0x80000000 = (0xFF800000, flagDZ) ∧
   rsqrtF32 false 0xBF800000 = (0x7FC00000, flagNV) ∧ recipF32 false 0 = (0x7F800000, flagDZ) ∧
   recipF32 false 0xFF800000 = (0x80000000, 0) ∧ recipF32 false 0x00200000 = (0x7F800000, flagOF) ∧
   exp2F32 false 0x43000000 = (0x7F800000, flagOF) ∧ exp2F32 false 0xC3160000 = (0, flagUF) ∧
   log2F32 false 0 = (0xFF800000, flagDZ) ∧ log2F32 false 0xBF800000 = (0x7FC00000, flagNV) ∧
   splitF32 .exp 3 = 0xFFFFFF6C ∧ splitF32 .man 3 = 0x3FC00000 ∧ classF32 3 = 0x20 ∧
   minMaxF32 false .num false 0 0x80000000 = (0x80000000, 0) ∧ minMaxF32 true .num false 0x7FC00000 5 = (5, 0) ∧
   minMaxF32 true .nan false 0x7FC00000 5 = (0x7FC00000, 0) ∧
   (∀ (fn : SgnFn) (a b : W32) (k : Nat), k < 31 → (signF32 fn a b).getLsbD k = a.getLsbD k) ∧
   (∀ a b : W32, (signF32 .cpy a b).msb = b.msb ∧ (signF32 .neg a b).msb = !b.msb ∧ (signF32 .xor a b).msb = (a.msb != b.msb))) ∧
  ((∀ (src dst : NumFmt) (fs fd : FloatFmt) (mode : RMode) (ce : Bool) (a b : W32), floatOf src = some fs → floatOf dst = some fd →
     (src.isBlock && dst.isBlock) = false → (src.isBlock || dst.isBlock) = false ∨ b.toNat % 256 ≠ 255 →
     finPat fs (a.toNat % 2 ^ fs.width) →
     let s : Int := (b.toNat % 256 : Nat)
     let q : ℚ := patVal fs a.toNat * 2 ^ (if src.isBlock then s - 127 else if dst.isBlock then 127 - s else 0)
     |q| ≤ patVal fd fd.maxBits → RoundsTo fd mode q (convert src dst mode ce a b).1.toNat) ∧
   (∀ (fn : PackFn) (mode : RMode) (ce : Bool) (old a b : W32) (k : Nat), k < 32 →
     let w := match fn with | .bf16 => 16 | .f16 => 16 | .t2 => 2 | _ => 8
     let i := b.toNat % (32 / w)
     let value : W32 := match fn with
       | .bf16 => (convert .f32 .bf16 mode ce a 0).1
       | .f16 => (convert .f32 .f16 mode ce a 0).1
       | .e4m3 => (convert .f32 .e4m3 mode ce a 0).1
       | .e5m2 => (convert .f32 .e5m2 mode ce a 0).1
       | .i8 => BitVec.ofInt 32 (max (-128) (min 127 a.toInt))
       | .t2 => if 0 < a.toInt then 1 else if a.toInt < 0 then 3 else 0
     (packField fn mode ce old a b).1.getLsbD k =
       if w * i ≤ k ∧ k < w * i + w then value.getLsbD (k - w * i) else old.getLsbD k) ∧
   (∀ (fn : PackFn) (ff : FloatFmt) (mode : RMode) (a b : W32), floatOf (packFmt fn).1 = some ff →
     let x := a.toNat / 2 ^ (ff.width * (b.toNat % (32 / ff.width))) % 2 ^ ff.width
     finPat ff x → patVal fp32 (unpackField fn mode a b).1.toNat = patVal ff x ∧ (unpackField fn mode a b).2 = 0) ∧
   (∀ (fn : HalfFn) (mode : RMode) (ce : Bool) (a b c : W32) (i : Nat), i < 2 →
     let f := match fn with | .bf16 => bf16 | .f16 => fp16
     let at_ (x : W32) : Nat := x.toNat / 2 ^ (16 * i) % 2 ^ 16
     let q := patVal f (at_ a) * patVal f (at_ b) + patVal f (at_ c)
     finPat f (at_ a) → finPat f (at_ b) → finPat f (at_ c) → |q| ≤ patVal f f.maxBits →
     RoundsTo f mode q (at_ (halfFma fn mode ce a b c).1)) ∧
   (∀ (fn : Dot4Fn) (f : FloatFmt) (mode : RMode) (ce : Bool) (a b c : W32), (fn = .e4m3 ∧ f = e4m3) ∨ (fn = .e5m2 ∧ f = e5m2) →
     let at_ (x : W32) (i : Nat) : Nat := x.toNat / 2 ^ (8 * i) % 2 ^ 8
     let q := patVal fp32 c.toNat + patVal f (at_ a 0) * patVal f (at_ b 0) + patVal f (at_ a 1) * patVal f (at_ b 1) +
       patVal f (at_ a 2) * patVal f (at_ b 2) + patVal f (at_ a 3) * patVal f (at_ b 3)
     (∀ i, i < 4 → finPat f (at_ a i) ∧ finPat f (at_ b i)) → finPat fp32 c.toNat → |q| ≤ patVal fp32 0x7F7FFFFF →
     RoundsTo fp32 mode q (dot4 fn mode ce a b c).1.toNat) ∧
   (∀ (mode : RMode) (ce : Bool) (a b c : W32),
     let byte (x : W32) (i : Nat) : Int := (BitVec.ofNat 8 (x.toNat / 2 ^ (8 * i))).toInt
     let code (i : Nat) : Int := match a.toNat / 2 ^ (2 * i) % 4 with | 1 => 1 | 3 => -1 | _ => 0
     let cut (x : Int) : Int := max (-2 ^ 31) (min (2 ^ 31 - 1) x)
     (dot4 .i8 mode ce a b c).1.toInt = cut (c.toInt + byte a 0 * byte b 0 + byte a 1 * byte b 1 + byte a 2 * byte b 2 +
       byte a 3 * byte b 3) ∧
     (dot4 .t2 mode ce a b c).1.toInt = cut (c.toInt + code 0 * byte b 0 + code 1 * byte b 1 + code 2 * byte b 2 +
       code 3 * byte b 3) ∧
     t2Select a b c = (if a.toNat % 4 = 1 then b else if a.toNat % 4 = 3 then c else 0,
       if a.toNat % 4 = 2 then flagTBAD else 0)) ∧
   convert .f32 .bf16 .rne false 0x43960000 0 = (0x4396, 0) ∧ convert .f32 .e4m3 .rne false 0x43960000 0 = (0x79, flagNX) ∧
   convert .f32 .e5m2 .rne false 0x43960000 0 = (0x5D, flagNX) ∧ convert .f32 .i8 .rne false 0x43960000 0 = (0x7F, flagSAT) ∧
   convert .f32 .e4m3 .rne false 0x43FA0000 0 = (0x7F, flagOF ||| flagNX) ∧
   convert .f32 .e4m3 .rne true 0x43FA0000 0 = (0x7E, flagCLP ||| flagNX) ∧ convert .f32 .e4m3 .rne false 0x3B800000 0 = (0x02, 0) ∧
   convert .f32 .i8 .rne false 0x3B800000 0 = (0, flagNX) ∧ convert .f32 .f16 .rne false 0x80000000 0 = (0x8000, 0) ∧
   convert .f32 .i8 .rne false 0x7FC00000 0 = (0, flagNV) ∧ convert .f32 .e5m2 .rne false 0x7FC00000 0 = (0x7E, 0) ∧
   convert .bs8e .f32 .rne false 0x38 0xFF = (0x7FC00000, 0) ∧ convert .f32 .bs8e .rne false 0xBF800000 0xFF = (0xFF, flagNV))

/-- R237: a line that an L1 with room takes in from its point of coherence changes no byte that any core reads. R12, R126,
R237: bytes stored by a core whose L1 holds their lines, or stored past it, read back for that core as they were stored; every
other byte reads for every core as before, and where no copy goes, a stored global byte does so for the others. -/
def Obligations.FillsAndStoredBytes : Prop :=
  (∀ (s : State) (core ctx line : Nat) (c : Core), s.cores.get core = some c → c.l1.length < c.l1Capacity →
     SameBytes s (s.ensure core ctx line false) (fun _ => false) ∧
       (((s.ensure core ctx line false).cores.get core).bind (fun c => c.copy? line)).isSome = true) ∧
  (∀ (s : State) (core ctx gid : Nat) (l : List Loc) (b : List Byte), memsOk s = true → l.Nodup → b.length = l.length →
     Held s core l → (∀ x ∈ l, Exists s x) →
     let t := s.writeBytes core ctx gid .normal l b
     (∀ (k : Nat) (x : Loc) (y : Byte), l[k]? = some x → b[k]? = some y → t.readLoc core x = y) ∧
       SameBytes s t (fun x => l.contains x) ∧ (∀ k, k ≠ core → ∀ a, t.readLoc k (.spa a) = s.readLoc k (.spa a)))

/-- The frame of a plain store (ST, STS): where it is performed at issue, is no release, and the L1 holds its lines, every
byte outside those that its lanes' addresses resolve to reads for every core as before; no other register of any group
changes, and of the device no task, command, edge, context, generation, queue, tile or record: of a cluster and a die no more
than the stored bytes and the translations that the access caches (R446). -/
def Obligations.StoreFrame : Prop :=
  ∀ (s t : State) (w : Who) (i : Instr) (x : MArgs) (a : AccForm) (l : List (LaneAccess × List Loc)), Issues s w →
    accForm i = some a → opMArgs i = some x → a.action = .store → AccessReady s w i x a → x.la = 0 →
    w.f.afterJoin = false → x.cm = Consumers.none → a.attrs.order = .relaxed → a.attrs.hint = .normal →
    s.overlapsSide w.gid w.g.who (s.lanesOf w i x a.scalar) a.bytes = false →
    s.resolveLanes w.gid w.g a (s.lanesOf w i x a.scalar) = .ok l → Held s w.g.core (l.flatMap (·.2)) →
    exec i s = .next t →
    SameBytes s t (fun y => (l.flatMap (·.2)).contains y) ∧ t.tasks = s.tasks ∧ t.ctxs = s.ctxs ∧ t.market = s.market ∧
      t.fe = s.fe ∧ t.mgmt = s.mgmt ∧ t.halves = s.halves ∧ t.edges = s.edges ∧ t.cmds = s.cmds ∧ t.colls = s.colls ∧
      (∀ k c, s.clusters.get k = some c → ∃ sram tlb, t.clusters.get k = some { c with sram := sram, tlb := tlb }) ∧
      ∀ k d, s.dies.get k = some d → ∃ banks nested, t.dies.get k = some { d with banks := banks, nested := nested }

/-- R129, R130: PREF drops every lane that it cannot prefetch and goes on; LEA puts base, signed index and offset, summed over
64 bits, into the register pair D of each active lane. -/
def Obligations.AddressForms : Prop :=
  ∀ (s : State) (w : Who) (x : MArgs), Issues s w →
    let addr (l : Nat) : W64 := s.srcBase w x.a l + BitVec.ofInt 64 x.off.toInt
    let lanes := (List.range 32).filter (w.active x.msk).getLsbD
    (s.heldUnits w.g.core < 4 → s.logged w.g.core < 48 → ∀ fn,
      exec (.pref fn x) s = doneIn ((lanes.foldl (fun t l => t.prefetch w fn (addr l)) s).advance w)) ∧
    (∀ n : BitVec 8, x.d = .v n → x.cm = ⟨true, false, false, false, false, false⟩ → w.g.unprotected (n.toNat + 1) = false →
      Passes s w ⟨x.cm, x.d, 0, queuesIn [x.b], w.active x.msk⟩ → queuesIn [x.b] = [] →
      let val (l : Nat) : W64 := addr l + BitVec.ofInt 64 (s.srcV w 0 x.b l).toInt
      ∃ t h, exec (.lea x) s = .next t ∧ t.groups.get w.gid = some h ∧ h.s = w.g.s ∧ t.mem = s.mem ∧
        (∀ k l, l < 32 → h.lane k l =
          if (w.active x.msk).getLsbD l = true ∧ k = n.toNat then (val l).setWidth 32
          else if (w.active x.msk).getLsbD l = true ∧ k = n.toNat + 1 then BitVec.ofNat 32 ((val l).toNat / 2 ^ 32)
          else w.g.lane k l))

/-! ### Engines -/

/-- R199, R241-R244, R249, R253-R256: outside a region, a copy of no bytes only goes on; CPY and CPY2D whose ranges pass their
checks and share no byte join the open batch, after the group's earlier accesses, the dirty lines of its team in its L1
cleaned; BATCH closes the open batch under the next number and returns it; WAITB and WAITC go on once what they name is
complete, dropping the lines that it wrote; WAITB .test returns 1 where it is and 0 where it is not; GTH and SCT are accepted
with the element and slot address of each active lane. R261, R262: COLL outside a region, with every earlier access of the
group performed and its record, source and destination in order and mapped, arrives at the open generation of its record that
its rank has not joined, or opens one; the arrival carries the source's words as they are after the dirty lines of its team
were cleaned, and counts against WAITC .coll. -/
def Obligations.CopyGatherAndCollective : Prop :=
  (∀ (s : State) (w : Who) (x : Args), Issues s w →
     let a := s.srcS w x.imm x.a
     let b := s.srcS w x.imm x.b
     let c := s.srcS w x.imm x.c
     let joins (l : List Span) := doneIn (State.advance { (s.cleanTeam w.g.core w.gid).updGroup w.gid (fun g =>
         { g with eng := { g.eng with openBatch := g.eng.openBatch ++ [⟨s.nextId, .spans l, none, none, false⟩] } })
       with nextId := s.nextId + 1 } w)
     let room := s.settled w.gid = true ∧ s.copiesOf w.g.core < 64
     (w.g.tryR = none →
       (c = 0 → exec (.cpy x) s = doneIn (s.advance w)) ∧
       (c ≠ 0 → room → s.engineCheck w.gid w.g a c.toNat true = none → s.engineCheck w.gid w.g b c.toNat false = none →
         (∀ k, ¬ (a.toNat ≤ k ∧ k < a.toNat + c.toNat ∧ b.toNat ≤ k ∧ k < b.toNat + c.toNat)) →
         exec (.cpy x) s = joins [⟨a, b, c.toNat⟩]) ∧
       (let n := x.imm.toNat % 2 ^ 16
        let rows := x.imm.toNat / 2 ^ 16
        let ss : W64 := (BitVec.ofNat 32 c.toNat).signExtend 64
        let ds : W64 := (BitVec.ofNat 32 (c.toNat / 2 ^ 32)).signExtend 64
        let l := (List.range rows).map (fun i => (⟨a + BitVec.ofNat 64 i * ds, b + BitVec.ofNat 64 i * ss, n⟩ : Span))
        (rows = 0 ∨ n = 0 → exec (.cpy2d x) s = doneIn (s.advance w)) ∧
        (rows ≠ 0 → n ≠ 0 → room →
          s.copyFail w (envelope (l.map (·.dst)) n).1 (envelope (l.map (·.dst)) n).2 (envelope (l.map (·.src)) n).1
            (envelope (l.map (·.src)) n).2 = none → exec (.cpy2d x) s = joins l)) ∧
       (s.settled w.gid = true → s.gathersOf w.g.core < 16 → w.g.eng.gth < 255 →
         let lanes (n : Nat) := ((List.range 32).filter (w.active x.msk).getLsbD).map (fun l =>
           (l, s.srcBase w x.a l, b + BitVec.ofNat 64 (n * l)))
         let starts (scatter : Bool) (n : Nat) := doneIn (State.advance { (s.cleanTeam w.g.core w.gid).updGroup w.gid (fun g =>
             { g with eng := { g.eng.begin_ .gth with
                 gathers := g.eng.gathers ++ [⟨s.nextId, scatter, n, lanes n, none⟩] } })
           with nextId := s.nextId + 1 } w)
         (s.gatherFail w false 4 (lanes 4) = none → exec (.gth .b32 x) s = starts false 4) ∧
         (s.gatherFail w false 8 (lanes 8) = none → exec (.gth .b64 x) s = starts false 8) ∧
         (s.gatherFail w true 4 (lanes 4) = none → exec (.sct .b32 x) s = starts true 4) ∧
         (s.gatherFail w true 8 (lanes 8) = none → exec (.sct .b64 x) s = starts true 8))) ∧
     (Passes s w (scalShape x) → w.g.eng.closed.length < 32767 →
       let n := w.g.eng.batchNo + 1
       let live := w.g.eng.openBatch.filter (fun c => !c.done)
       exec (.batch x) s = doneIn (((s.updGroup w.gid (fun g =>
         { g with eng := { g.eng with
             batchNo := n, openBatch := [],
             closed := if live = [] then g.eng.closed else g.eng.closed ++ [(n, live)] } })).putScalar w (scalShape x)
               (BitVec.ofNat 64 n.toNat)).advance w)) ∧
     (let n := BitVec.ofNat 16 a.toNat
      let upTo (q : BitVec 16 × List CopyOp) : Prop := (n - q.1).toNat < 2 ^ 15
      ((∀ q ∈ w.g.eng.closed, upTo q → ∀ k ∈ q.2, k.done = true ∧ k.refused = none) →
        exec (.waitb x) s = doneIn ((s.dropWrote w.gid w.g).advance w) ∧
        (Passes s w (scalShape x) →
          exec (.waitbTest x) s = doneIn (((s.dropWrote w.gid w.g).putScalar w (scalShape x) 1).advance w))) ∧
      ((∃ q ∈ w.g.eng.closed, upTo q ∧ ∃ k ∈ q.2, k.done = false) → Passes s w (scalShape x) →
        exec (.waitbTest x) s = scalarDone s w x 0)) ∧
     (∀ fn, w.g.eng.count fn ≤ x.imm.toNat % 2 ^ 8 → w.g.eng.owed = [] →
       exec (.waitc fn x) s = doneIn ((s.dropWrote w.gid w.g).advance w))) ∧
  (∀ (s : State) (w : Who) (x : Args) (fn : CollFn) (r l : List Loc), Issues s w → w.g.tryR = none →
     let rec_ := s.srcS w x.imm x.a
     let src := s.srcS w x.imm x.b
     let dst := s.srcS w x.imm x.c
     let count := x.imm.toNat % 2 ^ 16
     let rank := x.imm.toNat / 2 ^ 16 % 2 ^ 12
     let s1 := (State.cleanTeam { s with nextId := s.nextId + 1 } w.g.core w.gid).noteColl w.g
       ⟨s.nextId, w.fid, fn, rec_, src, dst, count, rank, none⟩
     let npart := s1.homeNat r 0 4
     let root := s1.homeNat r 4 4
     s.settled w.gid = true → rec_.toNat % 64 = 0 → s.engineCheck w.gid w.g rec_ 64 true = none → s.engineCheck w.gid w.g src (4 * count) false = none →
     s.engineCheck w.gid w.g dst (4 * count) true = none → s1.engineCheck w.gid w.g dst (collBytes fn count npart) true = none →
     s1.engineLocs w.gid w.g rec_ 64 .store = .ok r → 0 < npart → npart ≤ 4096 → root < npart → rank < npart →
     s1.engineLocs w.gid w.g src (4 * count) .load = .ok l → w.g.eng.coll < 255 →
     (s.colls.filter (fun e => e.2.record == recordKey r)).length < 2 → (s.colls.map (·.1)).Nodup →
     ∃ t h id c d, exec (.coll fn x) s = .next t ∧ t.groups.get w.gid = some h ∧ h.eng.coll = w.g.eng.coll + 1 ∧
       t.colls.get id = some c ∧ c.record = recordKey r ∧
       c.arrivals = d ++ [⟨rank, w.gid, s.nextId, dst, s1.readWords l⟩] ∧
       (∀ e ∈ d, e.rank ≠ rank) ∧ h.eng.collOrder = w.g.eng.collOrder ++ [(s.nextId, false)] ∧ h.idem = false)

/-- R264-R266: RPUSH and RPOP outside a region, behind the group's earlier accesses that come first and with their control
block, ring and buffer in order and mapped, complete: RPUSH with room for its record, and any padding, and no older request
writes the record and returns its position; RPOP with a ready record and no older request moves it out and returns its header.
The .nb forms return all ones, or 0, where they would have to wait, behind an older request of the ring too (the model's
reading, log 47). -/
def Obligations.RingForms : Prop :=
  ∀ (s : State) (w : Who) (x : Args) (r : RingAt) (l : List Loc), Issues s w → w.g.tryR = none →
    let ctl := s.srcS w x.imm x.a
    let buf := s.srcS w x.imm x.b
    let c := (s.srcS w x.imm x.c).toNat
    let s0 := s.freshBlock w ctl
    let key := ringKey r.ctl
    Passes s w (scalShape x) → s.ringCtlFail w ctl = none →
    (∀ fn, s.settled w.gid = true → c < 2 ^ 24 → s.engineCheck w.gid w.g buf c false = none →
      s0.openRing w (.rpush fn x) ctl = .ok r → recordBytes c ≤ r.r.size / 2 → s0.engineLocs w.gid w.g buf c .load = .ok l →
      let left := r.r.size - r.r.tail % r.r.size
      let pad := if left < recordBytes c then left else 0
      let room : Prop := r.r.tail + pad + recordBytes c ≤ r.r.done + r.r.size
      (room → s0.olderRing w true key = false →
        exec (.rpush fn x) s = doneIn ((((((s0.cleanTeam w.g.core w.gid).pushRecord w r pad c (x.imm.toNat % 2 ^ 6) l).putScalar
          w (scalShape x) (BitVec.ofNat 64 (r.r.tail + pad))).spoil w).ringServed w key).advance w)) ∧
      (fn = .nb → ¬ room ∨ s0.olderRing w true key = true →
        exec (.rpush fn x) s = doneIn (((s0.putScalar w (scalShape x) (BitVec.ofInt 64 (-1))).spoil w).advance w))) ∧
    (∀ fn, s.popWaits w buf c = false → s.engineCheck w.gid w.g buf c true = none → s0.openRing w (.rpop fn x) ctl = .ok r →
      s0.olderRing w false key = false →
      let pos := s0.passSkips r (r.r.size / 8) r.r.head
      let h := s0.headerAt r pos
      let s1 := s0.l2Lines w.g.ctx false (linesOf (r.at_ pos (recordBytes (headerLen h))))
      let ready : Prop := pos < r.r.tail ∧ pos < r.r.ready
      (ready → headerLen h ≤ c →
        s1.engineLocs w.gid w.g buf (headerLen h) .store = .ok l →
        exec (.rpop fn x) s = doneIn ((((((s1.noteEngine w.g buf (headerLen h)).popRingRecord w r pos
          (headerLen h) l).acquire w.g .device).putScalar w (scalShape x) (BitVec.ofNat 64 h)).spoil w).ringServed w key
            |>.advance w)) ∧
      (fn = .nb → ¬ ready → ∃ t h, exec (.rpop fn x) s = .next t ∧ t.groups.get w.gid = some h ∧
        (∀ n : BitVec 6, x.d = .s n → x.cm = ⟨true, false, false, false, false, false⟩ → h.s? n.toNat = 0)))

/-- R320, R322, R325, R330, R334: outside a region a matrix form whose format, record and spans pass their checks is accepted
into its group's queue with fmt and its operands as they are at issue, where fewer than 32 forms wait there and WAITC .mx
counts fewer than 255; the forms that access memory wait for the group's earlier accesses and first clean its team's dirty
lines. By the model's choice MXZERO, MXLD .acc, MXST and MXEPI are accepted whatever the step formats in fmt are (log 52).
R335: with the group's earlier accesses performed, QSCALE outside a region, with its shape and rows in order and no held tile
of another format, and QCVT of a held tile of its own format, are accepted into the group's matrix queue. -/
def Obligations.MatrixForms : Prop :=
  (∀ (s : State) (w : Who) (x : Args), Issues s w → w.g.tryR = none → w.g.eng.matrix.queue.length < 32 → w.g.eng.mx < 255 →
     let a := s.srcS w x.imm x.a
     let b := s.srcS w x.imm x.b
     let c := s.srcS w x.imm x.c
     let stride : W64 := (BitVec.ofNat 32 b.toNat).signExtend 64
     let queued (s1 : State) (i : Instr) (a b c : W64) (clamp : W32) (f : Nat) :=
       doneIn (State.advance { s1.updGroup w.gid (fun g =>
           { g with eng := { g.eng.begin_ .mx with
               matrix := { g.eng.matrix with queue := g.eng.matrix.queue ++ [⟨s1.nextId, i, w.f.fmt, clamp, f, a, b, c, none⟩] } } })
         with nextId := s1.nextId + 1 } w)
     let clean := s.cleanTeam w.g.core w.gid
     let rows (k : Nat) : Nat := if x.imm.toNat / 2 ^ k % 2 = 0 then 32 else 16
     (stepShape w.f.fmt ≠ none → exec (.mxstep x) s = queued s (.mxstep x) 0 0 0 0 0) ∧
     (stepShape w.f.fmt = none → exec (.mxstep x) s = trapsIn s w 0x15 none ∧ exec (.mxloop x) s = trapsIn s w 0x15 none) ∧
     (∀ sh, stepShape w.f.fmt = some sh →
       let span (base : W64) (k m bytes : Nat) : Prop :=
         s.engineCheck w.gid w.g base ((x.imm.toNat % 2 ^ 16 - 1) * loopField c m + (rows 18 - 1) * loopField c k + bytes)
           false = none ∧ base.toNat % 4 = 0 ∧ loopField c k % 4 = 0
       s.settled w.gid = true → span a 0 2 sh.aBytes → span b 1 3 sh.bBytes → exec (.mxloop x) s = queued clean (.mxloop x) a b c 0 0) ∧
     (∀ fn, exec (.mxzero fn x) s = queued s (.mxzero fn x) 0 0 0 0 0) ∧
     (∀ fn n, mxldBytes fn (stepShape w.f.fmt) (rows 2) = some n → s.settled w.gid = true →
       s.rowsFail w a stride (rows 2) n false = none → exec (.mxld fn x) s = queued clean (.mxld fn x) a stride 0 0 0) ∧
     (s.settled w.gid = true → s.rowsFail w a stride (rows 2) (4 * rows 2) true = none →
       exec (.mxst .f32 x) s = queued clean (.mxst .f32 x) a stride 0 0 0) ∧
     (∀ clamp f ff, s.tensorRecord w (.mxst .cvt x) = .ok (clamp, f) → cvtFmt f = some ff → s.settled w.gid = true →
       s.rowsFail w a stride (rows 2) (packedBytes (fmtBits ff) (rows 2)) true = none →
       exec (.mxst .cvt x) s = queued clean (.mxst .cvt x) a stride 0 clamp f) ∧
     exec (.mxprogWr x) s = queued s (.mxprogWr x) a 0 0 0 0 ∧
     exec (.mxepi .id x) s = queued s (.mxepi .id x) 0 0 0 0 0 ∧
     exec (.mxepi .relu x) s = queued s (.mxepi .relu x) 0 0 0 0 0 ∧
     (s.settled w.gid = true → s.rowsFail w b 0 1 128 false = none →
       exec (.mxepi .sb x) s = queued clean (.mxepi .sb x) a b 0 0 0) ∧
     (∀ clamp f, s.tensorRecord w (.mxepi .clamp x) = .ok (clamp, f) → s.settled w.gid = true →
       exec (.mxepi .clamp x) s = queued clean (.mxepi .clamp x) 0 0 0 clamp f)) ∧
  (∀ (s : State) (w : Who) (x : Args) (fn : BsFn) (q : Staged), Issues s w → w.g.tryR = none →
     w.g.eng.matrix.queue.length < 32 → w.g.eng.mx < 255 → s.settled w.gid = true →
     let rows := x.imm.toNat % 2 ^ 7
     let blocks := x.imm.toNat / 2 ^ 8 % 2 ^ 4
     let a := s.srcS w x.imm x.a
     (1 ≤ rows → rows ≤ 64 → 1 ≤ blocks → blocks ≤ 8 →
       (∀ h, s.stagedFor w.gid w.g = some h → h.fn = fn) →
       s.rowsFail w a (s.strideOf w x) rows (128 * blocks) false = none →
       ∃ t h, exec (.qscale fn x) s = .next t ∧ t.groups.get w.gid = some h ∧ h.eng.mx = w.g.eng.mx + 1 ∧
         h.eng.matrix.queue.map (·.instr) = w.g.eng.matrix.queue.map (·.instr) ++ [.qscale fn x]) ∧
     (s.stagedFor w.gid w.g = some q → q.fn = fn →
       s.rowsFail w a (s.strideOf w x) q.rows (33 * q.blocks) true = none →
       ∃ t h, exec (.qcvt fn x) s = .next t ∧ t.groups.get w.gid = some h ∧ h.eng.mx = w.g.eng.mx + 1 ∧
         h.eng.matrix.queue.map (·.instr) = w.g.eng.matrix.queue.map (·.instr) ++ [.qcvt fn x]))

/-- R131, R196, R200-R202: with every earlier access of the group performed, FENCE cleans and invalidates as its scope asks
and goes on; CMAINT of a range in the global window and the task's regions maintains every core that its level reaches; MWAIT
whose word already ends the wait is an acquire at its scope where groups share the word's level. -/
def Obligations.OrderingForms : Prop :=
  ∀ (s : State) (w : Who) (x : Args), Issues s w →
    let a := s.srcS w 0 x.a
    let n := (s.srcS w 0 x.b).toNat
    (s.settled w.gid = true →
      (∀ sc, exec (.fence sc x) s = doneIn (((s.release w.gid w.g sc).acquire w.g sc).advance w)) ∧
      (∀ op lvl, w.g.tryR = none ∨ op = .cln → n ≠ 0 → a.toNat + n ≤ 2 ^ 56 →
        regionFail (s.launchOf w.g.task) a n (decide (op ≠ .cln)) = none →
        exec (.cmaint op lvl x) s = doneIn (((s.reach w.g.core lvl).foldl (fun t k => t.maintainCore op
          (s.mapRange w.g.ctx w.g.core (a.toNat + n) (n / 65536 + 2) a.toNat) k) s).advance w))) ∧
    (∀ op lvl, w.g.tryR = none ∨ op = .cln → n = 0 → exec (.cmaint op lvl x) s = doneIn (s.advance w)) ∧
    (∀ fn v, s.mwaitCheck w a = .ok () → s.heldUnits w.g.core < 4 →
      orderedBehind s.ops w.gid w.g.who ⟨4, .load, ⟨.group, .acquire, .normal, false, false⟩, true⟩
        [⟨w.f.lowLane, a, [], 0⟩] = false →
      (w.f.afterJoin = true → s.pathsPending w.gid = false) →
      let s0 := s.afterPaths w
      s0.readWord w a = .value v →
      (match fn with | .ne => v ≠ (s.srcS w 0 x.b).setWidth 32 | .eq => v = (s.srcS w 0 x.b).setWidth 32) →
      let scope := scopeOf (x.imm.toNat / 2 ^ 16 % 2 ^ 3)
      (sharedLevel a = false → exec (.mwait fn x) s = doneIn (s0.advance w)) ∧
      (sharedLevel a = true → apertureOf a ≠ .global → exec (.mwait fn x) s = doneIn ((s0.acquire w.g scope).advance w)) ∧
      (apertureOf a = .global → ∃ p, s0.spa w.g.ctx w.g.core a.toNat .load = .ok p ∧ exec (.mwait fn x) s =
        doneIn (((s0.dropStale w.g.core (p / 128)).acquire w.g scope).advance w)))

/-- R197, R198: an arrival that the rule allows, after every earlier access of the group, raises the barrier's count, or, as
the last one expected, starts its next phase with a count of 0; BARA goes on at once, BAR once the phase is over, without
arriving again, BARW where the phase of the group's latest arrival is over; a BAR of handler code is another one than the
interrupted BAR at its PC. An arrival that R198 forbids, and a BARW without an arrival, raise 0x22. -/
def Obligations.BarrierForms : Prop :=
  ∀ (s : State) (w : Who) (x : Args) (t : Team), Issues s w → w.g.tryR = none → s.teams.get w.g.team = some t →
    let id := x.imm.toNat % 2 ^ 4
    let b := barrierAt t id
    let n := if x.imm.toNat / 2 ^ 8 % 2 ^ 6 = 0 then (s.launchOf w.g.task).ncomp else x.imm.toNat / 2 ^ 8 % 2 ^ 6
    let allowed : Prop := w.holdsAll = true ∧ n ≤ (s.launchOf w.g.task).ncomp ∧ (b.count = 0 ∨ b.expected = n) ∧
      w.gid ∉ b.arrived
    let next (u : State) (c : Barrier) : Prop := ∃ t', u.teams.get w.g.team = some t' ∧ barrierAt t' id = c
    let fresh : Prop := ∀ z ∈ w.g.barWait, z.pc = w.f.pc → z.hm ≠ w.g.hm
    let left := State.advance ((s.acquire w.g .team).updGroup w.gid (fun g =>
      { g with barWait := g.barWait.filter (fun z => !(z.pc == w.f.pc && z.hm == w.g.hm)) })) w
    (allowed → s.settled w.gid = true →
      (b.count + 1 = n →
        (∃ u, exec (.bara x) s = .next u ∧ next u ⟨b.phase + 1, 0, 0, []⟩ ∧ .barrierPhaseComplete w.g.team id ∈ u.due) ∧
        (fresh → ∃ u h, exec (.bar x) s = .next u ∧ next u ⟨b.phase + 1, 0, 0, []⟩ ∧ u.groups.get w.gid = some h ∧
          WentOn w w.f.pc.next (fun m => m) h)) ∧
      (b.count + 1 ≠ n →
        (∃ u h, exec (.bara x) s = .next u ∧ next u ⟨b.phase, b.count + 1, n, b.arrived ++ [w.gid]⟩ ∧
          u.groups.get w.gid = some h ∧ WentOn w w.f.pc.next (fun m => m) h ∧ (id, b.phase) ∈ h.arrivals) ∧
        (fresh → ∃ u h f, exec (.bar x) s = .next u ∧ next u ⟨b.phase, b.count + 1, n, b.arrived ++ [w.gid]⟩ ∧
          u.groups.get w.gid = some h ∧ h.frag? w.fid = some f ∧ f.status = .waiting (.bar id b.phase) ∧
          f.pc = w.f.pc))) ∧
    (¬ allowed → (fresh → exec (.bar x) s = trapsIn s w 0x22 none) ∧ exec (.bara x) s = trapsIn s w 0x22 none) ∧
    (∀ z, w.g.barWait.find? (fun z => decide (z.pc = w.f.pc ∧ z.bar = id ∧ z.hm = w.g.hm)) = some z → b.phase ≠ z.phase →
      exec (.bar x) s = doneIn left) ∧
    (∀ p, w.g.arrivals.find? (fun e => e.1 == id) = some (id, p) → w.holdsAll = true → b.phase ≠ p →
      exec (.barw x) s = doneIn left) ∧
    (w.g.arrivals.find? (fun e => e.1 == id) = none → exec (.barw x) s = trapsIn s w 0x22 none)

/-- R267-R270: outside a region, with every earlier access performed, ENQ of a valid launch record whose regions lie inside
its parent's queues the task at its team, where fewer than four wait there; .nb returns 0, or 1 where four wait. TRIG with the
group's engines quiet marks the group triggered. JOIN of a counter that has reached its target is an acquire, and .nb returns
1 or 0. -/
def Obligations.TaskForms : Prop :=
  ∀ (s : State) (w : Who) (x : Args), Issues s w →
    let a := s.srcS w x.imm x.a
    (w.g.tryR = none → s.settled w.gid = true →
      (∀ (t : Team) (l : List Loc) (r : Launch), Passes s w (scalShape x) → s.teams.get w.g.team = some t →
        s.enqFail w a = none →
        let s1 := (s.release w.gid w.g .device).acquire w.g .device
        s1.engineLocs w.gid w.g a 512 .load = .ok l →
        let s2 := (s1.noteEngine w.g a 512).l2Lines w.g.ctx false (linesOf l)
        l.any (isPoisoned s2.mem.poison) = false → parseLaunch (l.map s2.homeByte) = some r → childOk (s.launchOf w.g.task) r = true →
        (t.pendingQ.length < 4 →
          exec (.enq .nb x) s = doneIn ((((s2.queueLaunch w r).putScalar w (scalShape x) 0).spoil w).advance w) ∧
          (t.olderEnq w.gid w.fid = false →
            exec (.enq .blocking x) s = doneIn (((s2.queueLaunch w r).spoil w).advance w))) ∧
        (4 ≤ t.pendingQ.length →
          exec (.enq .nb x) s = doneIn (((s2.putScalar w (scalShape x) 1).spoil w).advance w))) ∧
      (w.g.eng.quiet = true → (∀ p g, w.g.partner = some p → s.groups.get p = some g → g.eng.quiet = true) →
        exec (.trig x) s = doneIn (((((s.release w.gid w.g .device).updGroup w.gid (fun g => { g with triggered := true })).spoil
          w).lookTrigger w.g.task).advance w))) ∧
    (∀ b : List Byte, Passes s w (scalShape x) → s.joinFail w a = none → s.droppedCause w = none →
      s.heldUnits w.g.core < 4 →
      orderedBehind s.ops w.gid w.g.who ⟨8, .load, ⟨.device, .acquire, .normal, false, false⟩, true⟩
        [⟨w.f.lowLane, a, [], 0⟩] = false →
      (w.f.afterJoin = true → s.pathsPending w.gid = false) →
      let s0 := s.afterPaths w
      s0.readAt w a 8 = .value b →
      let met : Prop := (s.srcS w x.imm x.b).toNat ≤ bytesNat b
      (met → exec (.join .blocking x) s = doneIn ((s0.acquire w.g .device).advance w) ∧
        exec (.join .nb x) s = doneIn (((s0.acquire w.g .device).putScalar w (scalShape x) 1).advance w)) ∧
      (¬ met → exec (.join .nb x) s = scalarDone s0 w x 0))

/-- R203-R206, R477: GROW within the limits of 32 blocks a group and 48 an octet holding, with the blocks free and no older
request, adds zeroed blocks to the window and returns 0 (.nb); .nb returns 1 where it would have to wait and 2 beyond a limit,
where the blocking form raises 0x0F. SHRINK gives blocks back. QCTL .cnt returns the masks of full and of non-empty queues,
and .rst empties a queue. -/
def Obligations.BlockForms : Prop :=
  ∀ (s : State) (w : Who) (x : Args), Issues s w →
    let n := (s.srcS w 0 x.a).toNat
    let within : Prop := w.g.blocks + n ≤ 32 ∧ s.blocksHeld w.g + n ≤ 48
    let free : Prop := n ≤ s.freeIn w.g.core w.g.octet ∧ s.olderWaiters w = false
    let grown := (s.takeBlocks w n).updGroup w.gid (fun g => g.addBlocks n)
    (w.g.tryR = none → Passes s w (scalShape x) →
      (n ≠ 0 → within → free → exec (.grow .blocking x) s = doneIn (grown.advance w) ∧
        exec (.grow .nb x) s = doneIn ((grown.putScalar w (scalShape x) 0).advance w)) ∧
      (n = 0 → exec (.grow .blocking x) s = doneIn (s.advance w) ∧ exec (.grow .nb x) s = scalarDone s w x 0) ∧
      (n ≠ 0 → within → ¬ free → exec (.grow .nb x) s = scalarDone s w x 1) ∧
      (n ≠ 0 → ¬ within → exec (.grow .nb x) s = scalarDone s w x 2 ∧
        exec (.grow .blocking x) s = trapsIn s w 0x0F none)) ∧
    (w.g.tryR = none →
      (n = 0 → exec (.shrink x) s = doneIn (s.advance w)) ∧
      (n ≠ 0 → n < w.g.blocks → s.pendingRegs w.gid = false →
        exec (.shrink x) s = doneIn ((((s.updGroup w.gid (fun g =>
          { g with blocks := g.blocks - n, v := g.v.take (8 * (g.blocks - n)) })).dropReturned w.gid
            (w.g.blocks - n)).freeBlocks w.g.core w.g.octet n).advance w)) ∧
      (w.g.blocks ≤ n → n ≠ 0 → exec (.shrink x) s = trapsIn s w 0x0F none)) ∧
    (w.g.tryR.isSome → (∀ fn, exec (.grow fn x) s = trapsIn s w 0x0C none) ∧ exec (.shrink x) s = trapsIn s w 0x0C none) ∧
    (w.g.partner.isSome →
      let q := x.imm.toNat % 2 ^ 3
      (Passes s w (scalShape x) →
        ∃ m : W64, exec (.qctlCnt x) s = scalarDone s w x m ∧
          ∀ l, l < 32 → m.getLsbD l = decide (((s.lists w q).getD l []) ≠ []) ∧
            m.getLsbD (32 + l) = decide (8 ≤ ((s.lists w q).getD l []).length)) ∧
      exec (.qctlRst x) s = doneIn (((s.setLists w q (fun _ _ => [])).queueMoved w).advance w)) ∧
    (w.g.partner = none → exec (.qctlCnt x) s = trapsIn s w 0x21 none ∧ exec (.qctlRst x) s = trapsIn s w 0x21 none)

/-- R391-R393, R400, R401: TRY at a legal label, by a fragment that holds every slice, with the checkpoint's blocks free,
opens a region that saves the s registers, fmt and the records, and writes 0 to its code register; the inner COMMIT returns
the lanes that ALIAS aborted and ends the inner level; the outermost one ends the region, returns those lanes and publishes
the buffered stores in program order, each performed at once where nothing earlier of the group is pending; ABORT aborts the
region with code 0x01 and its user byte; COMMIT and ABORT outside a region raise 0x2A. R394, R395, R397: accesses of an open
region, here of one lane. A store enters the buffer and changes no memory; where its lane's load table holds a granule that it
touches, ALIAS takes the lane's bytes out of the buffer, restores its protected registers and marks it aborted; a store that
needs a 65th line aborts with code 0x04. A load reads the group's own buffered bytes over memory's, and, with .spec, enters
its granules in the lane's table, or aborts with code 0x05 where a ninth entry would be needed. -/
def Obligations.RegionForms : Prop :=
  (∀ (s : State) (w : Who) (x : Args) (pc : Pc), Issues s w →
     let code := Operand.sNum x.d
     let regs := tryRegs x
     let need := 4 + (regs.length + 7) / 8
     (w.g.tryR = none → Lands s w (tryLabel w.f.pc x) pc → (∀ n ∈ regs, n < 8 * w.g.blocks) → w.holdsAll = true →
       s.blocksHeld w.g + need ≤ 48 → need ≤ s.freeIn w.g.core w.g.octet → s.olderWaiters w = false →
       ∃ t h r, exec (.tryOpen x) s = .next t ∧ t.groups.get w.gid = some h ∧ h.tryR = some r ∧ r.depth = 1 ∧ r.hm = w.g.hm ∧
         r.codeReg = code ∧ r.label = pc ∧ r.sregs = w.g.s ∧ r.fmt = w.f.fmt ∧ r.stack = w.f.stack ∧ r.protected_ = regs ∧
         r.buffer = [] ∧ r.stores = [] ∧ r.blocks = need ∧ h.s? code = 0 ∧ h.v = w.g.v ∧ WentOn w w.f.pc.next (fun m => m) h) ∧
     (∀ r, w.g.tryR = some r →
       (w.holdsAll = true →
         (r.depth = 2 → exec (.commit x) s = doneIn (((s.updGroup w.gid (fun g =>
           { g with tryR := some { r with depth := 1 } })).putScalar w (scalShape x) (BitVec.ofNat 64 r.aborted.toNat)).advance w)) ∧
         (r.depth = 1 →
           let s1 := ((s.updGroup w.gid (fun g => { g with tryR := none })).freeBlocks w.g.core w.g.octet r.blocks).putScalar w
             (scalShape x) (BitVec.ofNat 64 r.aborted.toNat)
           exec (.commit x) s = doneIn ((s1.publishAll w r).advance w) ∧
           (r.stores = [] → exec (.commit x) s = doneIn (s1.advance w)) ∧
           (∀ o a h t old, r.stores = [o] → o.pins = [] → o.lanes ≠ [] → (∀ y ∈ o.lanes, apertureOf y.addr ≠ .core) →
             (∀ p ∈ s.ops, p.gid ≠ w.gid) → accForm o.instr = some a → s1.groups.get w.gid = some h →
             s1.perform w.gid h o.instr a (fun _ b => b) o.lanes = .done t old →
             exec (.commit x) s = doneIn (t.advance w)))) ∧
       (w.holdsAll = false → exec (.commit x) s = trapsIn s w 0x2A none) ∧
       exec (.abort x) s = .next (s.abortGroup w.gid 0x01 (x.imm.toNat % 2 ^ 8) none).endIssue) ∧
     (w.g.tryR = none → exec (.commit x) s = trapsIn s w 0x2A none ∧ exec (.abort x) s = trapsIn s w 0x2A none)) ∧
  ((∀ (b : List (Nat × Nat × Nat × Byte)) (k : Nat × Nat) (mem y : Byte) (lane : Nat),
     bufferedByte (b ++ [(k.1, k.2, lane, y)]) k mem = y ∧
     ((∀ e ∈ b, (e.1, e.2.1) ≠ k) → bufferedByte b k mem = mem)) ∧
   ∀ (s : State) (w : Who) (i : Instr) (x : MArgs) (a : AccForm) (r : TryRegion) (y : LaneAccess) (locs : List Loc), Issues s w →
     accForm i = some a → opMArgs i = some x → w.g.tryR = some r → w.wideUnprotected i x = false → Passes s w (accShape w x a) →
     a.scalar = false → s.lanesOf w i x false = [y] → s.checkLanes w.gid w.g a.kind [y] = .ok () → s.heldUnits w.g.core < 4 →
     s.logged w.g.core < 48 → orderedBehind s.ops w.gid w.g.who a [y] = false → s.windowWaits w a [y] = false → w.f.afterJoin = false →
     s.resolveLanes w.gid w.g a [y] = .ok [(y, locs)] →
     let hit (z : Loc) (e : Nat × Nat × W64) : Prop := e.1 = y.lane ∧ e.2.1 = z.key.1 ∧ e.2.2.toNat = z.key.2 / 8
     let new := (locs.zip (dataBytes a.bytes y.data)).map (fun e => (e.1.key.1, e.1.key.2, y.lane, e.2))
     (a.action = .store → x.cm = Consumers.none →
       ((∀ z ∈ locs, ∀ e ∈ r.loads, ¬ hit z e) →
         (((r.buffer ++ new).map (fun e => (e.1, e.2.1 / 64))).eraseDups.length ≤ 64 →
           ∃ t h q, exec i s = .next t ∧ t.mem = s.mem ∧ t.groups.get w.gid = some h ∧ h.tryR = some q ∧ q.buffer = r.buffer ++ new ∧
             q.loads = r.loads ∧ q.aborted = r.aborted ∧ q.stores.length = r.stores.length + 1 ∧ h.s = w.g.s ∧ h.v = w.g.v) ∧
         (64 < ((r.buffer ++ new).map (fun e => (e.1, e.2.1 / 64))).eraseDups.length →
           exec i s = .next (s.abortGroup w.gid 0x04 0 none).endIssue)) ∧
       ((∃ z ∈ locs, ∃ e ∈ r.loads, hit z e) → (r.buffer.map (fun e => (e.1, e.2.1 / 64))).eraseDups.length ≤ 64 →
         ∃ t h q, exec i s = .next t ∧ t.mem = s.mem ∧ t.groups.get w.gid = some h ∧ h.tryR = some q ∧
           q.buffer = r.buffer.filter (fun e => e.2.2.1 != y.lane) ∧ q.aborted = r.aborted ||| oneBit 32 y.lane ∧ h.s = w.g.s ∧
           (∀ n v, y.lane < 32 → r.saved.filter (fun e => e.1 == n && e.2.1 == y.lane) = [(n, y.lane, v)] → h.lane n y.lane = v))) ∧
     (a.action = .load → ∀ s1 old,
       s.performPast w.g.buffers w.gid w.g i a (fun _ b => b) [y] = .done s1 [(y.lane, old)] →
       let val := (locs.zip old).map (fun q => bufferedByte r.buffer q.1.key q.2)
       let done (loads : List (Nat × Nat × W64)) := doneIn (((s1.updGroup w.gid (fun g =>
         { g with tryR := some { r with loads := loads } })).putLoaded w (accShape w x a) i [(y.lane, val)]).advance w)
       let gs := (locs.map (fun z => (z.key.1, z.key.2 / 8))).eraseDups.filter (fun k =>
         !r.loads.any (fun e => e.1 == y.lane && e.2.1 == k.1 && e.2.2.toNat == k.2))
       (a.attrs.spec = false → exec i s = done r.loads) ∧
       (a.attrs.spec = true →
         ((r.loads.filter (fun e => e.1 == y.lane)).length + gs.length ≤ 8 →
           exec i s = done (r.loads ++ gs.map (fun k => (y.lane, k.1, BitVec.ofNat 64 k.2)))) ∧
         (8 < (r.loads.filter (fun e => e.1 == y.lane)).length + gs.length →
           exec i s = .next (s.abortGroup w.gid 0x05 0 none).endIssue))))

/-- R393, R399, R433: a whole-group abort puts back the s registers of the checkpoint and the protected lanes that were saved,
each at its oldest saved value, writes the code and the user byte to the code register, ends the region and a handler mode
that was entered in it (log 140: one in which the region was opened goes on), and leaves one fragment with every live slice at
the abort label, with the checkpoint's fmt and records. No memory changes. -/
def Obligations.RegionAborts : Prop :=
  ∀ (s : State) (gid code user : Nat) (g : Group) (r : TryRegion), s.groups.get gid = some g → g.tryR = some r →
    g.cause = 0 → (∀ p b, g.partner = some p → s.groups.get p = some b → b.cause = 0) →
    let t := s.abortGroup gid code user none
    t.mem = s.mem ∧ ∃ h f, t.groups.get gid = some h ∧ h.tryR = none ∧ h.hm = (g.hm && r.hm) ∧ h.frags = [f] ∧ f.pc = r.label ∧
      f.fmt = r.fmt ∧ f.stack = r.stack ∧ f.slices = ~~~g.exited ∧ f.status = .ready ∧
      h.s = setAt 0 r.sregs r.codeReg (BitVec.ofNat 64 (code + 256 * user)) ∧
      (∀ n l v, l < 32 → r.saved.filter (fun e => e.1 == n && e.2.1 == l) = [(n, l, v)] → h.lane n l = v) ∧
      (∀ n l, r.saved.filter (fun e => e.1 == n && e.2.1 == l) = [] → h.lane n l = g.lane n l)

/-! ### Market and system -/

/-- R336-R339: outside a region BID writes its class's bid of the context, with the units cut at the class's capacity, and
MIGHINT sets or clears the migration hint, .on with a reach below 3 and else 0x29; BIDRD returns the bid's price or units, and
LEASE the units or the price of the present holding, of all ones for the next one before it is published. -/
def Obligations.MarketForms : Prop :=
  ∀ (s : State) (w : Who) (x : Args) (c : Ctx), Issues s w → s.ctxs.get w.g.ctx = some c →
    let a := s.srcS w x.imm x.a
    let units := (s.srcS w x.imm x.b).toNat
    let cap (cls : MktClass) : Nat := match cls with | .clu => 43 | .bank => 256 | .way => 16 | .slot => 256 | .link => 24
    let wrote (f : Ctx → Ctx) := doneIn (((s.updCtx w.g.ctx f).disarm w).advance w)
    (w.g.tryR = none →
      (∀ cls, exec (.bid cls x) s = wrote (fun d => { d with bids := d.bids.put cls ⟨a, min units (cap cls)⟩ })) ∧
      (a.toNat % 4 ≠ 3 → exec (.mighintOn x) s = wrote (fun d => { d with mig := true, reach := BitVec.ofNat 2 a.toNat })) ∧
      (a.toNat % 4 = 3 → exec (.mighintOn x) s = trapsIn s w 0x29 none) ∧
      exec (.mighintOff x) s = wrote (fun d => { d with mig := false })) ∧
    (Passes s w (scalShape x) → ∀ cls,
      (x.imm.toNat % 2 = 0 → exec (.bidrd cls x) s = scalarDone s w x (c.bids.at_ cls).price) ∧
      (x.imm.toNat % 2 = 1 → exec (.bidrd cls x) s = scalarDone s w x (BitVec.ofNat 64 (c.bids.at_ cls).units)) ∧
      (let die := coreDie w.g.core
       let sel := x.imm.toNat % 4
       let next := c.moveTo.getD c.home.toNat
       (sel = 0 → exec (.lease cls x) s = scalarDone s w x (BitVec.ofNat 64 (c.held.on c.home.toNat die cls))) ∧
       (2 ≤ sel → s.published = false → exec (.lease cls x) s = scalarDone s w x (BitVec.ofInt 64 (-1))) ∧
       (sel = 2 → s.published = true → exec (.lease cls x) s = scalarDone s w x (BitVec.ofNat 64 (c.next.on next die cls))) ∧
       (sel = 1 → c.home.toNat = die → c.held.units.at_ cls ≠ [] →
         exec (.lease cls x) s = scalarDone s w x (c.held.price.at_ cls)) ∧
       (sel = 3 → s.published = true → next = die → c.next.units.at_ cls ≠ [] →
         exec (.lease cls x) s = scalarDone s w x (c.next.price.at_ cls))))

/-- R328, R404-R406: CTLR returns the register's value, and MXPROG .rd the loop state and the flags; CR.STATUS holds HM, the
depth of the open region, IDEM, and CODE: in handler mode the cause's, at reset 0, and else open (log 26). -/
def Obligations.ControlRegisterReads : Prop :=
  ∀ (s : State) (w : Who) (x : Args) (c : Ctx) (h : Half), Issues s w → Passes s w (scalShape x) →
    s.ctxs.get w.g.ctx = some c → s.halves.get (halfNo w.g.core) = some h →
    let reads (n : Nat) (v : W64) : Prop := x.imm.toNat % 2 ^ 12 = n → exec (.ctlr x) s = scalarDone s w x v
    let prog : W64 :=
      let m := w.g.eng.matrix
      BitVec.ofNat 64 (m.step % 2 ^ 16 + (if s.looping w.gid w.g = true then 2 ^ 16 else 0) + (if m.sat then 2 ^ 20 else 0) +
        (if m.inv then 2 ^ 21 else 0) + (if m.ovf then 2 ^ 22 else 0) + (if m.tbad then 2 ^ 23 else 0))
    exec (.mxprogRd x) s = scalarDone s w x prog ∧
    reads 0x001 w.g.cause ∧ reads 0x002 w.g.epc ∧ reads 0x003 w.g.tval ∧ reads 0x004 c.trapvec ∧ reads 0x005 w.g.idemPc ∧
    reads 0x006 c.lpext ∧ reads 0x007 w.g.trtab ∧ reads 0x010 prog ∧ reads 0x011 h.steps ∧ reads 0x012 h.busy ∧
    reads 0x013 h.wait ∧ reads 0x020 c.relcnt ∧ reads 0x030 w.g.eng.cpq ∧ reads 0x031 w.g.eng.red ∧
    reads 0x032 w.g.eng.netAddr ∧
    ((∀ r, w.g.tryR = some r → r.depth ≤ 2) →
      ∃ v, v.getLsbD 0 = w.g.hm ∧ v.getLsbD 4 = w.g.idem ∧
        v.toNat / 4 % 4 = (match w.g.tryR with | some r => r.depth | none => 0) ∧ v.toNat < 2 ^ 16 ∧
        (w.g.hm = true ∨ w.g.code = 0 → reads 0x000 v ∧ v.toNat / 2 ^ 8 = w.g.code.toNat) ∧
        (w.g.hm = false → w.g.code ≠ 0 → x.imm.toNat % 2 ^ 12 = 0 →
          exec (.ctlr x) s = doneIn ((s.putScalar w (scalShape x) v).takeFree.advance w)))

/-- R404, R406, R411: outside a region CTLW writes a register that may be written: whole, or its set or cleared bits; a write
to CR.CAUSE clears the bits written as 1. It disarms the group and goes on. R258, R404, R409: outside handler mode a CTLW to
CR.CAUSE, CR.EPC, CR.TVAL, CR.TRAPVEC or CR.LPEXT, and HRET, raise 0x2B and write nothing. A CTLW of a value that is no PC to
CR.EPC or CR.TRAPVEC, of one that is not 64-aligned to CR.TRTAB, or of one with a reserved bit to CR.RED raises 0x02; the
words of CTLW and CTLR with a number that is not listed, or of CTLW with that of a read-only register, are refused with 0x02.
-/
def Obligations.ControlRegisterWrites : Prop :=
  (∀ (s : State) (w : Who) (x : Args) (fn : CtlwFn), Issues s w → w.g.tryR = none →
     let a := s.srcS w x.imm x.a
     let new (old : W64) : W64 := match fn with | .write => a | .set => old ||| a | .clr => old &&& ~~~a
     let num (n : Nat) : Prop := x.imm.toNat % 2 ^ 12 = n
     let own (f : Group → Group) := doneIn (((s.updGroup w.gid f).disarm w).advance w)
     let ctx (f : Ctx → Ctx) := doneIn (((s.updCtx w.g.ctx f).disarm w).advance w)
     let isPc (v : W64) : Prop := v.toNat % 64 % 12 = 0 ∧ v.toNat % 64 < 60
     (num 0x007 → (new w.g.trtab).toNat % 64 = 0 → exec (.ctlw fn x) s = own (fun g => { g with trtab := new w.g.trtab })) ∧
     (num 0x030 → exec (.ctlw fn x) s = own (fun g => { g with eng := { g.eng with cpq := new w.g.eng.cpq } })) ∧
     (num 0x031 → (new w.g.eng.red).toNat < 2 ^ 42 → (new w.g.eng.red).toNat % 128 = 0 →
       exec (.ctlw fn x) s = own (fun g => { g with eng := { g.eng with red := new w.g.eng.red } })) ∧
     (num 0x032 → exec (.ctlw fn x) s = own (fun g => { g with eng := { g.eng with netAddr := new w.g.eng.netAddr } })) ∧
     (w.g.hm = true →
       (num 0x001 → exec (.ctlw fn x) s = own (fun g =>
         { g with cause := g.cause &&& ~~~a, pendTval := g.pendTval.filter (fun e => !a.getLsbD e.1) })) ∧
       (num 0x002 → isPc (new w.g.epc) →
         exec (.ctlw fn x) s = own (fun g => { g with epc := new w.g.epc, replay := none })) ∧
       (num 0x003 → exec (.ctlw fn x) s = own (fun g => { g with tval := new w.g.tval })) ∧
       (∀ c, s.ctxs.get w.g.ctx = some c →
         (num 0x004 → isPc (new c.trapvec) → exec (.ctlw fn x) s = ctx (fun d => { d with trapvec := new c.trapvec })) ∧
         (num 0x006 → exec (.ctlw fn x) s = ctx (fun d => { d with lpext := new c.lpext }))))) ∧
  ((∀ (s : State) (w : Who) (x : Args) (fn : CtlwFn), Issues s w → w.g.tryR = none →
     let a := s.srcS w x.imm x.a
     let new (old : W64) : W64 := match fn with | .write => a | .set => old ||| a | .clr => old &&& ~~~a
     let num (n : Nat) : Prop := x.imm.toNat % 2 ^ 12 = n
     let isPc (v : W64) : Prop := v.toNat % 64 % 12 = 0 ∧ v.toNat % 64 < 60
     let refused := exec (.ctlw fn x) s = trapsIn s w 0x02 none
     (w.g.hm = false → exec (.hret x) s = trapsIn s w 0x2B none ∧
       ∀ n, n ∈ [0x001, 0x002, 0x003, 0x004, 0x006] → num n → exec (.ctlw fn x) s = trapsIn s w 0x2B none) ∧
     (num 0x007 → (new w.g.trtab).toNat % 64 ≠ 0 → refused) ∧
     (num 0x031 → 2 ^ 42 ≤ (new w.g.eng.red).toNat ∨ (new w.g.eng.red).toNat % 128 ≠ 0 → refused) ∧
     (w.g.hm = true →
       (num 0x002 → ¬ isPc (new w.g.epc) → refused) ∧
       (∀ c, s.ctxs.get w.g.ctx = some c → num 0x004 → ¬ isPc (new c.trapvec) → refused))) ∧
   (∀ (fn : CtlwFn) (x : Args) (n : Nat), Instr.wf (.ctlw fn x) = true → n < 2 ^ 12 →
     n ∉ [0x001, 0x002, 0x003, 0x004, 0x006, 0x007, 0x030, 0x031, 0x032] →
     ∃ e, decode (encode (.ctlw fn { x with imm := BitVec.ofNat 32 n })) = .error e ∧ e.cause = 0x02) ∧
   (∀ (x : Args) (n : Nat), Instr.wf (.ctlr x) = true → n < 2 ^ 12 →
     n ∉ [0x000, 0x001, 0x002, 0x003, 0x004, 0x005, 0x006, 0x007, 0x010, 0x011, 0x012, 0x013, 0x020, 0x030, 0x031, 0x032] →
     ∃ e, decode (encode (.ctlr { x with imm := BitVec.ofNat 32 n })) = .error e ∧ e.cause = 0x02))

/-- R407, R453, R460: IDEM, by a fragment that holds every live slice, outside a region and with every earlier access
performed: .on arms the group with the next PC, fmt and the records as its restart point and its restarts at 0; .off disarms
it. -/
def Obligations.RestartPoints : Prop :=
  ∀ (s : State) (w : Who) (x : Args), Issues s w → w.g.tryR = none →
    (w.holdsAll = true → s.settled w.gid = true →
      exec (.idemOn x) s = doneIn ((s.updGroup w.gid (fun g =>
        { g with idem := true, idemPc := w.f.pc.next.addr, idemFmt := w.f.fmt, idemStack := w.f.stack, restarts := 0,
                 written := [] })).advance w) ∧
      exec (.idemOff x) s = doneIn ((s.spoil w).advance w)) ∧
    (w.holdsAll = false → exec (.idemOn x) s = trapsIn s w 0x2A none ∧ exec (.idemOff x) s = trapsIn s w 0x2A none)

/-- R408, R411: TRAP raises 0x3E with CR.EPC at the next PC, and BKPT 0x3F with CR.EPC at its own, each with its number in
CR.TVAL; in an open region both abort it with code 0x06. By the model's reading the slot of the handler's entry is checked for
its TARGET bit once its line has come (log 38). -/
def Obligations.SoftwareTraps : Prop :=
  ∀ (s : State) (w : Who) (x : Args), Issues s w →
    let n := BitVec.ofNat 64 (x.imm.toNat % 2 ^ 16)
    (w.g.tryR = none → w.g.hm = false → w.g.access = false → w.g.stopped = none → ∀ pc, s.handlerPc w.g = some pc →
      (∃ t h f, exec (.trap x) s = .next t ∧ t.groups.get w.gid = some h ∧ h.frag? w.fid = some f ∧ f.pc = pc.1 ∧
        f.byTransfer = pc.2 ∧ h.hm = true ∧ h.code = 0x3E ∧ h.epc = w.f.pc.next.addr ∧ h.tval = n ∧ h.shadow = w.g.s.drop 56 ∧ h.v = w.g.v ∧
        t.mem = s.mem) ∧
      (∃ t h f, exec (.bkpt x) s = .next t ∧ t.groups.get w.gid = some h ∧ h.frag? w.fid = some f ∧ f.pc = pc.1 ∧
        f.byTransfer = pc.2 ∧ h.hm = true ∧ h.code = 0x3F ∧ h.epc = w.f.pc.addr ∧ h.tval = n ∧ h.shadow = w.g.s.drop 56 ∧ h.v = w.g.v ∧
        t.mem = s.mem)) ∧
    (w.g.tryR.isSome → exec (.trap x) s = .next (s.abortGroup w.gid 0x06 0 (some n)).endIssue ∧
      exec (.bkpt x) s = .next (s.abortGroup w.gid 0x06 0 (some n)).endIssue)

/-- R437: taking a cause outside handler mode, where CR.TRAPVEC names a legal entry: CR.EPC, CR.TVAL and CODE take the cause's
values, s56-s63 go to the shadow, HM becomes 1 and the fragment stands at CR.TRAPVEC, whose TARGET bit, by the model's reading
(log 38), is still to be checked where its line has not come; no register and no byte of memory changes, and, where the
fragment held no load/store unit, no other fragment and no other group. R439, R440: in handler mode a cause becomes pending,
its first CR.TVAL kept; where CR.TRAPVEC is 0 the group stops whole with the cause and 0x2D pending, and a fatal record
reports it. R110, R177, R372: a lane form of FP32 or of the narrow formats, and VFCMP, that raises an enabled flag takes the
lowest-numbered cause among the enabled flags, with the mask of the lanes that raised one in CR.TVAL; nothing is written. -/
def Obligations.CauseTakenOrHeld : Prop :=
  (∀ (s : State) (w : Who) (code : Nat) (epc tval : W64) (pc : Pc × Bool), s.who? w.gid w.fid = some w → w.g.hm = false →
     w.g.stopped = none → s.handlerPc w.g = some pc →
     ∃ h f, (s.deliver w.gid w.fid code false epc tval).groups.get w.gid = some h ∧ h.frag? w.fid = some f ∧
       f.pc = pc.1 ∧ f.byTransfer = pc.2 ∧ f.slices = w.f.slices ∧ f.fmt = w.f.fmt ∧ f.stack = w.f.stack ∧ f.status = .ready ∧
       h.hm = true ∧ h.code = BitVec.ofNat 8 code ∧ h.epc = epc ∧ h.tval = tval ∧ h.shadow = w.g.s.drop 56 ∧
       h.handling = some ⟨w.fid, false⟩ ∧ h.cause = w.g.cause ∧ h.s = w.g.s ∧ h.v = w.g.v ∧
       ((∀ o ∈ s.ops, o.gid = w.gid → o.fid = w.fid → o.whole = false ∧ o.waits = false) →
         (∀ y ∈ w.g.frags, y.id ≠ w.fid → y ∈ h.frags) ∧
         ∀ k, k ≠ w.gid → (s.deliver w.gid w.fid code false epc tval).groups.get k = s.groups.get k) ∧
       (s.deliver w.gid w.fid code false epc tval).mem = s.mem) ∧
  (∀ (s : State) (gid fid code : Nat) (epc tval : W64) (g : Group), s.groups.get gid = some g → code < 64 →
     g.stopped = none →
     let t := s.deliver gid fid code false epc tval
     (g.hm = true → g.cause.getLsbD code = false →
       ∃ h, t.groups.get gid = some h ∧ (∀ k, k < 64 → h.cause.getLsbD k = (g.cause.getLsbD k || decide (k = code))) ∧
         h.pendTval = g.pendTval ++ [(code, tval)] ∧ h.epc = g.epc ∧ h.hm = true ∧ h.s = g.s) ∧
     (g.hm = true → g.cause.getLsbD code = true → ∃ h, t.groups.get gid = some h ∧ h = g) ∧
     (g.hm = false → s.trapvec g = 0 → code ≠ 0x2D →
       ∃ h, t.groups.get gid = some h ∧ h.stopped = some fid ∧ h.hm = false ∧ h.epc = epc ∧ h.tval = tval ∧
         h.cause.getLsbD code = true ∧ h.cause.getLsbD 0x2D = true ∧
         (s.mgmt.traps.length < 504 → ∃ r, t.mgmt.traps = s.mgmt.traps ++ [r] ∧ r.code = 0x2D ∧ r.kind = .fatal))) ∧
  (∀ (s : State) (w : Who) (x : Args), Issues s w →
     let a (l : Nat) := s.srcV w x.imm x.a l
     let b (l : Nat) := s.srcV w x.imm x.b l
     let c (l : Nat) := s.srcV w x.imm x.c l
     let old (l : Nat) : W32 := match x.d with | .v n => w.g.lane n.toNat l | _ => 0
     let fz := fmtFZ w.f.fmt
     let ce := fmtCE w.f.fmt
     let own := rmodeOf (fmtRM w.f.fmt)
     let mode (fn : RndFn) := formMode fn w.f.fmt
     let traps (srcs : List Operand) (i : Instr) (fl : Nat → FlagSet) : Prop :=
       Passes s w (vecShape w x srcs) → ¬ NoEnabledFlag w x fl →
       ∃ (k : Nat) (m : W64), exec i s = trapsIn s w k (some m) ∧ 0x30 ≤ k ∧ k < 0x38 ∧
         (∃ l, l < 32 ∧ (w.active x.msk).getLsbD l = true ∧ (fl l &&& fmtEnables w.f.fmt).getLsbD (k - 0x30) = true) ∧
         (∀ l j, l < 32 → (w.active x.msk).getLsbD l = true → j < k - 0x30 →
           (fl l &&& fmtEnables w.f.fmt).getLsbD j = false) ∧
         (∀ l, l < 64 → m.getLsbD l =
           decide (l < 32 ∧ (w.active x.msk).getLsbD l = true ∧ fl l &&& fmtEnables w.f.fmt ≠ 0))
     (∀ fn, traps [x.a, x.b] (.vfadd fn x) (fun l => (addF32 (mode fn) fz (a l) (b l)).2) ∧
       traps [x.a, x.b] (.vfsub fn x) (fun l => (subF32 (mode fn) fz (a l) (b l)).2) ∧
       traps [x.a, x.b] (.vfmul fn x) (fun l => (mulF32 (mode fn) fz (a l) (b l)).2) ∧
       traps [x.a, x.b] (.vfscl fn x) (fun l => (scaleF32 (mode fn) fz (a l) (b l)).2) ∧
       traps [x.a, x.b, x.c] (.vfma fn x) (fun l => (fmaF32 (mode fn) fz (a l) (b l) (c l)).2) ∧
       traps [x.a, x.b, x.c] (.vfnma fn x) (fun l => (fnmaF32 (mode fn) fz (a l) (b l) (c l)).2) ∧
       traps [x.a] (.vfrnd fn x) (fun l => (integralF32 (mode fn) fz (a l)).2)) ∧
     (∀ fn, traps [x.a, x.b] (.vfmin fn x) (fun l => (minMaxF32 false fn fz (a l) (b l)).2) ∧
       traps [x.a, x.b] (.vfmax fn x) (fun l => (minMaxF32 true fn fz (a l) (b l)).2)) ∧
     traps [x.a] (.vfrsqe x) (fun l => (rsqrtF32 fz (a l)).2) ∧ traps [x.a] (.vfrcpe x) (fun l => (recipF32 fz (a l)).2) ∧
     traps [x.a] (.vfex2e x) (fun l => (exp2F32 fz (a l)).2) ∧ traps [x.a] (.vflg2e x) (fun l => (log2F32 fz (a l)).2) ∧
     (∀ fn, traps [x.a, x.b] (.vfcmp fn x) (fun l => (cmpF32 fn fz (a l) (b l)).2)) ∧
     (∀ fn src, NumFmt.ofCode (immField x.imm 0 4) = some src →
       traps [x.a, x.b] (.vcvt fn x) (fun l => (convert src fn own ce (a l) (b l)).2)) ∧
     (∀ fn, traps [x.a, x.b] (.vpack fn x) (fun l => (packField fn own ce (old l) (a l) (b l)).2) ∧
       traps [x.a, x.b] (.vunpk fn x) (fun l => (unpackField fn own (a l) (b l)).2)) ∧
     (∀ fn, traps [x.a, x.b, x.c] (.vhfma fn x) (fun l => (halfFma fn own ce (a l) (b l) (c l)).2)) ∧
     (∀ fn, traps [x.a, x.b, x.c] (.vdot4 fn x) (fun l => (dot4 fn own ce (a l) (b l) (c l)).2)) ∧
     traps [x.a, x.b, x.c] (.vtsel x) (fun l => (t2Select (a l) (b l) (c l)).2))

/-- R409, R439, R442: HRET in handler mode outside a region, with no cause pending in the group or its bobbin and no replay
point: s56-s63 come back from the shadow, HM becomes 0 and the handler's fragment goes on at CR.EPC. With a cause pending, the
lowest-numbered one is handled next: it leaves CR.CAUSE and the handler starts again at CR.TRAPVEC, whose TARGET bit is
checked as at its first entry (the model's reading, log 38). -/
def Obligations.HandlerReturns : Prop :=
  ∀ (s : State) (w : Who) (x : Args), Issues s w → w.g.tryR = none → w.g.hm = true → w.g.replay = none →
    w.g.partner = none →
    (w.g.cause = 0 → ∀ pc, Pc.ofAddr w.g.epc = some pc → w.f.dormant = [] → w.f.slices ≠ 0 → w.g.handling = none ∨ (∃ k, w.g.handling = some ⟨k, false⟩) →
      ∃ t h f, exec (.hret x) s = .next t ∧ t.groups.get w.gid = some h ∧ h.frag? w.fid = some f ∧ f.pc = pc ∧
        f.status = .ready ∧ h.hm = false ∧ h.handling = none ∧ h.s = w.g.s.take 56 ++ w.g.shadow ∧ h.v = w.g.v ∧
        t.mem = s.mem) ∧
    (∀ c pc, c < 64 → w.g.cause.getLsbD c = true → (∀ k, k < c → w.g.cause.getLsbD k = false) →
      s.handlerPc w.g = some pc →
      ∃ t h f, exec (.hret x) s = .next t ∧ t.groups.get w.gid = some h ∧ h.frag? w.fid = some f ∧ f.pc = pc.1 ∧
        f.byTransfer = pc.2 ∧ h.hm = true ∧ h.code = BitVec.ofNat 8 c ∧ h.cause.getLsbD c = false ∧ h.s = w.g.s ∧ h.v = w.g.v ∧ t.mem = s.mem)

/-- R410, R450, R451: SVC outside a region, with its request block in order, every earlier access performed and a free entry,
places a replayable record for the operator with the block's address and its number, and waits; it goes on once the firmware
has answered, and raises 0x2C where the answer refuses it. That the record's code is 0x2C and that its DATA holds the number
is the model's reading (log 59). -/
def Obligations.ServiceCalls : Prop :=
  ∀ (s : State) (w : Who) (x : Args), Issues s w → w.g.tryR = none →
    let n := x.imm.toNat % 2 ^ 16
    let a := s.srcS w x.imm x.a
    let here (r : Sent) : Prop := r.fid = w.fid ∧ r.hm = w.g.hm ∧ r.pc = w.f.pc
    ((∀ r ∈ w.g.sent, ¬ here r) → a.toNat % 64 = 0 → a.toNat < 2 ^ 56 →
      regionCause (s.launchOf w.g.task) a.toNat 64 true = none → s.settled w.gid = true → s.mgmt.traps.length < 504 →
      ∃ t h f r, exec (.svc x) s = .next t ∧ t.mgmt.traps = s.mgmt.traps ++ [r] ∧ r.code = 0x2C ∧ r.kind = .replayable ∧
        r.owner = .operator ∧ r.gva = a ∧ r.data = BitVec.ofNat 32 n ∧ r.id = s.mgmt.nextRec ∧ r.core = w.g.core ∧
        r.slot = w.g.slot ∧ t.groups.get w.gid = some h ∧ h.frag? w.fid = some f ∧ f.status = .waiting .svc ∧
        f.pc = w.f.pc ∧ ⟨w.fid, w.g.hm, w.f.pc, s.mgmt.nextRec, none⟩ ∈ h.sent) ∧
    (∀ r, w.g.sent = [r] → here r →
      (r.answer = some true → exec (.svc x) s =
        doneIn (((s.updGroup w.gid (fun g => { g with sent := g.sent.filter (fun y => y != r) })).acquire w.g .system).advance w)) ∧
      (r.answer = some false → exec (.svc x) s =
        doneIn ((s.updGroup w.gid (fun g => { g with sent := g.sent.filter (fun y => y != r) })).raisePrecise w 0x2C
          (some (BitVec.ofNat 64 n)) w.f.pc.addr)))

/-! ### Events -/

/-- R22, R166, R190, R197, R202, R203, R270: the events that let a waiting fragment go on do so where their condition holds:
the next good fetch or restart after a failed line check, a queue wait, the parked slices of a record, a barrier's next phase,
a GROW's blocks (those that it asked for when it began to wait, or 0x0F where its group has outgrown them, R203), the end of a
YIELD, a waited word or its timeout, a WAITC's count, a JOIN's counter. -/
def Obligations.WaitsEnd : Prop :=
  ∀ (s : State) (w : Who), s.who? w.gid w.fid = some w →
    let ended (a : W64) (imm : W32) : State :=
      let fresh : State := if apertureOf a = .global then
          (match s.spa w.g.ctx w.g.core a.toNat .load with
           | .ok p => s.dropStale w.g.core (p / 128)
           | .error _ => s)
        else s
      if sharedLevel a = true then (fresh.acquire w.g (scopeOf (imm.toNat / 2 ^ 16 % 2 ^ 3))).advance w else s.advance w
    (w.f.crcTries < 3 → exec (.fetchCheckFail w.gid w.fid) s =
      .next (State.updCtx (s.updFrag w.gid w.fid (fun f =>
        { f with crcTries := f.crcTries + 1, retiredHere := f.retiredHere + 1, age := 0 })) w.g.ctx
        (fun c => { c with relcnt := c.relcnt + 1 }))) ∧
    (w.f.status = .waiting .queue → exec (.queueWaitComplete w.gid w.fid) s = .next (s.wake w.gid w.fid)) ∧
    (∀ id saved parked resume waiting rest, w.f.status = .waiting .park →
      w.f.stack = .park id saved parked resume waiting false :: rest →
      ∃ t h f, exec (.parkedSlicesResume w.gid w.fid) s = .next t ∧ t.groups.get w.gid = some h ∧ h.frag? w.fid = some f ∧
        f.slices = parked ∧ f.pc = resume ∧ f.fmt = saved ∧ f.status = .ready ∧
        f.stack = .park id saved parked resume (w.f.slices &&& ~~~parked) true :: rest) ∧
    (∀ team t bar ph, s.teams.get team = some t → w.gid ∈ t.groups → w.g.dead = false → (barrierAt t bar).phase ≠ ph →
      w.f.status = .waiting (.bar bar ph) ∨ w.f.status = .waiting (.barw bar ph) →
      ∃ u h f, exec (.barrierPhaseComplete team bar) s = .next u ∧ u.groups.get w.gid = some h ∧ h.frag? w.fid = some f ∧
        f = { w.f with status := .ready }) ∧
    (∀ c n octet, s.cores.get w.g.core = some c → c.waiters.find? (fun x => x.1 == octet) = some (octet, w.gid, w.fid) →
      n ≤ s.freeIn w.g.core octet →
      (w.f.status = .waiting (.grow n) → s.growFits w.g n = true →
        exec (.growGrant w.g.core octet) s = .next (((s.takeBlocks w n).updGroup w.gid (fun g => g.addBlocks n)).advance w)) ∧
      (w.f.status = .waiting (.area n) → exec (.growGrant w.g.core octet) s = .next (s.wake w.gid w.fid)) ∧
      (w.f.status = .waiting (.grow n) → s.growFits w.g n = false → w.g.hm = false → exec (.growGrant w.g.core octet) s =
        .next (((s.leaveWaits w.gid (fun k => k == w.fid)).wake w.gid w.fid).raisePrecise w 0x0F none w.f.pc.addr))) ∧
    (∀ u others, w.f.status = .yielding u others → u.toNat ≤ s.clock.toNat ∨ (∀ x ∈ others, s.stillFirst x = false) →
      exec (.yieldEnd w.gid w.fid) s = .next (s.wake w.gid w.fid)) ∧
    (∀ fn a b imm t v, w.f.status = .waiting (.mwait fn a b imm t) → s.readWord w a = .value v → mwaitStops fn v b = true →
      exec (.mwaitWake w.gid w.fid) s = .next (ended a imm)) ∧
    (∀ fn a b imm t, w.f.status = .waiting (.mwait fn a b imm (some t)) → t.toNat ≤ s.clock.toNat →
      exec (.mwaitTimeout w.gid w.fid) s = .next (ended a imm)) ∧
    (∀ cls n, w.f.status = .waiting (.waitc cls n) → w.g.eng.owed = [] → w.g.eng.count cls ≤ n →
      exec (.waitcSatisfied w.gid w.fid) s = .next ((s.dropWrote w.gid w.g).advance w)) ∧
    (∀ a target b, w.f.status = .waiting (.counter a target) → s.droppedCause w = none → s.readAt w a 8 = .value b →
      target.toNat ≤ bytesNat b → exec (.joinWake w.gid w.fid) s = .next ((s.acquire w.g .device).advance w))

/-- R22, R167, R189, R198, R396, R399, R436, R445: the joining of a record's fragments into one, with the union of their
slices, the records beneath, the record's saved_fmt, the largest age and the PC after the REGANG; and the events that raise a
cause or abort a region: the line check's failure after the third restart (at a handler's entry the entry fails, R440: the
model's reading, log 38), a stuck queue window, a stuck barrier, a conflict, and the late 0x17 of a side-logged store. -/
def Obligations.JoinsAndLateCauses : Prop :=
  ∀ (s : State) (w : Who), s.who? w.gid w.fid = some w →
    (∀ id token saved pc rest other, w.g.frags = [w.f, other] → w.f.id ≠ other.id → w.g.handling = none →
      w.f.stack = .fork id saved :: rest → other.stack = .fork id saved :: rest →
      w.f.status = .waiting (.join id) → other.status = .waiting (.join id) → w.g.bound id = some (token, pc) →
      ∃ t h f, exec (.regangJoin w.gid id) s = .next t ∧ t.groups.get w.gid = some h ∧ h.frags = [f] ∧ f.id = w.f.id ∧
        f.slices = w.f.slices ||| other.slices ∧ f.pc = pc.next ∧ f.fmt = saved ∧ f.stack = rest ∧
        f.age = max w.f.age other.age ∧ f.status = .ready ∧ h.bound id = none ∧ h.s = w.g.s ∧ h.v = w.g.v ∧ t.mem = s.mem) ∧
    (w.f.crcTries = 3 → w.entering = true → exec (.fetchCheckFail w.gid w.fid) s = .next (s.entryFails w)) ∧
    (w.f.crcTries = 3 → w.entering = false → exec (.fetchCheckFail w.gid w.fid) s = .next
      ((s.updFrag w.gid w.fid (fun f => { f with crcTries := 0 })).raisePrecise w 0x04 (some w.f.pc.line) w.f.pc.addr)) ∧
    (w.g.frags = [w.f] → s.queueStuck w.g = true →
      exec (.queueDeadlock w.gid) s = .next (s.raisePrecise w 0x21 none w.f.pc.addr)) ∧
    (∀ team t, s.teams.get team = some t → s.barrierStuck t = some w →
      exec (.barrierDeadlock team) s = .next (s.raisePrecise w 0x23 none w.f.pc.addr)) ∧
    (w.g.tryR.isSome → exec (.conflict w.gid) s = .next (s.abortGroup w.gid 0x03 0 none)) ∧
    (∀ o a, s.lateEntry s.ops = some (o, a) → s.opWho o = some w → exec .lateFault s = .next
      (((s.dropOp o.id).raiseLate w 0x17 (some (BitVec.ofNat 64 a))).opDone o.core o.gid))

/-- R243, R250, R254-R259, R262, R266, R320: what the engines complete. The live copies of a batch whose pages are mapped move
their bytes and are done; the head of the gather queue and of the send queue moves its bytes and leaves its counter; a full
reduction generation writes its row and a full collective generation writes every destination and advances GEN; the matrix
form at the head of the queue ends, or one step of an MXLOOP does; a ring wait is evaluated again and completed where it can
be; a refused gather leaves its queue with its cause owed. That operations move whole, so that a refused one has written
nothing, is the model's choice (log 42). -/
def Obligations.EnginesComplete : Prop :=
  ∀ (s : State) (gid : Nat) (g : Group), s.groups.get gid = some g → s.onCore g = true →
    (∀ (n : Nat) (l : List CopyOp) (mv : CopyOp → List Moving),
      let s' := (g.eng.batch n).foldl (fun t c => t.noteCopy g c) s
      l = (g.eng.batch n).filter (s'.copyLive g) → (∀ c ∈ l, s'.copyMoves gid g c = .ok (mv c)) →
      exec (.copyBatchComplete gid n) s = .next (((s'.moveAll gid g (l.flatMap mv)).updGroup gid (fun x =>
        { x with eng := x.eng.markCopies (fun c =>
            if (l.map (·.id)).contains c.id then { c with done := true, held := none } else c) })).engineMoved gid)) ∧
    (∀ o rest m, g.eng.gathers = o :: rest → s.stillHeld g o.held = false →
      let s' := s.noteSpans g o.spans
      s'.spansMoves gid g o.spans = .ok m → exec (.gatherComplete gid) s = .next (((s'.moveAll gid g m).updGroup gid (fun x =>
        { x with eng := { x.eng with gathers := rest } })).endOne gid .gth)) ∧
    (∀ o rest m, g.eng.sends = o :: rest → s.stillHeld g o.held = false →
      let s' := s.noteEngine g o.addr 128
      s'.entryMoves gid g o.addr o.row = .ok m → exec (.networkEntryPerformed gid) s = .next (((s'.moveAll gid g m).updGroup gid (fun x =>
        { x with eng := { x.eng with sends := rest } })).endOne gid .net)) ∧
    (∀ k c r, s.clusters.get k = some c → c.reds.find? (fun y => y.task == r.task && y.dest == r.dest) = some r →
      r.count ≤ r.rows.length → r.mixed = false →
      exec (.reductionGenerationComplete k r.task r.dest) s = .next ((r.rows.foldl (fun t x => t.endColl x.1 x.2.1 none)
        ((s.updCluster k (fun c => { c with reds := c.reds.filter (fun y => !(y.task == r.task && y.dest == r.dest)) })).writeRed
          k r)).offerCluster k)) ∧
    (∀ id c x rest (mv : Arrival → List Moving), s.colls.get id = some c → c.full = true → c.arrivals = x :: rest → x.gid = gid →
      c.mixed = false → c.fn ≠ .fsum → (∀ a ∈ c.arrivals, s.collDst a.gid a.dst (s.collResult c) = .ready (mv a)) →
      exec (.collGenerationComplete id) s = .next (
        let moves := c.arrivals.map (fun a => (a.gid, (mv a).map (fun m => { m with op := a.op })))
        let s0 := c.arrivals.foldl (fun u a => u.noteResult a.gid a.dst (s.collResult c).length) s
        let gen : List Moving := [{ src := .bytes [] false, dst := c.genLocs }]
        let t : State := (c.arrivals.foldl (fun t a => t.noteWrote a.gid gen) (moves.foldl (fun t y => t.noteWrote y.1 y.2)
          (s0.moveWords g.core g.ctx gid (moves.flatMap (·.2))))).genUp c gid g
        (c.arrivals.foldl (fun (t : State) a => t.endArrival c (s.collResult c) a) { t with colls := t.colls.del id }).wakeColls)) ∧
    (∀ o s1, s.mxHead gid g = some o → (s.noteMx g o).runMx gid g o = .done s1 → exec (.matrixFormComplete gid) s =
      .next (((s1.countCycles g).updMx gid (fun m => { m with queue := m.queue.drop 1 })).endOne gid .mx)) ∧
    (∀ o s1, s.mxHead gid g = some o → (s.noteMx g o).runMx gid g o = .more s1 →
      exec (.matrixFormComplete gid) s = .next (s1.countCycles g)) ∧
    (∀ (w : Who) (r : RingWait), s.who? gid w.fid = some w → s.ringOf w = some r →
      (∀ s1, s.retryRing w r = .ok s1 → exec (.ringWaitWake gid w.fid) s = .next s1) ∧
      (∀ s1, s.retryRing w r = .error (.wait .ring s1) → exec (.ringWaitWake gid w.fid) s = .next s) ∧
      (∀ c tv, s.retryRing w r = .error (.cause c tv) → w.g.hm = false → exec (.ringWaitWake gid w.fid) s =
        .next (((s.leaveWaits gid (fun k => k == w.fid)).wake gid w.fid).raisePrecise w c tv w.f.pc.addr))) ∧
    (∀ o code a, g.eng.gathers = [o] → (∀ c ∈ g.eng.copies, c.id ≠ o.id) →
      ∃ t h, exec (.engineOperationRefused gid o.id code a) s = .next t ∧ t.groups.get gid = some h ∧ h.eng.gathers = [] ∧
        h.eng.gth = g.eng.gth - 1 ∧
        (let n := g.eng.started .gth - g.eng.gth
         let later := fun (x : WaitcFn × Nat × Nat × Option W64) => x.1 == .gth && decide (n < x.2.1)
         h.eng.owed = g.eng.owed.filter (fun x => !later x) ++ [(.gth, n, code, some a)] ++ g.eng.owed.filter later) ∧
        (g.owing = [] → t.mem = s.mem))

/-- R33, R134-R137, R219, R220, R229, R237, R309, R382, R458, R464: a side of a core starts its first urgent fragment whose
engine unit is free, else one of the highest priority among those that have one; fragments of age 1024 join the tail of their
side's urgent list; a logged instruction whose bytes are mapped is performed and leaves its log; a held one goes on when its
page no longer holds it; the first side-logged entry that can be performed is; a line dirty for 64 µs is written back and a
foreign clean one of that age leaves the L1. A packet whose CRC-32s hold and that meets no full buffer is not dropped; one
dropped for its CRC counts for its context, and one dropped at a full buffer does not (the model's choice, log 102); each
counts on its route, and the third in a row fails a link of it. A packet sent again ends the row on its route, and its access
is then retired as one that was never dropped. -/
def Obligations.IssueAndRetirement : Prop :=
  ∀ (s : State),
    (∀ core side c b,
      let p := s.parkQueues core (sideBool side)
      let ready := p.readySide core (sideBool side)
      let urgent := p.urgentNow core (sideBool side) c
      let bar := p.reserved core (sideBool side) c
      let taken := c.takenBy (!sideBool side) p.clock
      let opens (bar : List Nat) (x : Who) : Prop :=
        match p.pairUnit x with
        | some u => u ∈ p.openUnits core taken bar x
        | none => p.openUnits core taken bar x ≠ []
      p.cores.get core = some c → s.mgmt.thermal = .none →
      p.nextIssuer core urgent (p.idleNow (p.lastNow (c.last (sideBool side)) (c.starts (sideBool side)))) taken bar ready = some b →
      ∃ t, exec (.issueStart core side) s = .next t ∧ b.w ∈ ready ∧ t.cur = some ⟨b.w.gid, b.w.fid⟩ ∧
        t.mem = s.mem ∧ t.clock = s.clock ∧ (side = .pricking → t.second = none) ∧
        (∀ k rest x, urgent = k :: rest → ready.find? (fun y => y.key == k) = some x →
          opens [] x → b.w = x) ∧
        (urgent = [] → ∀ x ∈ ready, opens bar x → p.prio x.g ≤ p.prio b.w.g)) ∧
    (∀ w c, s.who? w.gid w.fid = some w → w.f.age = 1024 → s.isReady w = true →
      s.cores.get w.g.core = some c → w.key ∉ c.urgent w.g.access →
      ∃ t d l, exec (.fragmentUrgent w.gid w.fid) s = .next t ∧ t.cores.get w.g.core = some d ∧
        d.urgent w.g.access = c.urgent w.g.access ++ l ∧ w.key ∈ l ∧
        (∀ k ∈ l, ∃ x ∈ s.readySide w.g.core w.g.access, x.key = k ∧ x.f.age = 1024) ∧ t.groups = s.groups ∧ t.mem = s.mem) ∧
    (∀ o w a t old (again : Bool), s.op? o.id = some o → s.opWho o = some w → accForm o.instr = some a →
      s.onCore w.g = true → o.stage = .issued → (w.g.tryR = none ∨ o.waits = false) →
      let u : State := if again then s.resent o.id else s
      let before : State := { u with ops := olderThan o.id u.ops }
      orderedBehind before.ops o.gid w.g.who a o.lanes = false → before.windowWaits w a o.lanes = false →
      (a.action = .store → before.overlapsSide o.gid w.g.who o.lanes a.bytes = false) →
      u.performOp w.g o a fadd32 = .done t old →
      exec (if again then .packetResend o.id else .longLatencyRetirement o.id) s =
        .next ((((t.finishOp o w a old).dropOp o.id).goOn o w).opDone o.core o.gid)) ∧
    (∀ op, ∃ t, exec (.packetResend op) s = .next t) ∧
    (∀ (p : PacketLoss) (ctx : Nat) (route : Route),
      ((s.op? p.op = none ∧ ctx = p.ctx ∧ route = ⟨p.src, p.dest, p.slice⟩) ∨
        ∃ o g, s.op? p.op = some o ∧ s.groups.get o.gid = some g ∧ ctx = g.ctx ∧ route = s.routeOfOp o g) →
      (s.op? p.op ≠ none → s.resent p.op =
        { s with fabric := { s.fabric with timeouts := s.fabric.timeouts.del route.number } }) ∧
      (crc32 p.header = p.headerCrc → crc32 p.payload = p.payloadCrc → p.full = false → exec (.packetDrop p) s = .next s) ∧
      ((isCorrupt p = true ↔ ¬(crc32 p.header = p.headerCrc ∧ crc32 p.payload = p.payloadCrc))) ∧
      (isCorrupt p = true ∨ p.full = true →
        ∃ t, exec (.packetDrop p) s = .next t ∧ t.mem = s.mem ∧ t.groups = s.groups ∧ t.ops = s.ops ∧
          t.ctxs = (if isCorrupt p then (s.relcntUp ctx).ctxs else s.ctxs) ∧
          (∀ n, (s.fabric.timeouts.get route.number).getD 0 = n →
            (n < 2 → t.fabric.timeouts.get route.number = some (n + 1) ∧ t.due = s.due) ∧
            (2 ≤ n → t.fabric.timeouts = s.fabric.timeouts.del route.number ∧
              (s.routeLinks route s.freeValue.toNat = [] ∨
                ∃ x ∈ s.routeLinks route s.freeValue.toNat, t.due = s.due ++ [.linkFailure x.1 x.2.1 x.2.2]))))) ∧
    (∀ o w, s.op? o.id = some o → s.opWho o = some w → s.onCore w.g = true → o.stage = .held → s.accessHeld o w = false →
      (o.whole = false → exec (.heldAccessResume o.id) s = .next (s.setStage o.id .issued)) ∧
      (o.whole = true → w.fid = o.fid → w.f.status = .waiting (.access o.id) → exec (.heldAccessResume o.id) s =
        .next (((s.dropOp o.id).wake o.gid o.fid).opDone o.core o.gid))) ∧
    (∀ core o rest g a t old, s.sideHeads core = o :: rest → s.groups.get o.gid = some g → accForm o.instr = some a →
      s.onCore g = true →
      (∀ p ∈ olderThan o.id s.ops, p.gid = o.gid → p.stage ≠ .sideLogged →
        lanesOverlap g.who p.lanes (opBytes p) o.lanes a.bytes = false) →
      (∀ w, s.opWho o = some w → State.windowWaits { s with ops := olderThan o.id s.ops } w a o.lanes = false) →
      s.performOp g o a fadd32 = .done t old →
      exec (.sideLogReplay core) s = .next ((t.dropOp o.id).opDone o.core o.gid)) ∧
    (∀ core line l, memsOk s = true → s.l1At core line = some l → l.isDirty = true → 115200 ≤ (s.clock - l.written).toNat →
      ∃ t, exec (.l1WritebackTimeout core line) s = .next t ∧ t = s.writeBack core line ∧
        ∀ k b, l.dirty[k]? = some true → l.bytes[k]? = some b → t.mem.sys.read (128 * line + k) = b) ∧
    (∀ core line l, s.l1At core line = some l → s.homeDie l.ctx line ≠ coreDie core →
      115200 ≤ (s.clock - l.filled).toNat →
      ∃ t, exec (.l1CleanCopyExpiry core line) s = .next t ∧ t = s.evictCopy core line ∧ t.l1At core line = none)

/-- R79, R80, R268, R280-R282, R290, R304-R307, R422-R425: a group whose accesses and operations are complete leaves with its
partner once both may; an edge's flush ends it; a command completes with the last of its groups, tasks and edges and COMPL
rises; a dependence whose word has reached its value is met; DONE gains 1 at the trigger point; a decision of a round places
the first candidate in order that fits, outside the regions of the aged ones before it, and the next on that die follows 16
cycles later; those that it passes over wait from then on; a candidate of 64 µs is aged, or reported with 0x28 when it has no
region. That an edge counts toward its predecessor's command and that the operator owns the record of 0x28 are the model's
choices (logs 70 and 156). -/
def Obligations.EndsAndPlacement : Prop :=
  ∀ (s : State),
    (∀ gid g f t, s.groups.get gid = some g → g.exitWait = some f → s.onCore g = true → s.teams.get g.team = some t →
      (s.pairOf gid g).all s.mayLeave = true →
      s.lastOfTeam t (s.pairOf gid g) = false ∨ (t.dropped = [] ∧ t.pendingQ = []) →
      exec (.groupLeavesCore gid) s = .next (((((s.pairOf gid g).foldl (fun t e => t.leave e.1 e.2) s).lookTeam
        g.team).lookTrigger g.task).lookTask g.task)) ∧
    (∀ e x p, s.edges.get e = some x → s.tasks.get x.pred = some p → exec (.edgeFlushEnd e) s =
      .next (State.push { s.flushRegion p.ctx x.ranges with
        edges := s.edges.del e, cmds := s.cmds.upd p.cmd (fun c => { c with edges := c.edges - 1 }) } (.commandComplete p.cmd))) ∧
    (∀ id c q, s.cmds.get id = some c → c.completed = false → c.placed = true → c.count = 0 → c.edges = 0 →
      (∀ e ∈ s.tasks, e.2.cmd = id → e.2.completed = true) → s.fe.queues.get c.vq = some q →
      (s.blockOf c.vq = none ∨ ∃ ctx a l, s.blockOf c.vq = some (ctx, a) ∧ s.feLocs ctx a.toNat 64 .store = .ok l) →
      ∃ t, exec (.commandComplete id) s = .next t ∧ t.cmds.get id = some { c with completed := true } ∧
        t.fe.queues.get c.vq = some { q with compl := q.compl + 1 }) ∧
    (∀ id k t d l, s.tasks.get id = some t → t.launch.deps[k]? = some d → t.deps[k]? = some false →
      s.feLocs t.ctx d.1.toNat 8 .load = .ok l → d.2.toNat ≤ bytesNat (l.map s.homeByte) →
      ∃ u, exec (.dependenceMet id k) s = .next u ∧
        (u.tasks.get id).map (·.deps) = some (setAt true t.deps k true) ∧ u.mem.sys = s.mem.sys) ∧
    (∀ id t, s.tasks.get id = some t → s.triggerReady id = true →
      (t.launch.done = 0 → exec (.triggerPoint id) s = .next (s.updTask id (fun t => { t with triggered := true }))) ∧
      (∀ l, t.launch.done ≠ 0 → s.feLocs t.ctx t.launch.done.toNat 8 .atomic = .ok l → exec (.triggerPoint id) s =
        .next (((s.feNote t.ctx t.launch.done.toNat l).addHome feCore t.ctx 0 l 1).updTask id (fun t =>
          { t.freeAt t.launch.done with triggered := true })))) ∧
    (∀ ctx, s.mode = .up → s.mgmt.thermal ≠ .sevenEighths →
      let seen := ((s.forwardAll ctx).seekEntries ctx).refresh ctx
      let s0 := seen.startWaiting ctx
      (∀ c ∈ seen.passedOver ctx, { c with waitingSince := some (c.waitingSince.getD seen.clock) } ∈ s0.fe.cands) ∧
      (∀ c ∈ seen.fe.cands, c ∉ seen.passedOver ctx → c ∈ s0.fe.cands) ∧
      (∀ c rest t x, s0.ordered ctx = c :: rest → (∀ k, c.src ≠ .swapped k) → s0.tasks.get c.task = some t → s0.entrySeen t = true →
        s0.spot (s0.askNew c.task t) [] = some x →
        exec (.placementRound ctx) s = .next (if s0.deciding (x.cluster / 22) then s0 else
          (s0.placeNew c.task t x).updDie (x.cluster / 22) (fun d => { d with decideAt := s0.clock + 16 }))) ∧
      (∀ c d rest x, s0.ordered ctx = c :: d :: rest → s0.candSpot c [] = none →
        s0.candSpot d (if s0.waited c then s0.candRegion c else []) = some x → s0.deciding (x.cluster / 22) = false →
        exec (.placementRound ctx) s = .next ((s0.placeCand d x).updDie (x.cluster / 22) (fun d =>
          { d with decideAt := s0.clock + 16 }))) ∧
      (s0.firstFit (s0.ordered ctx) [] = none → exec (.placementRound ctx) s = .next s0)) ∧
    (∀ k c since, s.fe.cands[k]? = some c → c.waitingSince = some since → 115200 ≤ (s.clock - since).toNat →
      (c.aged = false → s.candRegion c ≠ [] → exec (.candidateAged c.ctx k) s = .next { s with
        fe := { s.fe with cands := s.fe.cands.set k { c with aged := true } } }) ∧
      (c.noRegion = false → s.candRegion c = [] → s.mgmt.traps.length < 504 →
        ∃ t, exec (.candidateNoRegion c.ctx k) s = .next t ∧
          t.fe.cands = s.fe.cands.set k { c with noRegion := true } ∧ t.mem = s.mem ∧
          t.mgmt.traps = s.mgmt.traps ++ [{ noRegionRecord c.ctx with id := s.mgmt.nextRec }]))

/-- R138, R183, R251, R283, R284, R329, R452-R456: a team whose rule is to drain issues on, for 100 µs; a save takes the team
from its cores; where the rule is to restart, that puts every live group back at its entry with zero registers; a saved team
takes its places where the distributor finds them whole, but none from 105 °C (R474); a team that waits for a child is swapped
out, and in again when its queue is empty. -/
def Obligations.PreemptionAndSwap : Prop :=
  ∀ (s : State) (id : Nat) (t : Team), s.teams.get id = some t →
    (t.state = .resident → (s.launchOf t.task).hint = 0 → s.preemptMode t = .save) ∧
    (t.state = .resident → s.preemptMode t = .drain → exec (.preemptDrain id) s = .next (s.updTeam id (fun t => { t with state := .draining s.clock }))) ∧
    (∀ since, t.state = .draining since → 180000 ≤ (s.clock - since).toNat →
      exec (.drainTimeout id) s = exec (.preemptSave id .operator) s) ∧
    (∀ why, t.onCores = true → ∃ u x, exec (.preemptSave id why) s = .next u ∧ u.teams.get id = some x ∧
      x.state = .saved why ∧ x.groups = t.groups ∧ x.cores = t.cores ∧ x.pendingQ = t.pendingQ) ∧
    (t.state = .resident → s.preemptMode t = .flush → ∃ u, exec (.preemptFlushRestart id) s = .next ((u.restoreTeam id (u.closedTo id)).getD u) ∧
      u = s.flushTeam id ∧ ((∀ e ∈ s.groups, e.2.owing = []) → u.mem.sys = s.mem.sys) ∧ (∀ e ∈ s.liveGroups t, ∃ g, u.groups.get e.1 = some g ∧ g.s = List.replicate 64 0 ∧
        g.frags = [Frag.first (e.1 + 1) ((Pc.ofAddr (s.launchOf e.2.task).entry).getD ⟨(s.launchOf e.2.task).entry, 0⟩)] ∧
        g.hm = false ∧ g.tryR = none ∧ g.eng = Engines.fresh)) ∧
    (s.mgmt.thermal = .sevenEighths → exec (.contextRestore id) s = .next s) ∧
    (∀ why x, s.mgmt.thermal ≠ .sevenEighths → t.state = .saved why → s.spot (s.askSaved t) (s.closedTo id) = some x → s.stagingFree t x = true →
      exec (.contextRestore id) s = .next (s.restoreAt id t x)) ∧
    (s.swapReady id t = true → exec (.teamSwapOut id) s = exec (.preemptSave id .swapOut) s) ∧
    (∀ x, s.mgmt.thermal ≠ .sevenEighths → t.state = .saved .swapOut → t.pendingQ = [] → s.spot (s.askSaved t) (s.closedTo id) = some x →
      s.stagingFree t x = true →
      exec (.teamSwapIn id) s = .next (s.restoreAt id t x))

/-- R264, R285-R287, R290, R292: a pass groups the packets at the HEADs of the mapped queues by type and serves the types in
ascending order; a packet that is served has its effect and HEAD goes past it, its header zeroed; a WAITCTR or DRAIN whose
condition does not hold leaves everything as it is, and its queue, whose page is there, held on none; the first waiting queue
gets the lowest free lane; a queue with nothing to do, or whose timeslice is over while another waits, gives its lane up; one
whose ring failed its check stops (R289). -/
def Obligations.QueuesAndPackets : Prop :=
  ∀ (s : State) (vq : Nat),
    (∀ tag : Nat → Nat, s.cpRuns = true →
      (∀ v ∈ s.mappedQueues, ∃ ctx q n hdr body l, HeadPacket s v (tag v) ctx q n hdr body l ∧ q.latch = none) →
      exec .cpPass s = .next { s with due := s.due ++ (List.range 64).flatMap (fun k =>
        (s.mappedQueues.filter (fun v => tag v == k)).map (packetEvent k)) }) ∧
    (∀ k v, (k = 0 → packetEvent k v = .pktNop v) ∧ (k = 1 → packetEvent k v = .pktLaunch v) ∧
      (k = 2 → packetEvent k v = .pktWaitctr v) ∧ (k = 3 → packetEvent k v = .pktStore64 v) ∧
      (k = 4 → packetEvent k v = .pktAdd64 v) ∧ (k = 5 → packetEvent k v = .pktDrain v)) ∧
    (∀ ctx q n hdr body l, HeadPacket s vq 0 ctx q n hdr body l →
      exec (.pktNop vq) s = .next (passed s vq ctx q n hdr body l) ∧
      ∃ t, exec (.pktNop vq) s = .next t ∧
        t.fe.queues.get vq = some { q with head := q.head + BitVec.ofNat 64 n, held := none }) ∧
    (∀ ctx q n hdr body l m r, HeadPacket s vq 1 ctx q n hdr body l → let a := bytesNat (l.map s.homeByte)
      a + 512 ≤ 2 ^ 56 → a % 64 = 0 → s.feLocs ctx a 512 .load = .ok m → parseLaunch (m.map s.homeByte) = some r →
      exec (.pktLaunch vq) s = .next (passed ((s.feRead ctx a m).createCommand vq ctx r (m.map s.homeByte)) vq ctx q n hdr body l)) ∧
    (∀ ctx q n hdr body l m, HeadPacket s vq 2 ctx q n hdr body l → let a := bytesNat ((l.map s.homeByte).take 8)
      a + 8 ≤ 2 ^ 56 → a % 8 = 0 → s.feLocs ctx a 8 .load = .ok m →
      exec (.pktWaitctr vq) s = if bytesNat (((l.map s.homeByte).drop 8).take 8) ≤ bytesNat (m.map s.homeByte) then
        .next (passed (s.feRead ctx a m) vq ctx q n hdr body l) else .next (s.queueFree vq)) ∧
    (∀ ctx q n hdr body l m, HeadPacket s vq 3 ctx q n hdr body l → let a := bytesNat ((l.map s.homeByte).take 8)
      a + 8 ≤ 2 ^ 56 → a % 8 = 0 → s.feLocs ctx a 8 .store = .ok m → exec (.pktStore64 vq) s =
        .next (passed ((s.feNote ctx a m).fePut ctx m ((l.map s.homeByte).drop 8)) vq ctx q n hdr body l)) ∧
    (∀ ctx q n hdr body l m, HeadPacket s vq 4 ctx q n hdr body l → let a := bytesNat ((l.map s.homeByte).take 8)
      a + 8 ≤ 2 ^ 56 → a % 8 = 0 → s.feLocs ctx a 8 .atomic = .ok m → exec (.pktAdd64 vq) s =
        .next (passed ((s.feNote ctx a m).addHome feCore ctx 0 m (bytesNat (((l.map s.homeByte).drop 8).take 8))) vq ctx q n hdr
          body l)) ∧
    (∀ ctx q n hdr body l, HeadPacket s vq 5 ctx q n hdr body l → exec (.pktDrain vq) s =
      if s.cmds.all (fun e => e.2.vq != vq || e.2.completed) then .next (passed s vq ctx q n hdr body l) else
        .next (s.queueFree vq)) ∧
    (∀ q, s.fe.queues.get vq = some q → (s.queueFree vq).fe.queues.get vq = some { q with held := none } ∧
      (s.queueFree vq).mem = s.mem ∧ (s.queueFree vq).due = s.due) ∧
    (∀ q rest k, s.cpRuns = true → s.fe.waiting = vq :: rest → s.fe.queues.get vq = some q → q.wants = true → s.freeLane = some k →
      ∃ t u, exec (.queueMap vq) s = .next t ∧ t.fe.queues.get vq = some u ∧ u.lane = some (k, s.clock) ∧ u.en = q.en ∧
        (q.latch = none → u = { q with lane := some (k, s.clock) } ∧ t.fe.waiting = rest)) ∧
    (∀ q, s.fe.queues.get vq = some q → q.badRing = true → exec (.queueUnmap vq) s = .next (s.stopQueue vq 0x25)) ∧
    (∀ q, s.fe.queues.get vq = some q → q.badRing = false → q.idle = true →
      ∃ t u, exec (.queueUnmap vq) s = .next t ∧ t.fe.queues.get vq = some u ∧ u.lane = none ∧ u.head = q.head) ∧
    (∀ q k since, s.fe.queues.get vq = some q → q.lane = some (k, since) → 90000 ≤ (s.clock - since).toNat → s.fe.waiting ≠ [] →
      ∃ t u, exec (.queueTimesliceExpiry vq) s = .next t ∧ t.fe.queues.get vq = some u ∧ u.lane = none ∧ u.head = q.head)

/-- R288, R289, R291, R292, R297: what a host asks of its virtual interface, the first time and again: a doorbell goes into
the latch; the page reads and writes as R288 says; a queue is enabled from its block with HEAD, TAIL and COMPL 0, disabled,
and its STOP cleared; each is answered once and the answer repeated. -/
def Obligations.HostRequests : Prop :=
  ∀ (s : State) (fr : Frame) (vi : Nat) (seq : W32) (id : Nat) (c : Ctx),
    (∀ vq tail, vi = vq / 64 → FromHost s fr vi seq id c → s.fe.cpGated = false → exec (.doorbell fr vq seq tail) s =
      .next (answered ((s.setQueue vq { s.queueOf vq with latch := some tail }).lineUp vq) id vi seq 0 0)) ∧
    (∀ vq tail stat v, vi = vq / 64 → s.viCtx vi = some (id, c) → s.mode = .up → c.takes fr = true →
      s.fe.resuming = false → c.replies.find? (fun r => r.1 == seq) = some (seq, stat, v) →
      exec (.doorbell fr vq seq tail) s = .next (if c.pendingSeqs.contains seq then
        s.updCtx id (fun c => { c with replies := remember c.replies (seq, stat, v) }) else answered s id vi seq stat v)) ∧
    (FromHost s fr vi seq id c → s.fe.cpGated = false →
      (∀ off : W64, exec (.regrd fr vi seq off) s = .next (
        if off.toNat % 8 ≠ 0 ∨ 0x1000 ≤ off.toNat then answered s id vi seq 2 0
        else answered s id vi seq 0 (if off.toNat = 0 then BitVec.ofNat 64 (vi % 256) else if off.toNat = 8 then c.purse
          else if off.toNat = 16 then c.notify
          else if 0x100 ≤ off.toNat ∧ off.toNat < 0x300 then c.qcbAt (off.toNat / 8 - 32) else 0))) ∧
      (∀ (off v : W64), off.toNat % 8 ≠ 0 ∨ 0x1000 ≤ off.toNat →
        exec (.regwr fr vi seq off v) s = .next (answered s id vi seq 2 0)) ∧
      (∀ v : W64, exec (.regwr fr vi seq 0x10 v) s = .next (answered
        (s.updCtx id (fun c => { c with notify := BitVec.ofNat 64 (v.toNat / 2 ^ 48 * 2 ^ 48) })) id vi seq 0 0)) ∧
      (∀ (q : Nat) (v : W64), q < 64 →
        exec (.qcbWrite fr vi seq q v) s = .next (
          if (s.queueOf (64 * vi + q)).en = true ∨ v.toNat % 64 ≠ 0 then answered s id vi seq 2 0
          else answered (s.updCtx id (fun c =>
            { c with qcb := (c.qcb.filter (fun e => e.1 != q)) ++ [(q, v)] })) id vi seq 0 0) ∧
        exec (.regwr fr vi seq (BitVec.ofNat 64 (0x100 + 8 * q)) v) s = exec (.qcbWrite fr vi seq q v) s) ∧
      (∀ q ctx a l l', q < 64 → s.blockOf (64 * vi + q) = some (ctx, a) → (s.queueOf (64 * vi + q)).en = false →
        s.feLocs ctx a.toNat 64 .atomic = .ok l → (s.feRead ctx a.toNat l).feLocs ctx a.toNat 64 .store = .ok l' →
        ringLimits (s.homeNat l 0 8) (s.homeNat l 8 8) = true →
        ∃ t u, exec (.qcmdEnable fr vi seq q) s = .next t ∧ t.fe.queues.get (64 * vi + q) = some u ∧ u.en = true ∧
          u.base = BitVec.ofNat 64 (s.homeNat l 0 8) ∧ u.size = BitVec.ofNat 64 (s.homeNat l 8 8) ∧ u.head = 0 ∧ u.tail = 0 ∧
          u.compl = 0 ∧ u.stop = false ∧ u.err = 0 ∧ u.latch = none) ∧
      (∀ q old s1, q < 64 → s.fe.queues.get (64 * vi + q) = some old →
        (old.en = true → s.putQueue (64 * vi + q) { old with en := false, held := none } = .ok s1 →
          ∃ t, exec (.qcmdDisable fr vi seq q) s = .next t ∧
            t.fe.queues.get (64 * vi + q) = some { old with en := false, held := none }) ∧
        (s.putQueue (64 * vi + q) { old with stop := false, err := 0 } = .ok s1 →
          ∃ t, exec (.qcmdClearStop fr vi seq q) s = .next t ∧
            t.fe.queues.get (64 * vi + q) = some { old with stop := false, err := 0 })))

/-- R246, R294-R296, R383, R459, R466: RDMA reads and writes the bytes of one window, and nothing outside, behind the held
operations of its queue pair; poisoned bytes and atomics give an error; a frame on another VLAN is dropped; an operation held
for 1 ms gets a NAK, and with it what its queue pair holds behind it. One queue pair for each VI, the numbers of the results,
and that a reload takes the queues off their lanes are the model's choices (logs 138, 88, 90 and 176). A gated domain wakes,
and its buffered writes go on before what has been held since; the command processor is gated with its queues off their lanes,
a die only without a lease; a reload keeps every queue's HEAD, TAIL and COMPL. -/
def Obligations.RdmaAndDomains : Prop :=
  ∀ (s : State) (fr : Frame) (vi ctx : Nat) (c : Ctx) (a : W64),
    (s.viCtx vi = some (ctx, c) → s.mode = .up → c.onVlan fr = true →
      let s0 : State := { s with fe := { s.fe with resuming := false } }
      (s.fe.replay.any (onPair vi) = false → (s.fe.resuming = false → s.fe.hostHeld.any (fun h => onPair vi h.2.2) = false) →
        (∀ data l, c.inWindow a.toNat data.length = true → s0.feLocs ctx a.toNat data.length .store = .ok l →
          s0.gatedDie ctx l = none → exec (.rdmaWrite ⟨fr, vi⟩ a data) s =
            .next (((s0.feNote ctx a.toNat l).fePut ctx l data).rdmaResult vi rdmaDone a [])) ∧
        (∀ n l, c.inWindow a.toNat n = true → s0.feLocs ctx a.toNat n .load = .ok l → s0.gatedDie ctx l = none →
          exec (.rdmaRead ⟨fr, vi⟩ a n) s = .next (
            if l.any (isPoisoned s.mem.poison) then s0.rdmaResult vi rdmaOperationalError a []
            else (s0.feRead ctx a.toNat l).rdmaResult vi rdmaDone a (l.map s0.homeByte)))) ∧
      (s.fe.replay.any (onPair vi) = false → s.fe.resuming = false → s.fe.hostHeld.any (fun h => onPair vi h.2.2) = true →
        ∀ n, c.inWindow a.toNat n = true → exec (.rdmaRead ⟨fr, vi⟩ a n) s = .next { s0 with
          nextId := s.nextId + 1,
          fe := { s0.fe with hostHeld := s.fe.hostHeld ++ [(s.nextId, s.clock, .rdmaRead ⟨fr, vi⟩ a n)] } }) ∧
      (∀ data n, c.inWindow a.toNat data.length = false → c.inWindow a.toNat n = false →
        exec (.rdmaWrite ⟨fr, vi⟩ a data) s = .next (s0.rdmaResult vi rdmaAccessError a []) ∧
        exec (.rdmaRead ⟨fr, vi⟩ a n) s = .next (s0.rdmaResult vi rdmaAccessError a [])) ∧
      exec (.rdmaAtomicRefused ⟨fr, vi⟩ a) s = .next (s.rdmaResult vi rdmaAccessError a [])) ∧
    (s.viCtx vi = some (ctx, c) → c.onVlan fr = false → exec (.rdmaAtomicRefused ⟨fr, vi⟩ a) s = .next s) ∧
    (∀ k since n, s.fe.hostHeld.find? (fun h => h.1 == k) = some (k, since, .rdmaRead ⟨fr, vi⟩ a n) →
      1800000 ≤ (s.clock - since).toNat →
      let behind := s.fe.hostHeld.dropWhile (fun h => h.1 != k)
      exec (.hostRdmaHoldExpiry k) s = .next (s.nakHeld vi behind) ∧ (s.nakHeld vi behind).mem = s.mem ∧
      (∀ h ∈ behind, onPair vi h.2.2 = true → ∀ x ∈ (s.nakHeld vi behind).fe.hostHeld, x.1 ≠ h.1) ∧
      (∀ x ∈ s.fe.hostHeld, onPair vi x.2.2 = false → (∀ h ∈ behind, h.1 = x.1 → h = x) → x ∈ (s.nakHeld vi behind).fe.hostHeld) ∧
      (s.mode = .up → ⟨rdmaNak, vi, 0, 0, a, []⟩ ∈ (s.nakHeld vi behind).fe.out)) ∧
    (s.fe.cpGated = true → ∃ t, exec (.gatedDomainWake 0) s = .next t ∧ t.fe.cpGated = false ∧
      t.fe.hostHeld.map (fun h => h.2.2) = s.fe.replay.filter (fun i => !isRdma i) ++ s.fe.hostHeld.map (fun h => h.2.2) ∧
      t.fe.replay = s.fe.replay.filter isRdma) ∧
    (∀ k d, s.dies.get k = some d → d.gated = true → ∃ t, exec (.gatedDomainWake (k + 1)) s = .next t ∧
      t.dies.get k = some { d with gated := false } ∧
      t.fe.hostHeld.map (fun h => h.2.2) = s.fe.replay.filter isRdma ++ s.fe.hostHeld.map (fun h => h.2.2)) ∧
    (s.mode = .up → (∃ t, exec (.powerGating 0) s = .next t ∧ t.fe.cpGated = true ∧ ∀ e ∈ t.fe.queues, e.2.lane = none) ∧
      (∀ k d, s.dies.get k = some d → (∀ e ∈ s.ctxs, e.2.holdsOn k = false) →
        ∃ t e, exec (.powerGating (k + 1)) s = .next t ∧ t.dies.get k = some e ∧ e.gated = true)) ∧
    (∃ t, exec .cpFirmwareReload s = .next t ∧ ∀ vq q, s.fe.queues.get vq = some q → (s.blockOf vq).isSome = true →
      ∃ u, t.fe.queues.get vq = some u ∧ u.lane = none ∧ u.en = q.en ∧ u.head = q.head ∧ u.tail = q.tail ∧ u.compl = q.compl)

/-- R7, R347, R349-R354, R356-R358: an auction gives at most its units, at no less than the reserve and than every rejected
price; the snapshot clears it and changes no memory; prices are published and leases released in their order; at the start of
an interval every purse gains its refill and pays for the coming lease, which begins; a price table replaces its package's; a
context that is to move is saved, and one that another package accepts holds nothing here; one that another package offers is
answered, and takes its own number at its anchor or a free one elsewhere. What the snapshot clears at once (log 91), what the
packages tell each other and the forms of that (logs 98 and 137), and when PKG changes (log 172) are the model's choices. -/
def Obligations.IntervalAndMarket : Prop :=
  (∀ (u r : Nat) (bids : List Bid), r ≤ (clearing u r bids).price ∧
    sumNat ((clearing u r bids).won.map (·.2)) + (clearing u r bids).left = u ∧
    (∀ b ∈ bids, b.kept ≠ 0 → wonBy (clearing u r bids).won b.ctx < b.kept → b.price ≤ (clearing u r bids).price)) ∧
  ∀ (s : State), s.mode = .up → s.market.started = true →
    (s.market.stage = .bidding → 414000 ≤ s.elapsed → ∃ t, exec .bidSnapshot s = .next t ∧
      t = s.clear ((s.ctxs.filter (fun e => e.2.away.isNone)).map (fun e => Ctx.snap e.1 e.2)) ∧
      t.market.stage = .snapshotted ∧ t.market.interval = s.market.interval ∧ t.mem = s.mem ∧ t.groups = s.groups ∧
      (∀ id c, s.ctxs.get id = some c → ∃ d, t.ctxs.get id = some d ∧ d.purse = c.purse ∧ d.held = c.held ∧ d.home = c.home)) ∧
    (s.market.stage = .snapshotted → 423000 ≤ s.elapsed → ∃ t, exec .pricePublication s = .next t ∧
      t.market = { s.market with stage := .published, pxLink := s.market.nextPxLink } ∧
      (∀ k d p, s.dies.get k = some d → s.market.nextPx[k]? = some p → t.dies.get k = some { d with px := p }) ∧
      t.mem = s.mem ∧ t.groups = s.groups) ∧
    (s.market.stage = .published → 423000 ≤ s.elapsed → ∃ t, exec .releaseWindow s = .next t ∧ t.market.stage = .released ∧
      ((∀ e ∈ s.ctxs, e.2.offer = none ∧ e.2.lostHalves = [] ∧ e.2.held.units.bank.length ≤ e.2.keptBanks ∧
          (e.2.moveTo = none ∧ ∀ k ∈ e.2.held.units.way, k ∈ e.2.next.units.way)) →
        t = State.sendPod { s with market := { s.market with stage := .released } } podPrices 64 s.market.interval.toNat
          s.priceTable)) ∧
    (s.market.stage = .released → 450000 ≤ s.elapsed → ∃ t, exec .intervalStart s = .next t ∧
      t.market.interval = s.market.interval + 1 ∧ t.market.stage = .bidding ∧
      ∀ id c, s.ctxs.get id = some c → (∀ e ∈ s.ctxs, e.1 = id → e.2.away = none) →
        ∃ d, t.ctxs.get id = some d ∧ d.held = c.next ∧ d.next = Holding.none ∧
        d.purse = BitVec.ofNat 64 (min ((c.purseWrite.getD c.purse).toNat + c.refill.toNat) (2 ^ 64 - 1) - c.next.cost) ∧
        d.spent = BitVec.ofNat 64 c.next.cost ∧ d.purseWrite = none ∧
        d.home = (match c.moveTo with | some k => BitVec.ofNat 2 k | none => c.home)) ∧
    (∀ pkg n p u, exec (.priceTableReceive pkg n p u) s = .next { s with market := { s.market with
      tables := s.market.tables.filter (fun t => t.1 != pkg) ++ [(pkg, n, p, u)] } }) ∧
    (s.market.stage = .published ∨ s.market.stage = .released → ∀ id c, s.ctxs.get id = some c →
      (c.moveTo.isSome ∨ c.offer.isSome → exec (.contextMigrate id) s = .next (s.saveWhere id .lease (fun _ => true))) ∧
      (∀ p d, c.offer = some (p, d) →
        (∀ num, ∃ t e, exec (.migrationAccept id (.answer true num)) s = .next t ∧ t.ctxs.get id = some e ∧ e.next = Holding.none ∧
          e.offer = none ∧ e.away = some p ∧ e.awayNo = num ∧ e.moveTo = some d ∧ e.purse = c.purse ∧ e.vi = c.vi ∧
          ∀ k x, t.teams.get k = some x → x.ctx = id → x.onCores = false) ∧
        ∀ num, exec (.migrationAccept id (.answer false num)) s = .next (s.updCtx id (fun c => { c with offer := none })))) ∧
    (s.market.stage = .published ∨ s.market.stage = .released → ∀ pkg num apkg anchor r bids config,
      exec (.migrationAccept pkg (.offered num apkg anchor r bids config false)) s = .next (s.sendPod podAnswer pkg num [0]) ∧
      (∀ k, apkg ≠ s.market.pkg.toNat → s.freeCtx = some k →
        ∃ t c, exec (.migrationAccept pkg (.offered num apkg anchor r bids config true)) s = .next t ∧
          t.ctxs = s.ctxs.set k c ∧ c.vi = none ∧ c.anchor = some (apkg, anchor) ∧ c.bids = bidsOf bids ∧
          c.purse = BitVec.ofNat 64 (fieldAtOff r 0 8) ∧ c.refill = BitVec.ofNat 64 (fieldAtOff r 8 8) ∧
          c.trapvec = BitVec.ofNat 64 (fieldAtOff r 32 8) ∧ c.relcnt = BitVec.ofNat 64 (fieldAtOff r 48 8) ∧
          ⟨podAnswer, num, 0, BitVec.ofNat 32 pkg, 0, 1 :: natBytes 2 k⟩ ∈ t.fe.out ∧ t.mem = s.mem ∧ t.groups = s.groups) ∧
      (apkg ≠ s.market.pkg.toNat → s.freeCtx = none →
        exec (.migrationAccept pkg (.offered num apkg anchor r bids config true)) s = .next (s.sendPod podAnswer pkg num [0])) ∧
      (∀ c, apkg = s.market.pkg.toNat → s.ctxs.get anchor = some c → c.away.isSome = true →
        ∃ t d, exec (.migrationAccept pkg (.offered num apkg anchor r bids config true)) s = .next t ∧
          t.ctxs.get anchor = some d ∧ d.away = none ∧ d.coming = true ∧ d.vi = c.vi ∧ d.anchor = c.anchor ∧ d.bids = bidsOf bids ∧
          d.purse = BitVec.ofNat 64 (fieldAtOff r 0 8) ∧ d.refill = BitVec.ofNat 64 (fieldAtOff r 8 8) ∧
          ⟨podAnswer, num, 0, BitVec.ofNat 32 pkg, 0, 1 :: natBytes 2 anchor⟩ ∈ t.fe.out ∧ t.mem = s.mem ∧ t.groups = s.groups))

/-- R375-R377, R382, R384-R388, R425, R459: a page moves to a free frame of the tier and die asked for, its bytes with it, but
to no frame of a channel that its stack could not absorb, and a request for one in flight queues; the oldest page of a die
short of frames goes, and a far one that is wanted comes, or waits where the frame that the Tuiron names is taken; a retired
channel is rebuilt on the rest of its stack, up to four; scrubbing counts, clears and poisons, and above 256 corrections
within 30 minutes asks for its channel's retirement; a slice that fails serves until the next plan maps it out, and by the
model's reading (log 143) one beyond the budget ends in the safe state; a failed link leaves the plan with the routes moved,
and where these miss a condition of R381, or a die-to-die port fails, the package is safe. -/
def Obligations.PagesAndMemoryUnits : Prop :=
  (∀ (m : Mem) (src n dst : Nat), m.wf = true → (moveBytes m src n dst).wf = true ∧
    (∀ i, i < n → (moveBytes m src n dst).read (dst + i) = m.read (src + i)) ∧
    (∀ a, (a < dst ∨ dst + n ≤ a) → (a < src ∨ src + n ≤ a) → (moveBytes m src n dst).read a = m.read a)) ∧
  ∀ (s : State),
    (∀ k p die (f : W64), s.mem.pages[k]? = some p → s.frameOk p.size f.toNat = true →
      (p.inFlight = true → exec (.pageMoveStart k true die f) s = .next (s.updPage k (fun p => p.wait .evict))) ∧
      (∀ d x, (p.state = .inFlight false d x → exec (.pageMoveStart k false die f) s =
          .next (s.updPage k (fun p => p.wait (.migrate die)))) ∧
        (p.state = .inFlight true d x → exec (.pageMoveStart k false die f) s = .next (s.updPage k (fun p => p.wait .promote)))) ∧
      (p.inFlight = false → s.backsBank p = true ∨ p.pinned = true ∨ p.state = .far → exec (.pageMoveStart k true die f) s = .next s) ∧
      (p.state = .near → p.pinned = false → p.remote = none → s.backsBank p = false → p.size ≤ s.farFree →
        exec (.pageMoveStart k true die f) s = .next ((s.cleanPage p).updPage k (fun p =>
          { p with state := .inFlight true p.die f.toNat, fromFar := false }))) ∧
      (p.state = .far → p.size ≤ s.nearFree (s.homeOf p.ctx p.die) → exec (.pageMoveStart k false die f) s =
        .next (if s.frameLost (s.homeOf p.ctx p.die) f.toNat then s else (s.cleanPage p).updPage k (fun p =>
          { p with state := .inFlight false (s.homeOf p.ctx p.die) f.toNat, fromFar := true }))) ∧
      (p.state = .near → p.die ≠ die → p.size ≤ s.nearFree die → exec (.pageMoveStart k false die f) s =
        .next (if s.frameLost die f.toNat then s else (s.cleanPage p).updPage k (fun p =>
          { p with state := .inFlight false die f.toNat, fromFar := false })))) ∧
    (∀ k p far die f, s.mem.pages[k]? = some p → p.state = .inFlight far die f → p.queued = [] → far = true ∨ s.frameLost die f = false →
      ∃ t, exec (.pageMoveComplete k) s = .next t ∧ t.mem.pages[k]? = some { p with
        frame := f, die := if far then s.homeOf p.ctx die else die, state := if far then .far else .near, age := 0, farHits := 0,
        pinned := false } ∧
        (∀ e ∈ t.cores, ∀ x ∈ e.2.tlb, x.frame + x.size ≤ p.frame ∨ p.frame + p.size ≤ x.frame)) ∧
    (∀ die, (s.evicts die = false → exec (.pageEviction die) s = .next (s.updDie die (fun d => { d with evicting := false }))) ∧
      (s.evicts die = true → ∀ k p, oldestPage (s.victims die) = some (k, p) →
        (k, p) ∈ s.numbered ∧ p.state = .near ∧ p.die = die ∧ p.pinned = false ∧ s.backsBank p = false ∧
        (∀ e ∈ s.victims die, e.2.age ≤ p.age) ∧
        exec (.pageEviction die) s =
          .next ((s.updDie die (fun d => { d with evicting := true })).requestMove k .evict))) ∧
    (∀ k p, s.mem.pages[k]? = some p →
      (p.state = .near → exec (.farAccessPromotion k) s = .next s) ∧
      (p.inFlight = true → exec (.farAccessPromotion k) s = .next (s.updPage k (fun p => p.wait .promote))) ∧
      (p.state = .far → p.size ≤ s.nearFree (s.homeOf p.ctx p.die) →
        ∃ t q, exec (.farAccessPromotion k) s = .next t ∧ t.mem.pages[k]? = some q ∧
          (let frame := s.freeValue.toNat % 2 ^ 52 / p.size * p.size
           if s.takeFree.frameOk p.size frame = true ∧ s.frameLost (s.homeOf p.ctx p.die) frame = false then q.inFlight = true
           else PageMove.promote ∈ q.queued))) ∧
    (∀ die stack chan d, s.dies.get die = some d → (stack, chan) ∉ d.retiredChans →
      ∃ t e, exec (.channelRetire die stack chan) s = .next t ∧ t.dies.get die = some e ∧
        e.retiredChans = d.retiredChans ++ [(stack, chan)] ∧ e.slotUnits = d.slotUnits - 1 ∧
        ((d.retiredChans.filter (fun c => c.1 == stack)).length < 4 →
          e.rebuilding = d.rebuilding ++ [(stack, chan)] ∧ e.lostBytes = d.lostBytes ∧ t.mem = s.mem) ∧
        (4 ≤ (d.retiredChans.filter (fun c => c.1 == stack)).length →
          e.rebuilding = d.rebuilding ∧ e.lostBytes = d.lostBytes + 520093696)) ∧
    (∀ die stack chan d, s.dies.get die = some d → ∃ t, exec (.channelRebuildComplete die stack chan) s = .next t ∧
      t.dies.get die = some { d with rebuilding := d.rebuilding.filter (fun c => c != (stack, chan)) } ∧ t.mem.sys = s.mem.sys) ∧
    (∀ line, let row := Config.rowOf line
      (∀ n, s.mgmt.flags.get row = some n → n < 15 → ∃ t, exec (.scrubVisit line .clean) s = .next t ∧
        t.mgmt.flags = s.mgmt.flags.set row (n + 1) ∧ t.mem = s.mem) ∧
      (s.mgmt.flags.get row = some 15 → ∃ t, exec (.scrubVisit line .clean) s = .next t ∧
        t.mgmt.flags = s.mgmt.flags.del row ∧ t.mem = s.mem) ∧
      (∀ res, res = .corrected ∨ res = .symbol → ∃ t, exec (.scrubVisit line res) s = .next t ∧
        t.mgmt.flags.get row = some 0 ∧ t.mem = s.mem ∧
        (∀ die stack chan r d, Config.rowPlace row = (die, stack, chan, r) → s.lineTier line ≠ 1 → s.dies.get die = some d →
          256 ≤ (d.fixes.filter (fun x => x.1 == stack && x.2.1 == chan && (s.clock - x.2.2).toNat < 3240000000000)).length →
          .channelRetire die stack chan ∈ t.due)) ∧
      (∃ t, exec (.scrubVisit line .uncorrectable) s = .next t ∧ isPoisoned t.mem.poison (.spa (128 * line)) = true ∧
        t.mem.sys = s.mem.sys ∧ ((s.mgmt.flags.get row).isSome = true → t.mgmt.flags.get row = some 0))) ∧
    (∀ die slice readable d, s.dies.get die = some d → slice ∉ d.retiredSlices → slice ∉ d.leaving →
      ∃ t e, exec (.sliceRetire die slice readable) s = .next t ∧ t.dies.get die = some e ∧
        e.leaving = d.leaving ++ [slice] ∧ e.retiredSlices = d.retiredSlices ∧ t.mem.sys = s.mem.sys ∧
        (slicesBeyond (d.retiredSlices ++ d.leaving ++ [slice]) = true → t.mode = .safe) ∧ (readable = true → t.mem = s.mem) ∧
        (readable = false → ∀ x ∈ s.mem.l2, x.die = die → x.slice = slice → x.dirty = true →
          isPoisoned t.mem.poison (.spa (128 * x.line)) = true)) ∧
    (∀ die r p d, s.dies.get die = some d → die ≠ hubDie → r < 64 → portOn d.plan.bytes r p = true → (r, p) ∉ d.failed →
      let lost := if twoEnded d.plan.bytes r p then [(r, p), linkOf d.plan.bytes r p] else [(r, p)]
      let plan := withoutLink d.plan.bytes r p
      ∃ t e, exec (.linkFailure die r p) s = .next t ∧ t.dies.get die = some e ∧
        e.failed = d.failed ++ lost ∧ e.plan = { d.plan with bytes := plan } ∧ t.mem = s.mem ∧
        t.mode = (if planRoutes plan e die then s.mode else .safe)) ∧
    (∀ r p far, hubNext r p = some far → s.hubUp r p = true → ∃ t, exec (.linkFailure hubDie r p) s = .next t ∧
      t.fabric.hubFailed = s.fabric.hubFailed ++ [(r, p), (far, (p + 2) % 4)] ∧ t.mode = s.mode ∧ t.mem = s.mem) ∧
    (∀ a b, s.portUp a b = true → ∃ t, exec (.linkFailure a portLink b) s = .next t ∧ t.mode = .safe ∧ t.mem = s.mem ∧
      t.fabric.portsFailed = s.fabric.portsFailed ++ [(a, b), (b, a)])

/-- R458-R465, R474: from when a package is given up its pages are lost, and what is held towards them ends with 0x3B; a late
transition is counted at its pipe; a worn pipe is replaced, and the third retires its core; an error in an idempotent group
restarts it at CR.IDEMPC with its vector registers, in any other raises 0x38, 0x39 or 0x3C; one hidden in place is counted, a
bad line is poisoned, and a bad dirty line leaves its L1 unwritten and poisoned at home (R459), a clean one leaves it; where a
restart would be the fourth the team moves, or receives 0x3A where all of them consumed poison read at home; a core under test
comes back or is retired; the limits of temperature withhold starts, with one record in an interval, and above the last one
the package is safe. That a restart leaves handler mode (log 104), the free or stated CR.TVAL and the records of 0x38 to 0x3D
(log 105), the code of a bad symbol in a buffer (log 173), and the terms of a team's move (log 106) are the model's choices.
-/
def Obligations.ReliabilityAndHeat : Prop :=
  ∀ (s : State),
    (∀ pkg, let s1 : State := { s with mem := { s.mem with pages := s.mem.pages.map (fun p =>
          if p.remote = some pkg then { p with lost := true } else p) } }
      exec (.destinationGivenUp pkg) s = .next s1.giveUpHeld ∧
      (s1.heldLost = false → exec (.destinationGivenUp pkg) s = .next s1) ∧
      (∀ o a w f, s.ops = [o] → s1.lostLane o = some a → s1.opWho o = some w → accForm o.instr = some f → o.whole = false →
        let t : State := ((({ s1.finishOp o w f (s1.freeLanes o) with free := s.free + 512 } : State).dropOp o.id).goOn o w)
        let u := (t.unreachable w a).opDone o.core o.gid
        u.heldLost = false → exec (.destinationGivenUp pkg) s = .next u)) ∧
    (∀ core pipe c k, s.cores.get core = some c → s.ctxsOn core = [k] → (c.replaysOf pipe s.clock).length < 15 →
      ∃ t d, exec (.lateTransitionReplay core pipe) s = .next t ∧ t.cores.get core = some d ∧
        d.replaysOf pipe s.clock = c.replaysOf pipe s.clock ++ [s.clock] ∧ t.ctxs = (s.relcntUp k).ctxs ∧ t.mem = s.mem ∧
        t.groups = s.groups) ∧
    (∀ core pipe c, s.cores.get core = some c → c.state ≠ .retired → 16 ≤ (c.replaysOf pipe s.clock).length →
      ∃ t d, exec (.pipeRetire core pipe) s = .next t ∧ t.mgmt.wornPipes = s.mgmt.wornPipes ++ [(s.physCore core, pipe)] ∧
        t.cores.get core = some d ∧ (if (s.lostPipes core).length < 2 then d.state = c.state else d.state = .retired)) ∧
    (∀ gid g e, isConsumed e = true → s.groups.get gid = some g → g.dead = false → g.idem = true → g.covered e = true →
      g.restarts < 3 → g.cause = 0 → (∀ p b, g.partner = some p → s.groups.get p = some b → b.cause = 0) →
      ∃ t h, exec (.idemRestart gid e) s = .next t ∧ t.groups.get gid = some h ∧ h.restarts = g.restarts + 1 ∧ h.v = g.v ∧
        h.frags = [g.freshFrag s.nextId ((Pc.ofAddr g.idemPc).getD ⟨g.idemPc, 0⟩) g.idemFmt g.idemStack] ∧ h.hm = false ∧
        h.tryR = none) ∧
    (∀ gid g e, isConsumed e = true → s.groups.get gid = some g → g.dead = false → g.idem = true → g.covered e = true →
      3 ≤ g.restarts → exec (.idemRestart gid e) s = .next (s.push (.restartLimitMove gid e))) ∧
    (∀ gid c, exec (.idemRestart gid (.delay c none)) s =
        .next { s.relcntUp c with mgmt := s.mgmt.corrected (s.homeOf c 0) 2 } ∧
      ∀ line symbol, exec (.idemRestart gid (.delay c (some (line, symbol)))) s = .next ((s.relcntUp c).correct line symbol)) ∧
    (∀ gid g, s.groups.get gid = some g → g.dead = false →
      (∀ e, isConsumed e = true → g.idem = false ∨ g.covered e = false →
        exec (.idemRestart gid e) s = .next (s.raiseFatal gid
          (match e with | .vreg _ _ => 0x39 | .sreg _ => 0x39 | .matrix _ => 0x3C | _ => 0x38)
          (match e with
           | .poison a _ _ => some a
           | .vreg n j => some (BitVec.ofNat 64 (128 * n + 16 * j))
           | .sreg n => some (BitVec.ofNat 64 (0x8000 + 8 * n))
           | _ => none) e)) ∧
      exec (.idemRestart gid (.hidden none)) s =
        .next { s.relcntUp g.ctx with mgmt := s.mgmt.corrected (coreDie g.core) 2 } ∧
      (∀ line symbol, exec (.idemRestart gid (.hidden (some (line, symbol)))) s = .next ((s.relcntUp g.ctx).correct line symbol)) ∧
      (∀ line c l, s.cores.get g.core = some c → c.copy? line = some l → l.isDirty = false →
        exec (.idemRestart gid (.clean line)) s = .next ((s.leaveL1 g.core line).hideError g none)) ∧
      (∀ level n, exec (.idemRestart gid (.line level n)) s = .next (s.poisonLine g.ctx (keyLoc level (128 * n)))) ∧
      (∀ line c l, s.cores.get g.core = some c → c.copy? line = some l → l.isDirty = true →
        ∃ t, exec (.idemRestart gid (.dirty line)) s = .next t ∧ isPoisoned t.mem.poison (.spa (128 * line)) = true ∧
          t.mem.sys = s.mem.sys ∧ t.cores = (s.updCore g.core (fun c => c.drop line)).cores) ∧
      (s.onCore g = false → exec (.idemRestart gid .image) s = .next (s.raiseFatal gid 0x3D none .image))) ∧
    (∀ gid g, s.groups.get gid = some g → g.dead = false →
      (∀ e, g.idem = false ∨ g.restarts < 3 → exec (.restartLimitMove gid e) s = .next s) ∧
      (∀ a fid, g.idem = true → 3 ≤ g.restarts → g.homePoison = true → exec (.restartLimitMove gid (.poison a true fid)) s =
        .next (s.raiseFatal gid 0x3A (some a) (.poison a true fid))) ∧
      (∀ t c, g.idem = true → 3 ≤ g.restarts → s.teams.get g.team = some t → t.state = .draining c → ∀ k, s.cores.get g.core = some k →
        ∃ u v d, exec (.restartLimitMove gid (.pipe gid)) s = .next u ∧ u.teams.get g.team = some v ∧
          v.avoid = some g.core ∧ v.moved = some (gid, none, s.clock) ∧ u.cores.get g.core = some d ∧
          d.state = .underTest s.clock)) ∧
    (∀ core c since, s.cores.get core = some c → c.state = .underTest since → 90000000 ≤ (s.clock - since).toNat →
      exec (.coreTestComplete core true) s = .next (s.updCore core (fun c => { c with state := .inService })) ∧
      ∃ t d, exec (.coreTestComplete core false) s = .next t ∧ t.cores.get core = some d ∧ d.state = .retired) ∧
    (s.mode = .up →
      exec .thermalGateHalf s = .next (s.setThermal .half) ∧
      (s.mgmt.thermal ≠ .sevenEighths → s.mgmt.heatNoted = true →
        exec .thermalGateSevenEighths s = .next (s.setThermal .sevenEighths)) ∧
      (s.mgmt.thermal ≠ .sevenEighths → s.mgmt.heatNoted = false → ∃ t, exec .thermalGateSevenEighths s = .next t ∧
        t.mgmt.thermal = .sevenEighths ∧ t.mgmt.heatNoted = true ∧ t.mem = s.mem ∧ t.groups = s.groups ∧
        t.mgmt = ({ s.mgmt with thermal := .sevenEighths, heatNoted := true } : Mgmt).addInformation (deviceRecord 0)) ∧
      exec (.thermalGateRelease 0) s = .next (s.setThermal .none) ∧ exec (.thermalGateRelease 1) s = .next (s.setThermal .half) ∧
      ∃ t, exec .thermalShutdown s = .next t ∧ t.mode = .safe ∧ t.cur = none ∧ t.due = [])

/-- R346-R348, R381, R440, R446, R448-R453, R467-R473: what the operator asks of the management function, answered once:
objects read and written, a staged plan applied, translations invalidated once no open region pins them (R432), trap records
resolved, teams and stopped groups acted on by their place, firmware verified, a report made, the package reset; and what
bring-up leaves. The windows at offset 80 of object 0x200 + c (log 24), STAT 2 for what does not exist (log 109), the
acknowledgement (log 110), the end of a stopped group with its bobbin (log 112), ML-DSA and SHA3 (log 113, presumed) and what
bring-up makes of what has failed (log 114) are the model's choices. -/
def Obligations.ManagementActions : Prop :=
  ∀ (s : State) (msg : MgmtMsg), Managed s msg →
    (∀ obj b (off : W64) n, s.object obj = some b → n ≤ 1024 →
      exec (.mread msg obj off n) s = .next (managed s msg.seq 0 (fit n ((b.drop off.toNat).take n)))) ∧
    (∀ k c (off : W64) (d : List Byte), k < 256 → s.ctxs.get k = some c → d.length ≤ 1000 → exec (.mwrite msg (0x20 + k) off d) s =
      .next (managed (s.updCtx k (fun _ => c.writeRecord off.toNat d)) msg.seq 0 [])) ∧
    (∀ k c j (d : List Byte), k < 256 → s.ctxs.get k = some c → j < 16 → d.length = 16 →
      ∃ e, exec (.mwrite msg (0x200 + k) (BitVec.ofNat 64 (80 + 16 * j)) d) s = .next (managed (s.updCtx k (fun _ => e)) msg.seq 0 []) ∧
        e.windows[j]? = some (BitVec.ofNat 64 (fieldAtOff d 0 8), BitVec.ofNat 64 (fieldAtOff d 8 8)) ∧
        (e.config.drop (80 + 16 * j)).take 16 = d) ∧
    (∀ obj off d, s.object obj = none → (∀ k, obj = 0x200 + k → 256 ≤ k) → obj ≠ 2 → (obj < 0x10 ∨ 0x14 ≤ obj) → obj ≠ 0x120 →
      exec (.mwrite msg obj off d) s = .next (managed s msg.seq 2 [])) ∧
    (∀ k d, s.dies.get k = some d → exec (.applyStagedPlan msg k) s =
      .next (managed (s.updDie k (fun d => { d with apply := true })) msg.seq 0 [])) ∧
    (∀ ctx (base len : W64),
      (s.pinned ctx 1 base.toNat len.toNat = true →
        exec (.invalidateTranslations msg ctx 1 base len) s = .next (s.holdInv (.invalidateTranslations msg ctx 1 base len))) ∧
      (s.pinned ctx 1 base.toNat len.toNat = false →
        ∃ t, exec (.invalidateTranslations msg ctx 1 base len) s = .next (managed t msg.seq 0 []) ∧ t.mem = s.mem ∧
          ∀ e ∈ t.cores, ∀ x ∈ e.2.tlb, x.ctx = ctx → x.base + x.size ≤ base.toNat ∨ base.toNat + len.toNat ≤ x.base)) ∧
    (∀ id r, s.mgmt.record? id = some r →
      (r.isFault = true → exec (.resolveRetry msg id) s = .next (managed ((s.freeEntry id).wakeAll (waitsForLine r)) msg.seq 0 []) ∧
        exec (.resolveRefuse msg id) s = .next (managed ((s.freeEntry id).refusePage r) msg.seq 0 [])) ∧
      (r.isSvc = true → exec (.resolveDone msg id) s = .next (managed ((s.freeEntry id).answerSvc r true) msg.seq 0 []) ∧
        (r.isFault = false →
          exec (.resolveRefuse msg id) s = .next (managed ((s.freeEntry id).answerSvc r false) msg.seq 0 []))) ∧
      (∃ t, exec (.resolveAcknowledge msg id) s = .next (managed t msg.seq 0 []) ∧ t.mgmt.record? id = none ∧ t.mem = s.mem)) ∧
    (∀ die cluster core slot gid g, s.groupAt g.ctx die cluster core slot = some (gid, g) →
      exec (.preemptTeam msg g.ctx die cluster core slot) s = .next (managed (s.preempt g.team .operator) msg.seq 0 []) ∧
      (∀ fid, g.stopped = some fid →
        (∃ t h, exec (.resumeStoppedGroup msg g.ctx die cluster core slot) s = .next (managed t msg.seq 0 []) ∧
          t.groups.get gid = some h ∧ h.stopped = none ∧ h.cause = 0 ∧ h.pendTval = [] ∧ t.mem = s.mem) ∧
        exec (.endStoppedGroup msg g.ctx die cluster core slot) s = .next (managed (s.endGroup gid g) msg.seq 0 []))) ∧
    exec (.verifyFirmware msg) s = .next (if imageOk s.mgmt.staging s.mgmt.fusedMin then
      managed { s with mgmt := { s.mgmt with committed := some s.mgmt.staging } } msg.seq 0 [] else managed s msg.seq 2 []) ∧
    (∀ vi nonce, let f := s.reportFields vi nonce
      let random := (List.range 32).map (fun k => (Config.freeWord (s.free + k)).setWidth 8)
      exec (.attestationReport msg vi nonce) s = .next (managed { s with free := s.free + 32, mgmt := { s.mgmt with
        report := f ++ fit 4627 (mldsaSign Config.identityKey (sha3 f) random) } } msg.seq 0 [])) ∧
    (∃ t, exec (.packageReset msg) s = .next t ∧ t.mode = .bringUp ∧ t.groups = [] ∧ t.ctxs = [] ∧ t.mem = MemSys.reset ∧
      t.due = [.powerOnReset]) ∧
    (∃ t, exec .powerOnReset s = .next t ∧ t.groups = [] ∧ t.ctxs = [] ∧ t.mem = MemSys.reset ∧ t.fe.queues = [] ∧
      (if imageOk s.mgmt.bootImage s.mgmt.fusedMin = true ∧ s.mgmt.testFails = false then
        t.mode = .up ∧ t.clock = t.market.t0 ∧ t.market.t0.toNat ≤ 4860000000 ∧ t.market.interval = 0 ∧ t.market.stage = .bidding ∧ t.cores.length = 704 ∧
          t.dies.length = 4
      else t.mode = .safe))
end

