-- ==== Sys2Proof/Laws/State.lean ====
section
/-! SUPPORT. Tables read after writes, and one lemma for each field of State under each named update of it. -/

namespace Sys2Proof.Machine

open Sys2Proof

/-! ### Tables -/

@[simp] theorem Table.get_nil {α : Type} (k : Nat) : Table.get ([] : Table α) k = none := rfl

@[simp] theorem Table.get_set_same {α : Type} (t : Table α) (k : Nat) (v : α) : (Table.set t k v).get k = some v := by
  induction t with
  | nil => simp [Table.set, Table.get]
  | cons e t ih =>
    obtain ⟨j, x⟩ := e
    simp only [Table.set]
    split
    · simp [Table.get]
    · split
      · simp [Table.get]
      · rename_i h; simp [Table.get, h, ih]

theorem Table.get_set_ne {α : Type} (t : Table α) (k j : Nat) (v : α) (h : j ≠ k) :
    (Table.set t k v).get j = t.get j := by
  induction t with
  | nil => simp [Table.set, Table.get, h]
  | cons e t ih =>
    obtain ⟨i, x⟩ := e
    simp only [Table.set]
    split
    · simp [Table.get, h]
    · split
      · rename_i hk; subst hk; simp [Table.get, h]
      · simp [Table.get, ih]

theorem Table.get_set {α : Type} (t : Table α) (k j : Nat) (v : α) :
    (Table.set t k v).get j = if j = k then some v else t.get j := by
  split
  · rename_i h; subst h; simp
  · rename_i h; exact Table.get_set_ne t k j v h

theorem Table.upd_of_get {α : Type} {t : Table α} {k : Nat} {x : α} (f : α → α) (h : t.get k = some x) :
    t.upd k f = t.set k (f x) := by simp [Table.upd, h]

theorem Table.upd_none {α : Type} {t : Table α} {k : Nat} (f : α → α) (h : t.get k = none) : t.upd k f = t := by
  simp [Table.upd, h]

theorem Table.get_upd_same {α : Type} (t : Table α) (k : Nat) (f : α → α) : (t.upd k f).get k = (t.get k).map f := by
  cases h : t.get k <;> simp [Table.upd, h]

theorem Table.get_upd_ne {α : Type} (t : Table α) (k j : Nat) (f : α → α) (h : j ≠ k) : (t.upd k f).get j = t.get j := by
  cases hk : t.get k <;> simp [Table.upd, hk, Table.get_set_ne _ _ _ _ h]

/-- A property of every entry is kept by an entry written that has it. -/
theorem Table.all_set {α : Type} (p : α → Bool) (t : Table α) (k : Nat) (v : α) (h : t.all (fun e => p e.2) = true)
    (hv : p v = true) : (Table.set t k v).all (fun e => p e.2) = true := by
  induction t with
  | nil => simp [Table.set, hv]
  | cons e t ih =>
    obtain ⟨j, x⟩ := e
    simp only [List.all_cons, Bool.and_eq_true] at h
    simp only [Table.set]
    split
    · simp [hv, h.1]; simpa using h.2
    · split
      · simp [hv]; simpa using h.2
      · simp only [List.all_cons, Bool.and_eq_true]; exact ⟨h.1, ih h.2⟩

theorem Table.get_of_all {α : Type} (p : α → Bool) (t : Table α) (k : Nat) (x : α) (h : t.all (fun e => p e.2) = true)
    (hx : t.get k = some x) : p x = true := by
  induction t with
  | nil => simp at hx
  | cons e t ih =>
    obtain ⟨j, y⟩ := e
    simp only [List.all_cons, Bool.and_eq_true] at h
    simp only [Table.get] at hx
    split at hx
    · cases hx; exact h.1
    · exact ih h.2 hx

theorem Table.all_upd {α : Type} (p : α → Bool) (t : Table α) (k : Nat) (f : α → α) (h : t.all (fun e => p e.2) = true)
    (hf : ∀ x, p x = true → p (f x) = true) : (t.upd k f).all (fun e => p e.2) = true := by
  cases hk : t.get k with
  | none => simpa [Table.upd, hk] using h
  | some x =>
    rw [Table.upd_of_get f hk]
    exact Table.all_set p t k (f x) h (hf x (Table.get_of_all p t k x h hk))

/-! ### Lists with a padded element -/

@[simp] theorem getD_setAt_same {α : Type} (d : α) (l : List α) (k : Nat) (x : α) : (setAt d l k x).getD k d = x := by
  induction k generalizing l with
  | zero => cases l <;> rfl
  | succ k ih => cases l with
    | nil => simpa [setAt] using ih []
    | cons y t => simpa [setAt] using ih t

theorem getD_setAt_ne {α : Type} (d : α) (l : List α) (k j : Nat) (x : α) (h : j ≠ k) :
    (setAt d l k x).getD j d = l.getD j d := by
  induction k generalizing l j with
  | zero => cases j with
    | zero => exact absurd rfl h
    | succ j => cases l <;> simp [setAt]
  | succ k ih => cases l with
    | nil => cases j with
      | zero => simp [setAt]
      | succ j => simpa [setAt] using ih [] j (by omega)
    | cons y t => cases j with
      | zero => simp [setAt]
      | succ j => simpa [setAt] using ih t j (by omega)

/-! ### Fields of State under its updates -/

@[simp] theorem State.setGroup_clock (s : State) (k : Nat) (g : Group) : (s.setGroup k g).clock = s.clock := rfl
@[simp] theorem State.setGroup_mode (s : State) (k : Nat) (g : Group) : (s.setGroup k g).mode = s.mode := rfl
@[simp] theorem State.setGroup_cur (s : State) (k : Nat) (g : Group) : (s.setGroup k g).cur = s.cur := rfl
@[simp] theorem State.setGroup_second (s : State) (k : Nat) (g : Group) : (s.setGroup k g).second = s.second := rfl
@[simp] theorem State.setGroup_due (s : State) (k : Nat) (g : Group) : (s.setGroup k g).due = s.due := rfl
@[simp] theorem State.setGroup_cycle (s : State) (k : Nat) (g : Group) : (s.setGroup k g).cycle = s.cycle := rfl
@[simp] theorem State.setGroup_agenda (s : State) (k : Nat) (g : Group) : (s.setGroup k g).agenda = s.agenda := rfl
@[simp] theorem State.setGroup_nextId (s : State) (k : Nat) (g : Group) : (s.setGroup k g).nextId = s.nextId := rfl
@[simp] theorem State.setGroup_free (s : State) (k : Nat) (g : Group) : (s.setGroup k g).free = s.free := rfl
@[simp] theorem State.setGroup_mem (s : State) (k : Nat) (g : Group) : (s.setGroup k g).mem = s.mem := rfl
@[simp] theorem State.setGroup_teams (s : State) (k : Nat) (g : Group) : (s.setGroup k g).teams = s.teams := rfl
@[simp] theorem State.setGroup_tasks (s : State) (k : Nat) (g : Group) : (s.setGroup k g).tasks = s.tasks := rfl
@[simp] theorem State.setGroup_cmds (s : State) (k : Nat) (g : Group) : (s.setGroup k g).cmds = s.cmds := rfl
@[simp] theorem State.setGroup_edges (s : State) (k : Nat) (g : Group) : (s.setGroup k g).edges = s.edges := rfl
@[simp] theorem State.setGroup_ops (s : State) (k : Nat) (g : Group) : (s.setGroup k g).ops = s.ops := rfl
@[simp] theorem State.setGroup_colls (s : State) (k : Nat) (g : Group) : (s.setGroup k g).colls = s.colls := rfl
@[simp] theorem State.setGroup_rings (s : State) (k : Nat) (g : Group) : (s.setGroup k g).rings = s.rings := rfl
@[simp] theorem State.setGroup_cores (s : State) (k : Nat) (g : Group) : (s.setGroup k g).cores = s.cores := rfl
@[simp] theorem State.setGroup_clusters (s : State) (k : Nat) (g : Group) : (s.setGroup k g).clusters = s.clusters := rfl
@[simp] theorem State.setGroup_halves (s : State) (k : Nat) (g : Group) : (s.setGroup k g).halves = s.halves := rfl
@[simp] theorem State.setGroup_dies (s : State) (k : Nat) (g : Group) : (s.setGroup k g).dies = s.dies := rfl
@[simp] theorem State.setGroup_ctxs (s : State) (k : Nat) (g : Group) : (s.setGroup k g).ctxs = s.ctxs := rfl
@[simp] theorem State.setGroup_market (s : State) (k : Nat) (g : Group) : (s.setGroup k g).market = s.market := rfl
@[simp] theorem State.setGroup_fe (s : State) (k : Nat) (g : Group) : (s.setGroup k g).fe = s.fe := rfl
@[simp] theorem State.setGroup_mgmt (s : State) (k : Nat) (g : Group) : (s.setGroup k g).mgmt = s.mgmt := rfl
@[simp] theorem State.setGroup_fabric (s : State) (k : Nat) (g : Group) : (s.setGroup k g).fabric = s.fabric := rfl

@[simp] theorem State.updGroup_clock (s : State) (k : Nat) (f : Group → Group) : (s.updGroup k f).clock = s.clock := rfl
@[simp] theorem State.updGroup_mode (s : State) (k : Nat) (f : Group → Group) : (s.updGroup k f).mode = s.mode := rfl
@[simp] theorem State.updGroup_cur (s : State) (k : Nat) (f : Group → Group) : (s.updGroup k f).cur = s.cur := rfl
@[simp] theorem State.updGroup_second (s : State) (k : Nat) (f : Group → Group) : (s.updGroup k f).second = s.second := rfl
@[simp] theorem State.updGroup_due (s : State) (k : Nat) (f : Group → Group) : (s.updGroup k f).due = s.due := rfl
@[simp] theorem State.updGroup_cycle (s : State) (k : Nat) (f : Group → Group) : (s.updGroup k f).cycle = s.cycle := rfl
@[simp] theorem State.updGroup_agenda (s : State) (k : Nat) (f : Group → Group) : (s.updGroup k f).agenda = s.agenda := rfl
@[simp] theorem State.updGroup_nextId (s : State) (k : Nat) (f : Group → Group) : (s.updGroup k f).nextId = s.nextId := rfl
@[simp] theorem State.updGroup_free (s : State) (k : Nat) (f : Group → Group) : (s.updGroup k f).free = s.free := rfl
@[simp] theorem State.updGroup_mem (s : State) (k : Nat) (f : Group → Group) : (s.updGroup k f).mem = s.mem := rfl
@[simp] theorem State.updGroup_teams (s : State) (k : Nat) (f : Group → Group) : (s.updGroup k f).teams = s.teams := rfl
@[simp] theorem State.updGroup_tasks (s : State) (k : Nat) (f : Group → Group) : (s.updGroup k f).tasks = s.tasks := rfl
@[simp] theorem State.updGroup_cmds (s : State) (k : Nat) (f : Group → Group) : (s.updGroup k f).cmds = s.cmds := rfl
@[simp] theorem State.updGroup_edges (s : State) (k : Nat) (f : Group → Group) : (s.updGroup k f).edges = s.edges := rfl
@[simp] theorem State.updGroup_ops (s : State) (k : Nat) (f : Group → Group) : (s.updGroup k f).ops = s.ops := rfl
@[simp] theorem State.updGroup_colls (s : State) (k : Nat) (f : Group → Group) : (s.updGroup k f).colls = s.colls := rfl
@[simp] theorem State.updGroup_rings (s : State) (k : Nat) (f : Group → Group) : (s.updGroup k f).rings = s.rings := rfl
@[simp] theorem State.updGroup_cores (s : State) (k : Nat) (f : Group → Group) : (s.updGroup k f).cores = s.cores := rfl
@[simp] theorem State.updGroup_clusters (s : State) (k : Nat) (f : Group → Group) : (s.updGroup k f).clusters = s.clusters := rfl
@[simp] theorem State.updGroup_halves (s : State) (k : Nat) (f : Group → Group) : (s.updGroup k f).halves = s.halves := rfl
@[simp] theorem State.updGroup_dies (s : State) (k : Nat) (f : Group → Group) : (s.updGroup k f).dies = s.dies := rfl
@[simp] theorem State.updGroup_ctxs (s : State) (k : Nat) (f : Group → Group) : (s.updGroup k f).ctxs = s.ctxs := rfl
@[simp] theorem State.updGroup_market (s : State) (k : Nat) (f : Group → Group) : (s.updGroup k f).market = s.market := rfl
@[simp] theorem State.updGroup_fe (s : State) (k : Nat) (f : Group → Group) : (s.updGroup k f).fe = s.fe := rfl
@[simp] theorem State.updGroup_mgmt (s : State) (k : Nat) (f : Group → Group) : (s.updGroup k f).mgmt = s.mgmt := rfl
@[simp] theorem State.updGroup_fabric (s : State) (k : Nat) (f : Group → Group) : (s.updGroup k f).fabric = s.fabric := rfl

@[simp] theorem State.updTeam_clock (s : State) (k : Nat) (f : Team → Team) : (s.updTeam k f).clock = s.clock := rfl
@[simp] theorem State.updTeam_mode (s : State) (k : Nat) (f : Team → Team) : (s.updTeam k f).mode = s.mode := rfl
@[simp] theorem State.updTeam_cur (s : State) (k : Nat) (f : Team → Team) : (s.updTeam k f).cur = s.cur := rfl
@[simp] theorem State.updTeam_second (s : State) (k : Nat) (f : Team → Team) : (s.updTeam k f).second = s.second := rfl
@[simp] theorem State.updTeam_due (s : State) (k : Nat) (f : Team → Team) : (s.updTeam k f).due = s.due := rfl
@[simp] theorem State.updTeam_cycle (s : State) (k : Nat) (f : Team → Team) : (s.updTeam k f).cycle = s.cycle := rfl
@[simp] theorem State.updTeam_agenda (s : State) (k : Nat) (f : Team → Team) : (s.updTeam k f).agenda = s.agenda := rfl
@[simp] theorem State.updTeam_nextId (s : State) (k : Nat) (f : Team → Team) : (s.updTeam k f).nextId = s.nextId := rfl
@[simp] theorem State.updTeam_free (s : State) (k : Nat) (f : Team → Team) : (s.updTeam k f).free = s.free := rfl
@[simp] theorem State.updTeam_mem (s : State) (k : Nat) (f : Team → Team) : (s.updTeam k f).mem = s.mem := rfl
@[simp] theorem State.updTeam_groups (s : State) (k : Nat) (f : Team → Team) : (s.updTeam k f).groups = s.groups := rfl
@[simp] theorem State.updTeam_tasks (s : State) (k : Nat) (f : Team → Team) : (s.updTeam k f).tasks = s.tasks := rfl
@[simp] theorem State.updTeam_cmds (s : State) (k : Nat) (f : Team → Team) : (s.updTeam k f).cmds = s.cmds := rfl
@[simp] theorem State.updTeam_edges (s : State) (k : Nat) (f : Team → Team) : (s.updTeam k f).edges = s.edges := rfl
@[simp] theorem State.updTeam_ops (s : State) (k : Nat) (f : Team → Team) : (s.updTeam k f).ops = s.ops := rfl
@[simp] theorem State.updTeam_colls (s : State) (k : Nat) (f : Team → Team) : (s.updTeam k f).colls = s.colls := rfl
@[simp] theorem State.updTeam_rings (s : State) (k : Nat) (f : Team → Team) : (s.updTeam k f).rings = s.rings := rfl
@[simp] theorem State.updTeam_cores (s : State) (k : Nat) (f : Team → Team) : (s.updTeam k f).cores = s.cores := rfl
@[simp] theorem State.updTeam_clusters (s : State) (k : Nat) (f : Team → Team) : (s.updTeam k f).clusters = s.clusters := rfl
@[simp] theorem State.updTeam_halves (s : State) (k : Nat) (f : Team → Team) : (s.updTeam k f).halves = s.halves := rfl
@[simp] theorem State.updTeam_dies (s : State) (k : Nat) (f : Team → Team) : (s.updTeam k f).dies = s.dies := rfl
@[simp] theorem State.updTeam_ctxs (s : State) (k : Nat) (f : Team → Team) : (s.updTeam k f).ctxs = s.ctxs := rfl
@[simp] theorem State.updTeam_market (s : State) (k : Nat) (f : Team → Team) : (s.updTeam k f).market = s.market := rfl
@[simp] theorem State.updTeam_fe (s : State) (k : Nat) (f : Team → Team) : (s.updTeam k f).fe = s.fe := rfl
@[simp] theorem State.updTeam_mgmt (s : State) (k : Nat) (f : Team → Team) : (s.updTeam k f).mgmt = s.mgmt := rfl
@[simp] theorem State.updTeam_fabric (s : State) (k : Nat) (f : Team → Team) : (s.updTeam k f).fabric = s.fabric := rfl

@[simp] theorem State.updTask_clock (s : State) (k : Nat) (f : Task → Task) : (s.updTask k f).clock = s.clock := rfl
@[simp] theorem State.updTask_mode (s : State) (k : Nat) (f : Task → Task) : (s.updTask k f).mode = s.mode := rfl
@[simp] theorem State.updTask_cur (s : State) (k : Nat) (f : Task → Task) : (s.updTask k f).cur = s.cur := rfl
@[simp] theorem State.updTask_second (s : State) (k : Nat) (f : Task → Task) : (s.updTask k f).second = s.second := rfl
@[simp] theorem State.updTask_due (s : State) (k : Nat) (f : Task → Task) : (s.updTask k f).due = s.due := rfl
@[simp] theorem State.updTask_cycle (s : State) (k : Nat) (f : Task → Task) : (s.updTask k f).cycle = s.cycle := rfl
@[simp] theorem State.updTask_agenda (s : State) (k : Nat) (f : Task → Task) : (s.updTask k f).agenda = s.agenda := rfl
@[simp] theorem State.updTask_nextId (s : State) (k : Nat) (f : Task → Task) : (s.updTask k f).nextId = s.nextId := rfl
@[simp] theorem State.updTask_free (s : State) (k : Nat) (f : Task → Task) : (s.updTask k f).free = s.free := rfl
@[simp] theorem State.updTask_mem (s : State) (k : Nat) (f : Task → Task) : (s.updTask k f).mem = s.mem := rfl
@[simp] theorem State.updTask_groups (s : State) (k : Nat) (f : Task → Task) : (s.updTask k f).groups = s.groups := rfl
@[simp] theorem State.updTask_teams (s : State) (k : Nat) (f : Task → Task) : (s.updTask k f).teams = s.teams := rfl
@[simp] theorem State.updTask_cmds (s : State) (k : Nat) (f : Task → Task) : (s.updTask k f).cmds = s.cmds := rfl
@[simp] theorem State.updTask_edges (s : State) (k : Nat) (f : Task → Task) : (s.updTask k f).edges = s.edges := rfl
@[simp] theorem State.updTask_ops (s : State) (k : Nat) (f : Task → Task) : (s.updTask k f).ops = s.ops := rfl
@[simp] theorem State.updTask_colls (s : State) (k : Nat) (f : Task → Task) : (s.updTask k f).colls = s.colls := rfl
@[simp] theorem State.updTask_rings (s : State) (k : Nat) (f : Task → Task) : (s.updTask k f).rings = s.rings := rfl
@[simp] theorem State.updTask_cores (s : State) (k : Nat) (f : Task → Task) : (s.updTask k f).cores = s.cores := rfl
@[simp] theorem State.updTask_clusters (s : State) (k : Nat) (f : Task → Task) : (s.updTask k f).clusters = s.clusters := rfl
@[simp] theorem State.updTask_halves (s : State) (k : Nat) (f : Task → Task) : (s.updTask k f).halves = s.halves := rfl
@[simp] theorem State.updTask_dies (s : State) (k : Nat) (f : Task → Task) : (s.updTask k f).dies = s.dies := rfl
@[simp] theorem State.updTask_ctxs (s : State) (k : Nat) (f : Task → Task) : (s.updTask k f).ctxs = s.ctxs := rfl
@[simp] theorem State.updTask_market (s : State) (k : Nat) (f : Task → Task) : (s.updTask k f).market = s.market := rfl
@[simp] theorem State.updTask_fe (s : State) (k : Nat) (f : Task → Task) : (s.updTask k f).fe = s.fe := rfl
@[simp] theorem State.updTask_mgmt (s : State) (k : Nat) (f : Task → Task) : (s.updTask k f).mgmt = s.mgmt := rfl
@[simp] theorem State.updTask_fabric (s : State) (k : Nat) (f : Task → Task) : (s.updTask k f).fabric = s.fabric := rfl

@[simp] theorem State.updCtx_clock (s : State) (k : Nat) (f : Ctx → Ctx) : (s.updCtx k f).clock = s.clock := rfl
@[simp] theorem State.updCtx_mode (s : State) (k : Nat) (f : Ctx → Ctx) : (s.updCtx k f).mode = s.mode := rfl
@[simp] theorem State.updCtx_cur (s : State) (k : Nat) (f : Ctx → Ctx) : (s.updCtx k f).cur = s.cur := rfl
@[simp] theorem State.updCtx_second (s : State) (k : Nat) (f : Ctx → Ctx) : (s.updCtx k f).second = s.second := rfl
@[simp] theorem State.updCtx_due (s : State) (k : Nat) (f : Ctx → Ctx) : (s.updCtx k f).due = s.due := rfl
@[simp] theorem State.updCtx_cycle (s : State) (k : Nat) (f : Ctx → Ctx) : (s.updCtx k f).cycle = s.cycle := rfl
@[simp] theorem State.updCtx_agenda (s : State) (k : Nat) (f : Ctx → Ctx) : (s.updCtx k f).agenda = s.agenda := rfl
@[simp] theorem State.updCtx_nextId (s : State) (k : Nat) (f : Ctx → Ctx) : (s.updCtx k f).nextId = s.nextId := rfl
@[simp] theorem State.updCtx_free (s : State) (k : Nat) (f : Ctx → Ctx) : (s.updCtx k f).free = s.free := rfl
@[simp] theorem State.updCtx_mem (s : State) (k : Nat) (f : Ctx → Ctx) : (s.updCtx k f).mem = s.mem := rfl
@[simp] theorem State.updCtx_groups (s : State) (k : Nat) (f : Ctx → Ctx) : (s.updCtx k f).groups = s.groups := rfl
@[simp] theorem State.updCtx_teams (s : State) (k : Nat) (f : Ctx → Ctx) : (s.updCtx k f).teams = s.teams := rfl
@[simp] theorem State.updCtx_tasks (s : State) (k : Nat) (f : Ctx → Ctx) : (s.updCtx k f).tasks = s.tasks := rfl
@[simp] theorem State.updCtx_cmds (s : State) (k : Nat) (f : Ctx → Ctx) : (s.updCtx k f).cmds = s.cmds := rfl
@[simp] theorem State.updCtx_edges (s : State) (k : Nat) (f : Ctx → Ctx) : (s.updCtx k f).edges = s.edges := rfl
@[simp] theorem State.updCtx_ops (s : State) (k : Nat) (f : Ctx → Ctx) : (s.updCtx k f).ops = s.ops := rfl
@[simp] theorem State.updCtx_colls (s : State) (k : Nat) (f : Ctx → Ctx) : (s.updCtx k f).colls = s.colls := rfl
@[simp] theorem State.updCtx_rings (s : State) (k : Nat) (f : Ctx → Ctx) : (s.updCtx k f).rings = s.rings := rfl
@[simp] theorem State.updCtx_cores (s : State) (k : Nat) (f : Ctx → Ctx) : (s.updCtx k f).cores = s.cores := rfl
@[simp] theorem State.updCtx_clusters (s : State) (k : Nat) (f : Ctx → Ctx) : (s.updCtx k f).clusters = s.clusters := rfl
@[simp] theorem State.updCtx_halves (s : State) (k : Nat) (f : Ctx → Ctx) : (s.updCtx k f).halves = s.halves := rfl
@[simp] theorem State.updCtx_dies (s : State) (k : Nat) (f : Ctx → Ctx) : (s.updCtx k f).dies = s.dies := rfl
@[simp] theorem State.updCtx_market (s : State) (k : Nat) (f : Ctx → Ctx) : (s.updCtx k f).market = s.market := rfl
@[simp] theorem State.updCtx_fe (s : State) (k : Nat) (f : Ctx → Ctx) : (s.updCtx k f).fe = s.fe := rfl
@[simp] theorem State.updCtx_mgmt (s : State) (k : Nat) (f : Ctx → Ctx) : (s.updCtx k f).mgmt = s.mgmt := rfl
@[simp] theorem State.updCtx_fabric (s : State) (k : Nat) (f : Ctx → Ctx) : (s.updCtx k f).fabric = s.fabric := rfl

@[simp] theorem State.updCore_clock (s : State) (k : Nat) (f : Core → Core) : (s.updCore k f).clock = s.clock := rfl
@[simp] theorem State.updCore_mode (s : State) (k : Nat) (f : Core → Core) : (s.updCore k f).mode = s.mode := rfl
@[simp] theorem State.updCore_cur (s : State) (k : Nat) (f : Core → Core) : (s.updCore k f).cur = s.cur := rfl
@[simp] theorem State.updCore_second (s : State) (k : Nat) (f : Core → Core) : (s.updCore k f).second = s.second := rfl
@[simp] theorem State.updCore_due (s : State) (k : Nat) (f : Core → Core) : (s.updCore k f).due = s.due := rfl
@[simp] theorem State.updCore_cycle (s : State) (k : Nat) (f : Core → Core) : (s.updCore k f).cycle = s.cycle := rfl
@[simp] theorem State.updCore_agenda (s : State) (k : Nat) (f : Core → Core) : (s.updCore k f).agenda = s.agenda := rfl
@[simp] theorem State.updCore_nextId (s : State) (k : Nat) (f : Core → Core) : (s.updCore k f).nextId = s.nextId := rfl
@[simp] theorem State.updCore_free (s : State) (k : Nat) (f : Core → Core) : (s.updCore k f).free = s.free := rfl
@[simp] theorem State.updCore_mem (s : State) (k : Nat) (f : Core → Core) : (s.updCore k f).mem = s.mem := rfl
@[simp] theorem State.updCore_groups (s : State) (k : Nat) (f : Core → Core) : (s.updCore k f).groups = s.groups := rfl
@[simp] theorem State.updCore_teams (s : State) (k : Nat) (f : Core → Core) : (s.updCore k f).teams = s.teams := rfl
@[simp] theorem State.updCore_tasks (s : State) (k : Nat) (f : Core → Core) : (s.updCore k f).tasks = s.tasks := rfl
@[simp] theorem State.updCore_cmds (s : State) (k : Nat) (f : Core → Core) : (s.updCore k f).cmds = s.cmds := rfl
@[simp] theorem State.updCore_edges (s : State) (k : Nat) (f : Core → Core) : (s.updCore k f).edges = s.edges := rfl
@[simp] theorem State.updCore_ops (s : State) (k : Nat) (f : Core → Core) : (s.updCore k f).ops = s.ops := rfl
@[simp] theorem State.updCore_colls (s : State) (k : Nat) (f : Core → Core) : (s.updCore k f).colls = s.colls := rfl
@[simp] theorem State.updCore_rings (s : State) (k : Nat) (f : Core → Core) : (s.updCore k f).rings = s.rings := rfl
@[simp] theorem State.updCore_clusters (s : State) (k : Nat) (f : Core → Core) : (s.updCore k f).clusters = s.clusters := rfl
@[simp] theorem State.updCore_halves (s : State) (k : Nat) (f : Core → Core) : (s.updCore k f).halves = s.halves := rfl
@[simp] theorem State.updCore_dies (s : State) (k : Nat) (f : Core → Core) : (s.updCore k f).dies = s.dies := rfl
@[simp] theorem State.updCore_ctxs (s : State) (k : Nat) (f : Core → Core) : (s.updCore k f).ctxs = s.ctxs := rfl
@[simp] theorem State.updCore_market (s : State) (k : Nat) (f : Core → Core) : (s.updCore k f).market = s.market := rfl
@[simp] theorem State.updCore_fe (s : State) (k : Nat) (f : Core → Core) : (s.updCore k f).fe = s.fe := rfl
@[simp] theorem State.updCore_mgmt (s : State) (k : Nat) (f : Core → Core) : (s.updCore k f).mgmt = s.mgmt := rfl
@[simp] theorem State.updCore_fabric (s : State) (k : Nat) (f : Core → Core) : (s.updCore k f).fabric = s.fabric := rfl

@[simp] theorem State.updCluster_clock (s : State) (k : Nat) (f : Cluster → Cluster) : (s.updCluster k f).clock = s.clock := rfl
@[simp] theorem State.updCluster_mode (s : State) (k : Nat) (f : Cluster → Cluster) : (s.updCluster k f).mode = s.mode := rfl
@[simp] theorem State.updCluster_cur (s : State) (k : Nat) (f : Cluster → Cluster) : (s.updCluster k f).cur = s.cur := rfl
@[simp] theorem State.updCluster_second (s : State) (k : Nat) (f : Cluster → Cluster) : (s.updCluster k f).second = s.second := rfl
@[simp] theorem State.updCluster_due (s : State) (k : Nat) (f : Cluster → Cluster) : (s.updCluster k f).due = s.due := rfl
@[simp] theorem State.updCluster_cycle (s : State) (k : Nat) (f : Cluster → Cluster) : (s.updCluster k f).cycle = s.cycle := rfl
@[simp] theorem State.updCluster_agenda (s : State) (k : Nat) (f : Cluster → Cluster) : (s.updCluster k f).agenda = s.agenda := rfl
@[simp] theorem State.updCluster_nextId (s : State) (k : Nat) (f : Cluster → Cluster) : (s.updCluster k f).nextId = s.nextId := rfl
@[simp] theorem State.updCluster_free (s : State) (k : Nat) (f : Cluster → Cluster) : (s.updCluster k f).free = s.free := rfl
@[simp] theorem State.updCluster_mem (s : State) (k : Nat) (f : Cluster → Cluster) : (s.updCluster k f).mem = s.mem := rfl
@[simp] theorem State.updCluster_groups (s : State) (k : Nat) (f : Cluster → Cluster) : (s.updCluster k f).groups = s.groups := rfl
@[simp] theorem State.updCluster_teams (s : State) (k : Nat) (f : Cluster → Cluster) : (s.updCluster k f).teams = s.teams := rfl
@[simp] theorem State.updCluster_tasks (s : State) (k : Nat) (f : Cluster → Cluster) : (s.updCluster k f).tasks = s.tasks := rfl
@[simp] theorem State.updCluster_cmds (s : State) (k : Nat) (f : Cluster → Cluster) : (s.updCluster k f).cmds = s.cmds := rfl
@[simp] theorem State.updCluster_edges (s : State) (k : Nat) (f : Cluster → Cluster) : (s.updCluster k f).edges = s.edges := rfl
@[simp] theorem State.updCluster_ops (s : State) (k : Nat) (f : Cluster → Cluster) : (s.updCluster k f).ops = s.ops := rfl
@[simp] theorem State.updCluster_colls (s : State) (k : Nat) (f : Cluster → Cluster) : (s.updCluster k f).colls = s.colls := rfl
@[simp] theorem State.updCluster_rings (s : State) (k : Nat) (f : Cluster → Cluster) : (s.updCluster k f).rings = s.rings := rfl
@[simp] theorem State.updCluster_cores (s : State) (k : Nat) (f : Cluster → Cluster) : (s.updCluster k f).cores = s.cores := rfl
@[simp] theorem State.updCluster_halves (s : State) (k : Nat) (f : Cluster → Cluster) : (s.updCluster k f).halves = s.halves := rfl
@[simp] theorem State.updCluster_dies (s : State) (k : Nat) (f : Cluster → Cluster) : (s.updCluster k f).dies = s.dies := rfl
@[simp] theorem State.updCluster_ctxs (s : State) (k : Nat) (f : Cluster → Cluster) : (s.updCluster k f).ctxs = s.ctxs := rfl
@[simp] theorem State.updCluster_market (s : State) (k : Nat) (f : Cluster → Cluster) : (s.updCluster k f).market = s.market := rfl
@[simp] theorem State.updCluster_fe (s : State) (k : Nat) (f : Cluster → Cluster) : (s.updCluster k f).fe = s.fe := rfl
@[simp] theorem State.updCluster_mgmt (s : State) (k : Nat) (f : Cluster → Cluster) : (s.updCluster k f).mgmt = s.mgmt := rfl
@[simp] theorem State.updCluster_fabric (s : State) (k : Nat) (f : Cluster → Cluster) : (s.updCluster k f).fabric = s.fabric := rfl

@[simp] theorem State.updHalf_clock (s : State) (k : Nat) (f : Half → Half) : (s.updHalf k f).clock = s.clock := rfl
@[simp] theorem State.updHalf_mode (s : State) (k : Nat) (f : Half → Half) : (s.updHalf k f).mode = s.mode := rfl
@[simp] theorem State.updHalf_cur (s : State) (k : Nat) (f : Half → Half) : (s.updHalf k f).cur = s.cur := rfl
@[simp] theorem State.updHalf_second (s : State) (k : Nat) (f : Half → Half) : (s.updHalf k f).second = s.second := rfl
@[simp] theorem State.updHalf_due (s : State) (k : Nat) (f : Half → Half) : (s.updHalf k f).due = s.due := rfl
@[simp] theorem State.updHalf_cycle (s : State) (k : Nat) (f : Half → Half) : (s.updHalf k f).cycle = s.cycle := rfl
@[simp] theorem State.updHalf_agenda (s : State) (k : Nat) (f : Half → Half) : (s.updHalf k f).agenda = s.agenda := rfl
@[simp] theorem State.updHalf_nextId (s : State) (k : Nat) (f : Half → Half) : (s.updHalf k f).nextId = s.nextId := rfl
@[simp] theorem State.updHalf_free (s : State) (k : Nat) (f : Half → Half) : (s.updHalf k f).free = s.free := rfl
@[simp] theorem State.updHalf_mem (s : State) (k : Nat) (f : Half → Half) : (s.updHalf k f).mem = s.mem := rfl
@[simp] theorem State.updHalf_groups (s : State) (k : Nat) (f : Half → Half) : (s.updHalf k f).groups = s.groups := rfl
@[simp] theorem State.updHalf_teams (s : State) (k : Nat) (f : Half → Half) : (s.updHalf k f).teams = s.teams := rfl
@[simp] theorem State.updHalf_tasks (s : State) (k : Nat) (f : Half → Half) : (s.updHalf k f).tasks = s.tasks := rfl
@[simp] theorem State.updHalf_cmds (s : State) (k : Nat) (f : Half → Half) : (s.updHalf k f).cmds = s.cmds := rfl
@[simp] theorem State.updHalf_edges (s : State) (k : Nat) (f : Half → Half) : (s.updHalf k f).edges = s.edges := rfl
@[simp] theorem State.updHalf_ops (s : State) (k : Nat) (f : Half → Half) : (s.updHalf k f).ops = s.ops := rfl
@[simp] theorem State.updHalf_colls (s : State) (k : Nat) (f : Half → Half) : (s.updHalf k f).colls = s.colls := rfl
@[simp] theorem State.updHalf_rings (s : State) (k : Nat) (f : Half → Half) : (s.updHalf k f).rings = s.rings := rfl
@[simp] theorem State.updHalf_cores (s : State) (k : Nat) (f : Half → Half) : (s.updHalf k f).cores = s.cores := rfl
@[simp] theorem State.updHalf_clusters (s : State) (k : Nat) (f : Half → Half) : (s.updHalf k f).clusters = s.clusters := rfl
@[simp] theorem State.updHalf_dies (s : State) (k : Nat) (f : Half → Half) : (s.updHalf k f).dies = s.dies := rfl
@[simp] theorem State.updHalf_ctxs (s : State) (k : Nat) (f : Half → Half) : (s.updHalf k f).ctxs = s.ctxs := rfl
@[simp] theorem State.updHalf_market (s : State) (k : Nat) (f : Half → Half) : (s.updHalf k f).market = s.market := rfl
@[simp] theorem State.updHalf_fe (s : State) (k : Nat) (f : Half → Half) : (s.updHalf k f).fe = s.fe := rfl
@[simp] theorem State.updHalf_mgmt (s : State) (k : Nat) (f : Half → Half) : (s.updHalf k f).mgmt = s.mgmt := rfl
@[simp] theorem State.updHalf_fabric (s : State) (k : Nat) (f : Half → Half) : (s.updHalf k f).fabric = s.fabric := rfl

@[simp] theorem State.updDie_clock (s : State) (k : Nat) (f : Die → Die) : (s.updDie k f).clock = s.clock := rfl
@[simp] theorem State.updDie_mode (s : State) (k : Nat) (f : Die → Die) : (s.updDie k f).mode = s.mode := rfl
@[simp] theorem State.updDie_cur (s : State) (k : Nat) (f : Die → Die) : (s.updDie k f).cur = s.cur := rfl
@[simp] theorem State.updDie_second (s : State) (k : Nat) (f : Die → Die) : (s.updDie k f).second = s.second := rfl
@[simp] theorem State.updDie_due (s : State) (k : Nat) (f : Die → Die) : (s.updDie k f).due = s.due := rfl
@[simp] theorem State.updDie_cycle (s : State) (k : Nat) (f : Die → Die) : (s.updDie k f).cycle = s.cycle := rfl
@[simp] theorem State.updDie_agenda (s : State) (k : Nat) (f : Die → Die) : (s.updDie k f).agenda = s.agenda := rfl
@[simp] theorem State.updDie_nextId (s : State) (k : Nat) (f : Die → Die) : (s.updDie k f).nextId = s.nextId := rfl
@[simp] theorem State.updDie_free (s : State) (k : Nat) (f : Die → Die) : (s.updDie k f).free = s.free := rfl
@[simp] theorem State.updDie_mem (s : State) (k : Nat) (f : Die → Die) : (s.updDie k f).mem = s.mem := rfl
@[simp] theorem State.updDie_groups (s : State) (k : Nat) (f : Die → Die) : (s.updDie k f).groups = s.groups := rfl
@[simp] theorem State.updDie_teams (s : State) (k : Nat) (f : Die → Die) : (s.updDie k f).teams = s.teams := rfl
@[simp] theorem State.updDie_tasks (s : State) (k : Nat) (f : Die → Die) : (s.updDie k f).tasks = s.tasks := rfl
@[simp] theorem State.updDie_cmds (s : State) (k : Nat) (f : Die → Die) : (s.updDie k f).cmds = s.cmds := rfl
@[simp] theorem State.updDie_edges (s : State) (k : Nat) (f : Die → Die) : (s.updDie k f).edges = s.edges := rfl
@[simp] theorem State.updDie_ops (s : State) (k : Nat) (f : Die → Die) : (s.updDie k f).ops = s.ops := rfl
@[simp] theorem State.updDie_colls (s : State) (k : Nat) (f : Die → Die) : (s.updDie k f).colls = s.colls := rfl
@[simp] theorem State.updDie_rings (s : State) (k : Nat) (f : Die → Die) : (s.updDie k f).rings = s.rings := rfl
@[simp] theorem State.updDie_cores (s : State) (k : Nat) (f : Die → Die) : (s.updDie k f).cores = s.cores := rfl
@[simp] theorem State.updDie_clusters (s : State) (k : Nat) (f : Die → Die) : (s.updDie k f).clusters = s.clusters := rfl
@[simp] theorem State.updDie_halves (s : State) (k : Nat) (f : Die → Die) : (s.updDie k f).halves = s.halves := rfl
@[simp] theorem State.updDie_ctxs (s : State) (k : Nat) (f : Die → Die) : (s.updDie k f).ctxs = s.ctxs := rfl
@[simp] theorem State.updDie_market (s : State) (k : Nat) (f : Die → Die) : (s.updDie k f).market = s.market := rfl
@[simp] theorem State.updDie_fe (s : State) (k : Nat) (f : Die → Die) : (s.updDie k f).fe = s.fe := rfl
@[simp] theorem State.updDie_mgmt (s : State) (k : Nat) (f : Die → Die) : (s.updDie k f).mgmt = s.mgmt := rfl
@[simp] theorem State.updDie_fabric (s : State) (k : Nat) (f : Die → Die) : (s.updDie k f).fabric = s.fabric := rfl

@[simp] theorem State.push_clock (s : State) (i : Instr) : (s.push i).clock = s.clock := rfl
@[simp] theorem State.push_mode (s : State) (i : Instr) : (s.push i).mode = s.mode := rfl
@[simp] theorem State.push_cur (s : State) (i : Instr) : (s.push i).cur = s.cur := rfl
@[simp] theorem State.push_second (s : State) (i : Instr) : (s.push i).second = s.second := rfl
@[simp] theorem State.push_cycle (s : State) (i : Instr) : (s.push i).cycle = s.cycle := rfl
@[simp] theorem State.push_agenda (s : State) (i : Instr) : (s.push i).agenda = s.agenda := rfl
@[simp] theorem State.push_nextId (s : State) (i : Instr) : (s.push i).nextId = s.nextId := rfl
@[simp] theorem State.push_free (s : State) (i : Instr) : (s.push i).free = s.free := rfl
@[simp] theorem State.push_mem (s : State) (i : Instr) : (s.push i).mem = s.mem := rfl
@[simp] theorem State.push_groups (s : State) (i : Instr) : (s.push i).groups = s.groups := rfl
@[simp] theorem State.push_teams (s : State) (i : Instr) : (s.push i).teams = s.teams := rfl
@[simp] theorem State.push_tasks (s : State) (i : Instr) : (s.push i).tasks = s.tasks := rfl
@[simp] theorem State.push_cmds (s : State) (i : Instr) : (s.push i).cmds = s.cmds := rfl
@[simp] theorem State.push_edges (s : State) (i : Instr) : (s.push i).edges = s.edges := rfl
@[simp] theorem State.push_ops (s : State) (i : Instr) : (s.push i).ops = s.ops := rfl
@[simp] theorem State.push_colls (s : State) (i : Instr) : (s.push i).colls = s.colls := rfl
@[simp] theorem State.push_rings (s : State) (i : Instr) : (s.push i).rings = s.rings := rfl
@[simp] theorem State.push_cores (s : State) (i : Instr) : (s.push i).cores = s.cores := rfl
@[simp] theorem State.push_clusters (s : State) (i : Instr) : (s.push i).clusters = s.clusters := rfl
@[simp] theorem State.push_halves (s : State) (i : Instr) : (s.push i).halves = s.halves := rfl
@[simp] theorem State.push_dies (s : State) (i : Instr) : (s.push i).dies = s.dies := rfl
@[simp] theorem State.push_ctxs (s : State) (i : Instr) : (s.push i).ctxs = s.ctxs := rfl
@[simp] theorem State.push_market (s : State) (i : Instr) : (s.push i).market = s.market := rfl
@[simp] theorem State.push_fe (s : State) (i : Instr) : (s.push i).fe = s.fe := rfl
@[simp] theorem State.push_mgmt (s : State) (i : Instr) : (s.push i).mgmt = s.mgmt := rfl
@[simp] theorem State.push_fabric (s : State) (i : Instr) : (s.push i).fabric = s.fabric := rfl

@[simp] theorem State.takeFree_clock (s : State) : (s.takeFree).clock = s.clock := rfl
@[simp] theorem State.takeFree_mode (s : State) : (s.takeFree).mode = s.mode := rfl
@[simp] theorem State.takeFree_cur (s : State) : (s.takeFree).cur = s.cur := rfl
@[simp] theorem State.takeFree_second (s : State) : (s.takeFree).second = s.second := rfl
@[simp] theorem State.takeFree_due (s : State) : (s.takeFree).due = s.due := rfl
@[simp] theorem State.takeFree_cycle (s : State) : (s.takeFree).cycle = s.cycle := rfl
@[simp] theorem State.takeFree_agenda (s : State) : (s.takeFree).agenda = s.agenda := rfl
@[simp] theorem State.takeFree_nextId (s : State) : (s.takeFree).nextId = s.nextId := rfl
@[simp] theorem State.takeFree_mem (s : State) : (s.takeFree).mem = s.mem := rfl
@[simp] theorem State.takeFree_groups (s : State) : (s.takeFree).groups = s.groups := rfl
@[simp] theorem State.takeFree_teams (s : State) : (s.takeFree).teams = s.teams := rfl
@[simp] theorem State.takeFree_tasks (s : State) : (s.takeFree).tasks = s.tasks := rfl
@[simp] theorem State.takeFree_cmds (s : State) : (s.takeFree).cmds = s.cmds := rfl
@[simp] theorem State.takeFree_edges (s : State) : (s.takeFree).edges = s.edges := rfl
@[simp] theorem State.takeFree_ops (s : State) : (s.takeFree).ops = s.ops := rfl
@[simp] theorem State.takeFree_colls (s : State) : (s.takeFree).colls = s.colls := rfl
@[simp] theorem State.takeFree_rings (s : State) : (s.takeFree).rings = s.rings := rfl
@[simp] theorem State.takeFree_cores (s : State) : (s.takeFree).cores = s.cores := rfl
@[simp] theorem State.takeFree_clusters (s : State) : (s.takeFree).clusters = s.clusters := rfl
@[simp] theorem State.takeFree_halves (s : State) : (s.takeFree).halves = s.halves := rfl
@[simp] theorem State.takeFree_dies (s : State) : (s.takeFree).dies = s.dies := rfl
@[simp] theorem State.takeFree_ctxs (s : State) : (s.takeFree).ctxs = s.ctxs := rfl
@[simp] theorem State.takeFree_market (s : State) : (s.takeFree).market = s.market := rfl
@[simp] theorem State.takeFree_fe (s : State) : (s.takeFree).fe = s.fe := rfl
@[simp] theorem State.takeFree_mgmt (s : State) : (s.takeFree).mgmt = s.mgmt := rfl
@[simp] theorem State.takeFree_fabric (s : State) : (s.takeFree).fabric = s.fabric := rfl

@[simp] theorem State.endIssue_clock (s : State) : (s.endIssue).clock = s.clock := rfl
@[simp] theorem State.endIssue_mode (s : State) : (s.endIssue).mode = s.mode := rfl
@[simp] theorem State.endIssue_second (s : State) : (s.endIssue).second = s.second := rfl
@[simp] theorem State.endIssue_due (s : State) : (s.endIssue).due = s.due := rfl
@[simp] theorem State.endIssue_cycle (s : State) : (s.endIssue).cycle = s.cycle := rfl
@[simp] theorem State.endIssue_agenda (s : State) : (s.endIssue).agenda = s.agenda := rfl
@[simp] theorem State.endIssue_nextId (s : State) : (s.endIssue).nextId = s.nextId := rfl
@[simp] theorem State.endIssue_free (s : State) : (s.endIssue).free = s.free := rfl
@[simp] theorem State.endIssue_mem (s : State) : (s.endIssue).mem = s.mem := rfl
@[simp] theorem State.endIssue_groups (s : State) : (s.endIssue).groups = s.groups := rfl
@[simp] theorem State.endIssue_teams (s : State) : (s.endIssue).teams = s.teams := rfl
@[simp] theorem State.endIssue_tasks (s : State) : (s.endIssue).tasks = s.tasks := rfl
@[simp] theorem State.endIssue_cmds (s : State) : (s.endIssue).cmds = s.cmds := rfl
@[simp] theorem State.endIssue_edges (s : State) : (s.endIssue).edges = s.edges := rfl
@[simp] theorem State.endIssue_ops (s : State) : (s.endIssue).ops = s.ops := rfl
@[simp] theorem State.endIssue_colls (s : State) : (s.endIssue).colls = s.colls := rfl
@[simp] theorem State.endIssue_rings (s : State) : (s.endIssue).rings = s.rings := rfl
@[simp] theorem State.endIssue_cores (s : State) : (s.endIssue).cores = s.cores := rfl
@[simp] theorem State.endIssue_clusters (s : State) : (s.endIssue).clusters = s.clusters := rfl
@[simp] theorem State.endIssue_halves (s : State) : (s.endIssue).halves = s.halves := rfl
@[simp] theorem State.endIssue_dies (s : State) : (s.endIssue).dies = s.dies := rfl
@[simp] theorem State.endIssue_ctxs (s : State) : (s.endIssue).ctxs = s.ctxs := rfl
@[simp] theorem State.endIssue_market (s : State) : (s.endIssue).market = s.market := rfl
@[simp] theorem State.endIssue_fe (s : State) : (s.endIssue).fe = s.fe := rfl
@[simp] theorem State.endIssue_mgmt (s : State) : (s.endIssue).mgmt = s.mgmt := rfl
@[simp] theorem State.endIssue_fabric (s : State) : (s.endIssue).fabric = s.fabric := rfl

@[simp] theorem State.disarm_clock (s : State) (w : Who) : (s.disarm w).clock = s.clock := rfl
@[simp] theorem State.disarm_mode (s : State) (w : Who) : (s.disarm w).mode = s.mode := rfl
@[simp] theorem State.disarm_cur (s : State) (w : Who) : (s.disarm w).cur = s.cur := rfl
@[simp] theorem State.disarm_second (s : State) (w : Who) : (s.disarm w).second = s.second := rfl
@[simp] theorem State.disarm_due (s : State) (w : Who) : (s.disarm w).due = s.due := rfl
@[simp] theorem State.disarm_cycle (s : State) (w : Who) : (s.disarm w).cycle = s.cycle := rfl
@[simp] theorem State.disarm_agenda (s : State) (w : Who) : (s.disarm w).agenda = s.agenda := rfl
@[simp] theorem State.disarm_nextId (s : State) (w : Who) : (s.disarm w).nextId = s.nextId := rfl
@[simp] theorem State.disarm_free (s : State) (w : Who) : (s.disarm w).free = s.free := rfl
@[simp] theorem State.disarm_mem (s : State) (w : Who) : (s.disarm w).mem = s.mem := rfl
@[simp] theorem State.disarm_teams (s : State) (w : Who) : (s.disarm w).teams = s.teams := rfl
@[simp] theorem State.disarm_tasks (s : State) (w : Who) : (s.disarm w).tasks = s.tasks := rfl
@[simp] theorem State.disarm_cmds (s : State) (w : Who) : (s.disarm w).cmds = s.cmds := rfl
@[simp] theorem State.disarm_edges (s : State) (w : Who) : (s.disarm w).edges = s.edges := rfl
@[simp] theorem State.disarm_ops (s : State) (w : Who) : (s.disarm w).ops = s.ops := rfl
@[simp] theorem State.disarm_colls (s : State) (w : Who) : (s.disarm w).colls = s.colls := rfl
@[simp] theorem State.disarm_rings (s : State) (w : Who) : (s.disarm w).rings = s.rings := rfl
@[simp] theorem State.disarm_cores (s : State) (w : Who) : (s.disarm w).cores = s.cores := rfl
@[simp] theorem State.disarm_clusters (s : State) (w : Who) : (s.disarm w).clusters = s.clusters := rfl
@[simp] theorem State.disarm_halves (s : State) (w : Who) : (s.disarm w).halves = s.halves := rfl
@[simp] theorem State.disarm_dies (s : State) (w : Who) : (s.disarm w).dies = s.dies := rfl
@[simp] theorem State.disarm_ctxs (s : State) (w : Who) : (s.disarm w).ctxs = s.ctxs := rfl
@[simp] theorem State.disarm_market (s : State) (w : Who) : (s.disarm w).market = s.market := rfl
@[simp] theorem State.disarm_fe (s : State) (w : Who) : (s.disarm w).fe = s.fe := rfl
@[simp] theorem State.disarm_mgmt (s : State) (w : Who) : (s.disarm w).mgmt = s.mgmt := rfl
@[simp] theorem State.disarm_fabric (s : State) (w : Who) : (s.disarm w).fabric = s.fabric := rfl

@[simp] theorem State.updFrag_clock (s : State) (a b : Nat) (f : Frag → Frag) : (s.updFrag a b f).clock = s.clock := rfl
@[simp] theorem State.updFrag_mode (s : State) (a b : Nat) (f : Frag → Frag) : (s.updFrag a b f).mode = s.mode := rfl
@[simp] theorem State.updFrag_cur (s : State) (a b : Nat) (f : Frag → Frag) : (s.updFrag a b f).cur = s.cur := rfl
@[simp] theorem State.updFrag_second (s : State) (a b : Nat) (f : Frag → Frag) : (s.updFrag a b f).second = s.second := rfl
@[simp] theorem State.updFrag_due (s : State) (a b : Nat) (f : Frag → Frag) : (s.updFrag a b f).due = s.due := rfl
@[simp] theorem State.updFrag_cycle (s : State) (a b : Nat) (f : Frag → Frag) : (s.updFrag a b f).cycle = s.cycle := rfl
@[simp] theorem State.updFrag_agenda (s : State) (a b : Nat) (f : Frag → Frag) : (s.updFrag a b f).agenda = s.agenda := rfl
@[simp] theorem State.updFrag_nextId (s : State) (a b : Nat) (f : Frag → Frag) : (s.updFrag a b f).nextId = s.nextId := rfl
@[simp] theorem State.updFrag_free (s : State) (a b : Nat) (f : Frag → Frag) : (s.updFrag a b f).free = s.free := rfl
@[simp] theorem State.updFrag_mem (s : State) (a b : Nat) (f : Frag → Frag) : (s.updFrag a b f).mem = s.mem := rfl
@[simp] theorem State.updFrag_teams (s : State) (a b : Nat) (f : Frag → Frag) : (s.updFrag a b f).teams = s.teams := rfl
@[simp] theorem State.updFrag_tasks (s : State) (a b : Nat) (f : Frag → Frag) : (s.updFrag a b f).tasks = s.tasks := rfl
@[simp] theorem State.updFrag_cmds (s : State) (a b : Nat) (f : Frag → Frag) : (s.updFrag a b f).cmds = s.cmds := rfl
@[simp] theorem State.updFrag_edges (s : State) (a b : Nat) (f : Frag → Frag) : (s.updFrag a b f).edges = s.edges := rfl
@[simp] theorem State.updFrag_ops (s : State) (a b : Nat) (f : Frag → Frag) : (s.updFrag a b f).ops = s.ops := rfl
@[simp] theorem State.updFrag_colls (s : State) (a b : Nat) (f : Frag → Frag) : (s.updFrag a b f).colls = s.colls := rfl
@[simp] theorem State.updFrag_rings (s : State) (a b : Nat) (f : Frag → Frag) : (s.updFrag a b f).rings = s.rings := rfl
@[simp] theorem State.updFrag_cores (s : State) (a b : Nat) (f : Frag → Frag) : (s.updFrag a b f).cores = s.cores := rfl
@[simp] theorem State.updFrag_clusters (s : State) (a b : Nat) (f : Frag → Frag) : (s.updFrag a b f).clusters = s.clusters := rfl
@[simp] theorem State.updFrag_halves (s : State) (a b : Nat) (f : Frag → Frag) : (s.updFrag a b f).halves = s.halves := rfl
@[simp] theorem State.updFrag_dies (s : State) (a b : Nat) (f : Frag → Frag) : (s.updFrag a b f).dies = s.dies := rfl
@[simp] theorem State.updFrag_ctxs (s : State) (a b : Nat) (f : Frag → Frag) : (s.updFrag a b f).ctxs = s.ctxs := rfl
@[simp] theorem State.updFrag_market (s : State) (a b : Nat) (f : Frag → Frag) : (s.updFrag a b f).market = s.market := rfl
@[simp] theorem State.updFrag_fe (s : State) (a b : Nat) (f : Frag → Frag) : (s.updFrag a b f).fe = s.fe := rfl
@[simp] theorem State.updFrag_mgmt (s : State) (a b : Nat) (f : Frag → Frag) : (s.updFrag a b f).mgmt = s.mgmt := rfl
@[simp] theorem State.updFrag_fabric (s : State) (a b : Nat) (f : Frag → Frag) : (s.updFrag a b f).fabric = s.fabric := rfl

@[simp] theorem State.setStatus_clock (s : State) (a b : Nat) (x : Status) : (s.setStatus a b x).clock = s.clock := rfl
@[simp] theorem State.setStatus_mode (s : State) (a b : Nat) (x : Status) : (s.setStatus a b x).mode = s.mode := rfl
@[simp] theorem State.setStatus_cur (s : State) (a b : Nat) (x : Status) : (s.setStatus a b x).cur = s.cur := rfl
@[simp] theorem State.setStatus_second (s : State) (a b : Nat) (x : Status) : (s.setStatus a b x).second = s.second := rfl
@[simp] theorem State.setStatus_due (s : State) (a b : Nat) (x : Status) : (s.setStatus a b x).due = s.due := rfl
@[simp] theorem State.setStatus_cycle (s : State) (a b : Nat) (x : Status) : (s.setStatus a b x).cycle = s.cycle := rfl
@[simp] theorem State.setStatus_agenda (s : State) (a b : Nat) (x : Status) : (s.setStatus a b x).agenda = s.agenda := rfl
@[simp] theorem State.setStatus_nextId (s : State) (a b : Nat) (x : Status) : (s.setStatus a b x).nextId = s.nextId := rfl
@[simp] theorem State.setStatus_free (s : State) (a b : Nat) (x : Status) : (s.setStatus a b x).free = s.free := rfl
@[simp] theorem State.setStatus_mem (s : State) (a b : Nat) (x : Status) : (s.setStatus a b x).mem = s.mem := rfl
@[simp] theorem State.setStatus_teams (s : State) (a b : Nat) (x : Status) : (s.setStatus a b x).teams = s.teams := rfl
@[simp] theorem State.setStatus_tasks (s : State) (a b : Nat) (x : Status) : (s.setStatus a b x).tasks = s.tasks := rfl
@[simp] theorem State.setStatus_cmds (s : State) (a b : Nat) (x : Status) : (s.setStatus a b x).cmds = s.cmds := rfl
@[simp] theorem State.setStatus_edges (s : State) (a b : Nat) (x : Status) : (s.setStatus a b x).edges = s.edges := rfl
@[simp] theorem State.setStatus_ops (s : State) (a b : Nat) (x : Status) : (s.setStatus a b x).ops = s.ops := rfl
@[simp] theorem State.setStatus_colls (s : State) (a b : Nat) (x : Status) : (s.setStatus a b x).colls = s.colls := rfl
@[simp] theorem State.setStatus_rings (s : State) (a b : Nat) (x : Status) : (s.setStatus a b x).rings = s.rings := rfl
@[simp] theorem State.setStatus_cores (s : State) (a b : Nat) (x : Status) : (s.setStatus a b x).cores = s.cores := rfl
@[simp] theorem State.setStatus_clusters (s : State) (a b : Nat) (x : Status) : (s.setStatus a b x).clusters = s.clusters := rfl
@[simp] theorem State.setStatus_halves (s : State) (a b : Nat) (x : Status) : (s.setStatus a b x).halves = s.halves := rfl
@[simp] theorem State.setStatus_dies (s : State) (a b : Nat) (x : Status) : (s.setStatus a b x).dies = s.dies := rfl
@[simp] theorem State.setStatus_ctxs (s : State) (a b : Nat) (x : Status) : (s.setStatus a b x).ctxs = s.ctxs := rfl
@[simp] theorem State.setStatus_market (s : State) (a b : Nat) (x : Status) : (s.setStatus a b x).market = s.market := rfl
@[simp] theorem State.setStatus_fe (s : State) (a b : Nat) (x : Status) : (s.setStatus a b x).fe = s.fe := rfl
@[simp] theorem State.setStatus_mgmt (s : State) (a b : Nat) (x : Status) : (s.setStatus a b x).mgmt = s.mgmt := rfl
@[simp] theorem State.setStatus_fabric (s : State) (a b : Nat) (x : Status) : (s.setStatus a b x).fabric = s.fabric := rfl

@[simp] theorem State.wake_clock (s : State) (a b : Nat) : (s.wake a b).clock = s.clock := rfl
@[simp] theorem State.wake_mode (s : State) (a b : Nat) : (s.wake a b).mode = s.mode := rfl
@[simp] theorem State.wake_cur (s : State) (a b : Nat) : (s.wake a b).cur = s.cur := rfl
@[simp] theorem State.wake_second (s : State) (a b : Nat) : (s.wake a b).second = s.second := rfl
@[simp] theorem State.wake_due (s : State) (a b : Nat) : (s.wake a b).due = s.due := rfl
@[simp] theorem State.wake_cycle (s : State) (a b : Nat) : (s.wake a b).cycle = s.cycle := rfl
@[simp] theorem State.wake_agenda (s : State) (a b : Nat) : (s.wake a b).agenda = s.agenda := rfl
@[simp] theorem State.wake_nextId (s : State) (a b : Nat) : (s.wake a b).nextId = s.nextId := rfl
@[simp] theorem State.wake_free (s : State) (a b : Nat) : (s.wake a b).free = s.free := rfl
@[simp] theorem State.wake_mem (s : State) (a b : Nat) : (s.wake a b).mem = s.mem := rfl
@[simp] theorem State.wake_teams (s : State) (a b : Nat) : (s.wake a b).teams = s.teams := rfl
@[simp] theorem State.wake_tasks (s : State) (a b : Nat) : (s.wake a b).tasks = s.tasks := rfl
@[simp] theorem State.wake_cmds (s : State) (a b : Nat) : (s.wake a b).cmds = s.cmds := rfl
@[simp] theorem State.wake_edges (s : State) (a b : Nat) : (s.wake a b).edges = s.edges := rfl
@[simp] theorem State.wake_ops (s : State) (a b : Nat) : (s.wake a b).ops = s.ops := rfl
@[simp] theorem State.wake_colls (s : State) (a b : Nat) : (s.wake a b).colls = s.colls := rfl
@[simp] theorem State.wake_rings (s : State) (a b : Nat) : (s.wake a b).rings = s.rings := rfl
@[simp] theorem State.wake_cores (s : State) (a b : Nat) : (s.wake a b).cores = s.cores := rfl
@[simp] theorem State.wake_clusters (s : State) (a b : Nat) : (s.wake a b).clusters = s.clusters := rfl
@[simp] theorem State.wake_halves (s : State) (a b : Nat) : (s.wake a b).halves = s.halves := rfl
@[simp] theorem State.wake_dies (s : State) (a b : Nat) : (s.wake a b).dies = s.dies := rfl
@[simp] theorem State.wake_ctxs (s : State) (a b : Nat) : (s.wake a b).ctxs = s.ctxs := rfl
@[simp] theorem State.wake_market (s : State) (a b : Nat) : (s.wake a b).market = s.market := rfl
@[simp] theorem State.wake_fe (s : State) (a b : Nat) : (s.wake a b).fe = s.fe := rfl
@[simp] theorem State.wake_mgmt (s : State) (a b : Nat) : (s.wake a b).mgmt = s.mgmt := rfl
@[simp] theorem State.wake_fabric (s : State) (a b : Nat) : (s.wake a b).fabric = s.fabric := rfl

@[simp] theorem State.fatal_clock (s : State) (r : TrapRec) : (s.fatal r).clock = s.clock := rfl
@[simp] theorem State.fatal_mode (s : State) (r : TrapRec) : (s.fatal r).mode = s.mode := rfl
@[simp] theorem State.fatal_cur (s : State) (r : TrapRec) : (s.fatal r).cur = s.cur := rfl
@[simp] theorem State.fatal_second (s : State) (r : TrapRec) : (s.fatal r).second = s.second := rfl
@[simp] theorem State.fatal_due (s : State) (r : TrapRec) : (s.fatal r).due = s.due := rfl
@[simp] theorem State.fatal_cycle (s : State) (r : TrapRec) : (s.fatal r).cycle = s.cycle := rfl
@[simp] theorem State.fatal_agenda (s : State) (r : TrapRec) : (s.fatal r).agenda = s.agenda := rfl
@[simp] theorem State.fatal_nextId (s : State) (r : TrapRec) : (s.fatal r).nextId = s.nextId := rfl
@[simp] theorem State.fatal_free (s : State) (r : TrapRec) : (s.fatal r).free = s.free := rfl
@[simp] theorem State.fatal_mem (s : State) (r : TrapRec) : (s.fatal r).mem = s.mem := rfl
@[simp] theorem State.fatal_groups (s : State) (r : TrapRec) : (s.fatal r).groups = s.groups := rfl
@[simp] theorem State.fatal_teams (s : State) (r : TrapRec) : (s.fatal r).teams = s.teams := rfl
@[simp] theorem State.fatal_tasks (s : State) (r : TrapRec) : (s.fatal r).tasks = s.tasks := rfl
@[simp] theorem State.fatal_cmds (s : State) (r : TrapRec) : (s.fatal r).cmds = s.cmds := rfl
@[simp] theorem State.fatal_edges (s : State) (r : TrapRec) : (s.fatal r).edges = s.edges := rfl
@[simp] theorem State.fatal_ops (s : State) (r : TrapRec) : (s.fatal r).ops = s.ops := rfl
@[simp] theorem State.fatal_colls (s : State) (r : TrapRec) : (s.fatal r).colls = s.colls := rfl
@[simp] theorem State.fatal_rings (s : State) (r : TrapRec) : (s.fatal r).rings = s.rings := rfl
@[simp] theorem State.fatal_cores (s : State) (r : TrapRec) : (s.fatal r).cores = s.cores := rfl
@[simp] theorem State.fatal_clusters (s : State) (r : TrapRec) : (s.fatal r).clusters = s.clusters := rfl
@[simp] theorem State.fatal_halves (s : State) (r : TrapRec) : (s.fatal r).halves = s.halves := rfl
@[simp] theorem State.fatal_dies (s : State) (r : TrapRec) : (s.fatal r).dies = s.dies := rfl
@[simp] theorem State.fatal_ctxs (s : State) (r : TrapRec) : (s.fatal r).ctxs = s.ctxs := rfl
@[simp] theorem State.fatal_market (s : State) (r : TrapRec) : (s.fatal r).market = s.market := rfl
@[simp] theorem State.fatal_fe (s : State) (r : TrapRec) : (s.fatal r).fe = s.fe := rfl
@[simp] theorem State.fatal_fabric (s : State) (r : TrapRec) : (s.fatal r).fabric = s.fabric := rfl

@[simp] theorem State.setWaiting_clock (s : State) (a b : Nat) (x : Wait) : (s.setWaiting a b x).clock = s.clock := rfl
@[simp] theorem State.setWaiting_mode (s : State) (a b : Nat) (x : Wait) : (s.setWaiting a b x).mode = s.mode := rfl
@[simp] theorem State.setWaiting_cur (s : State) (a b : Nat) (x : Wait) : (s.setWaiting a b x).cur = s.cur := rfl
@[simp] theorem State.setWaiting_second (s : State) (a b : Nat) (x : Wait) : (s.setWaiting a b x).second = s.second := rfl
@[simp] theorem State.setWaiting_due (s : State) (a b : Nat) (x : Wait) : (s.setWaiting a b x).due = s.due := rfl
@[simp] theorem State.setWaiting_cycle (s : State) (a b : Nat) (x : Wait) : (s.setWaiting a b x).cycle = s.cycle := rfl
@[simp] theorem State.setWaiting_agenda (s : State) (a b : Nat) (x : Wait) : (s.setWaiting a b x).agenda = s.agenda := rfl
@[simp] theorem State.setWaiting_nextId (s : State) (a b : Nat) (x : Wait) : (s.setWaiting a b x).nextId = s.nextId := rfl
@[simp] theorem State.setWaiting_free (s : State) (a b : Nat) (x : Wait) : (s.setWaiting a b x).free = s.free := rfl
@[simp] theorem State.setWaiting_mem (s : State) (a b : Nat) (x : Wait) : (s.setWaiting a b x).mem = s.mem := rfl
@[simp] theorem State.setWaiting_teams (s : State) (a b : Nat) (x : Wait) : (s.setWaiting a b x).teams = s.teams := rfl
@[simp] theorem State.setWaiting_tasks (s : State) (a b : Nat) (x : Wait) : (s.setWaiting a b x).tasks = s.tasks := rfl
@[simp] theorem State.setWaiting_cmds (s : State) (a b : Nat) (x : Wait) : (s.setWaiting a b x).cmds = s.cmds := rfl
@[simp] theorem State.setWaiting_edges (s : State) (a b : Nat) (x : Wait) : (s.setWaiting a b x).edges = s.edges := rfl
@[simp] theorem State.setWaiting_ops (s : State) (a b : Nat) (x : Wait) : (s.setWaiting a b x).ops = s.ops := rfl
@[simp] theorem State.setWaiting_colls (s : State) (a b : Nat) (x : Wait) : (s.setWaiting a b x).colls = s.colls := rfl
@[simp] theorem State.setWaiting_rings (s : State) (a b : Nat) (x : Wait) : (s.setWaiting a b x).rings = s.rings := rfl
@[simp] theorem State.setWaiting_cores (s : State) (a b : Nat) (x : Wait) : (s.setWaiting a b x).cores = s.cores := rfl
@[simp] theorem State.setWaiting_clusters (s : State) (a b : Nat) (x : Wait) : (s.setWaiting a b x).clusters = s.clusters := rfl
@[simp] theorem State.setWaiting_halves (s : State) (a b : Nat) (x : Wait) : (s.setWaiting a b x).halves = s.halves := rfl
@[simp] theorem State.setWaiting_dies (s : State) (a b : Nat) (x : Wait) : (s.setWaiting a b x).dies = s.dies := rfl
@[simp] theorem State.setWaiting_ctxs (s : State) (a b : Nat) (x : Wait) : (s.setWaiting a b x).ctxs = s.ctxs := rfl
@[simp] theorem State.setWaiting_market (s : State) (a b : Nat) (x : Wait) : (s.setWaiting a b x).market = s.market := rfl
@[simp] theorem State.setWaiting_fe (s : State) (a b : Nat) (x : Wait) : (s.setWaiting a b x).fe = s.fe := rfl
@[simp] theorem State.setWaiting_mgmt (s : State) (a b : Nat) (x : Wait) : (s.setWaiting a b x).mgmt = s.mgmt := rfl
@[simp] theorem State.setWaiting_fabric (s : State) (a b : Nat) (x : Wait) : (s.setWaiting a b x).fabric = s.fabric := rfl

@[simp] theorem State.goto_clock (s : State) (w : Who) (pc : Pc) (j : Bool) : (s.goto w pc j).clock = s.clock := rfl
@[simp] theorem State.goto_mode (s : State) (w : Who) (pc : Pc) (j : Bool) : (s.goto w pc j).mode = s.mode := rfl
@[simp] theorem State.goto_cur (s : State) (w : Who) (pc : Pc) (j : Bool) : (s.goto w pc j).cur = s.cur := rfl
@[simp] theorem State.goto_second (s : State) (w : Who) (pc : Pc) (j : Bool) : (s.goto w pc j).second = s.second := rfl
@[simp] theorem State.goto_due (s : State) (w : Who) (pc : Pc) (j : Bool) : (s.goto w pc j).due = s.due := rfl
@[simp] theorem State.goto_cycle (s : State) (w : Who) (pc : Pc) (j : Bool) : (s.goto w pc j).cycle = s.cycle := rfl
@[simp] theorem State.goto_agenda (s : State) (w : Who) (pc : Pc) (j : Bool) : (s.goto w pc j).agenda = s.agenda := rfl
@[simp] theorem State.goto_nextId (s : State) (w : Who) (pc : Pc) (j : Bool) : (s.goto w pc j).nextId = s.nextId := rfl
@[simp] theorem State.goto_free (s : State) (w : Who) (pc : Pc) (j : Bool) : (s.goto w pc j).free = s.free := rfl
@[simp] theorem State.goto_mem (s : State) (w : Who) (pc : Pc) (j : Bool) : (s.goto w pc j).mem = s.mem := rfl
@[simp] theorem State.goto_teams (s : State) (w : Who) (pc : Pc) (j : Bool) : (s.goto w pc j).teams = s.teams := rfl
@[simp] theorem State.goto_tasks (s : State) (w : Who) (pc : Pc) (j : Bool) : (s.goto w pc j).tasks = s.tasks := rfl
@[simp] theorem State.goto_cmds (s : State) (w : Who) (pc : Pc) (j : Bool) : (s.goto w pc j).cmds = s.cmds := rfl
@[simp] theorem State.goto_edges (s : State) (w : Who) (pc : Pc) (j : Bool) : (s.goto w pc j).edges = s.edges := rfl
@[simp] theorem State.goto_colls (s : State) (w : Who) (pc : Pc) (j : Bool) : (s.goto w pc j).colls = s.colls := rfl
@[simp] theorem State.goto_rings (s : State) (w : Who) (pc : Pc) (j : Bool) : (s.goto w pc j).rings = s.rings := rfl
@[simp] theorem State.goto_cores (s : State) (w : Who) (pc : Pc) (j : Bool) : (s.goto w pc j).cores = s.cores := rfl
@[simp] theorem State.goto_clusters (s : State) (w : Who) (pc : Pc) (j : Bool) : (s.goto w pc j).clusters = s.clusters := rfl
@[simp] theorem State.goto_halves (s : State) (w : Who) (pc : Pc) (j : Bool) : (s.goto w pc j).halves = s.halves := rfl
@[simp] theorem State.goto_dies (s : State) (w : Who) (pc : Pc) (j : Bool) : (s.goto w pc j).dies = s.dies := rfl
@[simp] theorem State.goto_ctxs (s : State) (w : Who) (pc : Pc) (j : Bool) : (s.goto w pc j).ctxs = s.ctxs := rfl
@[simp] theorem State.goto_market (s : State) (w : Who) (pc : Pc) (j : Bool) : (s.goto w pc j).market = s.market := rfl
@[simp] theorem State.goto_fe (s : State) (w : Who) (pc : Pc) (j : Bool) : (s.goto w pc j).fe = s.fe := rfl
@[simp] theorem State.goto_mgmt (s : State) (w : Who) (pc : Pc) (j : Bool) : (s.goto w pc j).mgmt = s.mgmt := rfl
@[simp] theorem State.goto_fabric (s : State) (w : Who) (pc : Pc) (j : Bool) : (s.goto w pc j).fabric = s.fabric := rfl

@[simp] theorem State.advance_clock (s : State) (w : Who) : (s.advance w).clock = s.clock := rfl
@[simp] theorem State.advance_mode (s : State) (w : Who) : (s.advance w).mode = s.mode := rfl
@[simp] theorem State.advance_cur (s : State) (w : Who) : (s.advance w).cur = s.cur := rfl
@[simp] theorem State.advance_second (s : State) (w : Who) : (s.advance w).second = s.second := rfl
@[simp] theorem State.advance_due (s : State) (w : Who) : (s.advance w).due = s.due := rfl
@[simp] theorem State.advance_cycle (s : State) (w : Who) : (s.advance w).cycle = s.cycle := rfl
@[simp] theorem State.advance_agenda (s : State) (w : Who) : (s.advance w).agenda = s.agenda := rfl
@[simp] theorem State.advance_nextId (s : State) (w : Who) : (s.advance w).nextId = s.nextId := rfl
@[simp] theorem State.advance_free (s : State) (w : Who) : (s.advance w).free = s.free := rfl
@[simp] theorem State.advance_mem (s : State) (w : Who) : (s.advance w).mem = s.mem := rfl
@[simp] theorem State.advance_teams (s : State) (w : Who) : (s.advance w).teams = s.teams := rfl
@[simp] theorem State.advance_tasks (s : State) (w : Who) : (s.advance w).tasks = s.tasks := rfl
@[simp] theorem State.advance_cmds (s : State) (w : Who) : (s.advance w).cmds = s.cmds := rfl
@[simp] theorem State.advance_edges (s : State) (w : Who) : (s.advance w).edges = s.edges := rfl
@[simp] theorem State.advance_colls (s : State) (w : Who) : (s.advance w).colls = s.colls := rfl
@[simp] theorem State.advance_rings (s : State) (w : Who) : (s.advance w).rings = s.rings := rfl
@[simp] theorem State.advance_cores (s : State) (w : Who) : (s.advance w).cores = s.cores := rfl
@[simp] theorem State.advance_clusters (s : State) (w : Who) : (s.advance w).clusters = s.clusters := rfl
@[simp] theorem State.advance_halves (s : State) (w : Who) : (s.advance w).halves = s.halves := rfl
@[simp] theorem State.advance_dies (s : State) (w : Who) : (s.advance w).dies = s.dies := rfl
@[simp] theorem State.advance_ctxs (s : State) (w : Who) : (s.advance w).ctxs = s.ctxs := rfl
@[simp] theorem State.advance_market (s : State) (w : Who) : (s.advance w).market = s.market := rfl
@[simp] theorem State.advance_fe (s : State) (w : Who) : (s.advance w).fe = s.fe := rfl
@[simp] theorem State.advance_mgmt (s : State) (w : Who) : (s.advance w).mgmt = s.mgmt := rfl
@[simp] theorem State.advance_fabric (s : State) (w : Who) : (s.advance w).fabric = s.fabric := rfl

@[simp] theorem State.spoil_clock (s : State) (w : Who) : (s.spoil w).clock = s.clock := rfl
@[simp] theorem State.spoil_mode (s : State) (w : Who) : (s.spoil w).mode = s.mode := rfl
@[simp] theorem State.spoil_cur (s : State) (w : Who) : (s.spoil w).cur = s.cur := rfl
@[simp] theorem State.spoil_second (s : State) (w : Who) : (s.spoil w).second = s.second := rfl
@[simp] theorem State.spoil_due (s : State) (w : Who) : (s.spoil w).due = s.due := rfl
@[simp] theorem State.spoil_cycle (s : State) (w : Who) : (s.spoil w).cycle = s.cycle := rfl
@[simp] theorem State.spoil_agenda (s : State) (w : Who) : (s.spoil w).agenda = s.agenda := rfl
@[simp] theorem State.spoil_nextId (s : State) (w : Who) : (s.spoil w).nextId = s.nextId := rfl
@[simp] theorem State.spoil_free (s : State) (w : Who) : (s.spoil w).free = s.free := rfl
@[simp] theorem State.spoil_mem (s : State) (w : Who) : (s.spoil w).mem = s.mem := rfl
@[simp] theorem State.spoil_tasks (s : State) (w : Who) : (s.spoil w).tasks = s.tasks := rfl
@[simp] theorem State.spoil_cmds (s : State) (w : Who) : (s.spoil w).cmds = s.cmds := rfl
@[simp] theorem State.spoil_edges (s : State) (w : Who) : (s.spoil w).edges = s.edges := rfl
@[simp] theorem State.spoil_ops (s : State) (w : Who) : (s.spoil w).ops = s.ops := rfl
@[simp] theorem State.spoil_colls (s : State) (w : Who) : (s.spoil w).colls = s.colls := rfl
@[simp] theorem State.spoil_rings (s : State) (w : Who) : (s.spoil w).rings = s.rings := rfl
@[simp] theorem State.spoil_cores (s : State) (w : Who) : (s.spoil w).cores = s.cores := rfl
@[simp] theorem State.spoil_clusters (s : State) (w : Who) : (s.spoil w).clusters = s.clusters := rfl
@[simp] theorem State.spoil_halves (s : State) (w : Who) : (s.spoil w).halves = s.halves := rfl
@[simp] theorem State.spoil_dies (s : State) (w : Who) : (s.spoil w).dies = s.dies := rfl
@[simp] theorem State.spoil_ctxs (s : State) (w : Who) : (s.spoil w).ctxs = s.ctxs := rfl
@[simp] theorem State.spoil_market (s : State) (w : Who) : (s.spoil w).market = s.market := rfl
@[simp] theorem State.spoil_fe (s : State) (w : Who) : (s.spoil w).fe = s.fe := rfl
@[simp] theorem State.spoil_mgmt (s : State) (w : Who) : (s.spoil w).mgmt = s.mgmt := rfl
@[simp] theorem State.spoil_fabric (s : State) (w : Who) : (s.spoil w).fabric = s.fabric := rfl

@[simp] theorem State.setGroup_groups (s : State) (k : Nat) (g : Group) : (s.setGroup k g).groups = s.groups.set k g := rfl
@[simp] theorem State.updGroup_groups (s : State) (k : Nat) (f : Group → Group) :
    (s.updGroup k f).groups = s.groups.upd k f := rfl
@[simp] theorem State.updCore_cores (s : State) (k : Nat) (f : Core → Core) : (s.updCore k f).cores = s.cores.upd k f := rfl
@[simp] theorem State.updCluster_clusters (s : State) (k : Nat) (f : Cluster → Cluster) :
    (s.updCluster k f).clusters = s.clusters.upd k f := rfl
@[simp] theorem State.updDie_dies (s : State) (k : Nat) (f : Die → Die) : (s.updDie k f).dies = s.dies.upd k f := rfl
@[simp] theorem State.updTask_tasks (s : State) (k : Nat) (f : Task → Task) : (s.updTask k f).tasks = s.tasks.upd k f := rfl
@[simp] theorem State.updCtx_ctxs (s : State) (k : Nat) (f : Ctx → Ctx) : (s.updCtx k f).ctxs = s.ctxs.upd k f := rfl
@[simp] theorem State.updTeam_teams (s : State) (k : Nat) (f : Team → Team) : (s.updTeam k f).teams = s.teams.upd k f := rfl
@[simp] theorem State.push_due (s : State) (i : Instr) : (s.push i).due = s.due ++ [i] := rfl
@[simp] theorem State.endIssue_cur (s : State) : s.endIssue.cur = none := rfl

end Sys2Proof.Machine
end

