-- ==== Sys2Proof/Laws/Mem.lean ====
section
/-! SUPPORT. Memory: reads after writes, and that every operation that writes memory keeps the canonical form of every one. -/

namespace Sys2Proof.Machine

open Sys2Proof

/-! ### One memory -/

theorem Mem.wfFrom_mono {m : Mem} {lo lo' : Nat} (h : Mem.wfFrom lo m = true) (hl : lo' ≤ lo) : Mem.wfFrom lo' m = true := by
  cases m with
  | nil => rfl
  | cons c t =>
    obtain ⟨a, b⟩ := c
    simp only [Mem.wfFrom, Bool.and_eq_true, decide_eq_true_eq] at h ⊢
    exact ⟨⟨by omega, h.1.2⟩, h.2⟩

theorem Mem.read_below {m : Mem} {lo k : Nat} (h : Mem.wfFrom lo m = true) (hk : k < lo) : m.read k = Mem.unlisted := by
  induction m generalizing lo with
  | nil => rfl
  | cons c t ih =>
    obtain ⟨a, b⟩ := c
    simp only [Mem.wfFrom, Bool.and_eq_true, decide_eq_true_eq] at h
    simp only [Mem.read]
    rw [if_neg (by omega)]
    exact ih h.2 (by omega)

theorem Mem.write_wfFrom {m : Mem} {lo : Nat} (k : Nat) (b : Byte) (h : Mem.wfFrom lo m = true) :
    Mem.wfFrom (min lo k) (m.write k b) = true := by
  induction m generalizing lo with
  | nil =>
    simp only [Mem.write]
    split
    · rfl
    · rename_i hb; simp [Mem.wfFrom, hb]
  | cons c t ih =>
    obtain ⟨a, x⟩ := c
    have h' := h
    simp only [Mem.wfFrom, Bool.and_eq_true, decide_eq_true_eq] at h
    simp only [Mem.write]
    split
    · split
      · exact Mem.wfFrom_mono h' (by omega)
      · rename_i hk hb
        simp only [Mem.wfFrom, Bool.and_eq_true, decide_eq_true_eq]
        exact ⟨⟨by omega, by simpa using hb⟩, ⟨by omega, h.1.2⟩, h.2⟩
    · split
      · split
        · exact Mem.wfFrom_mono h.2 (by omega)
        · rename_i hk hb
          simp only [Mem.wfFrom, Bool.and_eq_true, decide_eq_true_eq]
          exact ⟨⟨by omega, by simpa using hb⟩, by subst k; exact h.2⟩
      · simp only [Mem.wfFrom, Bool.and_eq_true, decide_eq_true_eq]
        refine ⟨⟨by omega, h.1.2⟩, Mem.wfFrom_mono (ih h.2) (by omega)⟩

/-- A write keeps the canonical form. -/
theorem Mem.write_wf {m : Mem} (k : Nat) (b : Byte) (h : m.wf = true) : (m.write k b).wf = true :=
  Mem.wfFrom_mono (Mem.write_wfFrom k b h) (by omega)

/-- A byte reads as it was written. -/
theorem Mem.read_write_same {m : Mem} {lo : Nat} (k : Nat) (b : Byte) (h : Mem.wfFrom lo m = true) :
    (m.write k b).read k = b := by
  induction m generalizing lo with
  | nil =>
    simp only [Mem.write]
    split
    · rename_i hb; simp [Mem.read, hb]
    · simp [Mem.read]
  | cons c t ih =>
    obtain ⟨a, x⟩ := c
    simp only [Mem.wfFrom, Bool.and_eq_true, decide_eq_true_eq] at h
    simp only [Mem.write]
    split
    · rename_i hk
      split
      · rename_i hb
        simp only [Mem.read]
        rw [if_neg (by omega), Mem.read_below h.2 (by omega), hb]
      · simp [Mem.read]
    · split
      · rename_i hk
        split
        · rename_i hb; rw [Mem.read_below h.2 (by omega), hb]
        · simp [Mem.read]
      · rename_i h1 h2
        simp only [Mem.read]
        rw [if_neg (by omega)]
        exact ih h.2

/-- A write leaves every other byte as it was. -/
theorem Mem.read_write_ne (m : Mem) (k j : Nat) (b : Byte) (h : j ≠ k) : (m.write k b).read j = m.read j := by
  induction m with
  | nil =>
    simp only [Mem.write]
    split
    · rfl
    · simp [Mem.read, h]
  | cons c t ih =>
    obtain ⟨a, x⟩ := c
    simp only [Mem.write]
    split
    · split
      · rfl
      · simp [Mem.read, h]
    · split
      · split
        · rename_i h1 h2 h3; subst h2; simp [Mem.read, h]
        · rename_i h1 h2 h3; subst h2; simp [Mem.read, h]
      · simp only [Mem.read]
        split
        · rfl
        · exact ih

theorem Mem.read_write {m : Mem} (k j : Nat) (b : Byte) (h : m.wf = true) :
    (m.write k b).read j = if j = k then b else m.read j := by
  split
  · rename_i e; subst e; exact Mem.read_write_same j b h
  · rename_i e; exact Mem.read_write_ne m k j b e

theorem Mem.writeL_wf {m : Mem} (k : Nat) (l : List Byte) (h : m.wf = true) : (m.writeL k l).wf = true := by
  induction l generalizing m k with
  | nil => exact h
  | cons b t ih => exact ih (k + 1) (Mem.write_wf k b h)

theorem Mem.writeNat_wf {m : Mem} (k n x : Nat) (h : m.wf = true) : (m.writeNat k n x).wf = true := Mem.writeL_wf k _ h

theorem Mem.read_writeL_outside (m : Mem) (k j : Nat) (l : List Byte) (h : j < k ∨ k + l.length ≤ j) :
    (m.writeL k l).read j = m.read j := by
  induction l generalizing m k with
  | nil => rfl
  | cons b t ih =>
    simp only [Mem.writeL, List.length_cons] at h ⊢
    rw [ih (m.write k b) (k + 1) (by omega), Mem.read_write_ne _ _ _ _ (by omega)]

theorem Mem.read_writeL {m : Mem} (k i : Nat) (l : List Byte) (h : m.wf = true) (hi : i < l.length) :
    (m.writeL k l).read (k + i) = l[i] := by
  induction l generalizing m k i with
  | nil => simp at hi
  | cons b t ih =>
    cases i with
    | zero =>
      simp only [Mem.writeL, Nat.add_zero, List.getElem_cons_zero]
      rw [Mem.read_writeL_outside _ _ _ _ (by omega)]
      exact Mem.read_write_same k b h
    | succ i =>
      have := ih (k + 1) i (Mem.write_wf k b h) (by simpa using hi)
      simp only [Mem.writeL, List.getElem_cons_succ]
      rw [← this]; congr 1; omega

theorem Mem.wfFrom_filter {m : Mem} {lo : Nat} (p : Host.Cell → Bool) (h : Mem.wfFrom lo m = true) :
    Mem.wfFrom lo (m.filter p) = true := by
  induction m generalizing lo with
  | nil => rfl
  | cons c t ih =>
    obtain ⟨a, b⟩ := c
    have h' := h
    simp only [Mem.wfFrom, Bool.and_eq_true, decide_eq_true_eq] at h
    rw [List.filter_cons]
    split
    · simp only [Mem.wfFrom, Bool.and_eq_true, decide_eq_true_eq]
      exact ⟨h.1, ih h.2⟩
    · exact Mem.wfFrom_mono (ih h.2) (by omega)

theorem Mem.filter_wf {m : Mem} (p : Host.Cell → Bool) (h : m.wf = true) : Mem.wf (m.filter p) = true := Mem.wfFrom_filter p h

theorem Mem.foldl_write_wf {α : Type} (l : List α) (a : α → Nat) (b : α → Byte) {m : Mem} (h : m.wf = true) :
    Mem.wf (l.foldl (fun t c => t.write (a c) (b c)) m) = true := by
  induction l generalizing m with
  | nil => exact h
  | cons c t ih => exact ih (Mem.write_wf _ _ h)

theorem moveBytes_wf {m : Mem} (src n dst : Nat) (h : m.wf = true) : (moveBytes m src n dst).wf = true := by
  unfold moveBytes
  exact Mem.foldl_write_wf _ _ _ (Mem.filter_wf _ h)

/-! ### Poisoned lines and dirty bytes -/

@[simp] theorem MemSys.mark_sys (m : MemSys) (l : Loc) : (m.mark l).sys = m.sys := rfl
@[simp] theorem MemSys.mark_priv (m : MemSys) (l : Loc) : (m.mark l).priv = m.priv := rfl
@[simp] theorem MemSys.mark_backing (m : MemSys) (l : Loc) : (m.mark l).backing = m.backing := rfl
@[simp] theorem MemSys.mark_pages (m : MemSys) (l : Loc) : (m.mark l).pages = m.pages := rfl
@[simp] theorem MemSys.put_sys (m : MemSys) (a : Nat) (b : Byte) : (m.put a b).sys = m.sys.write a b := rfl
@[simp] theorem MemSys.put_priv (m : MemSys) (a : Nat) (b : Byte) : (m.put a b).priv = m.priv := rfl
@[simp] theorem MemSys.put_backing (m : MemSys) (a : Nat) (b : Byte) : (m.put a b).backing = m.backing := rfl
@[simp] theorem MemSys.put_pages (m : MemSys) (a : Nat) (b : Byte) : (m.put a b).pages = m.pages := rfl

/-- The dirty bytes of a copy reach their places; nothing else of the memory system changes but poison. -/
theorem MemSys.putDirty_spec (m : MemSys) (a : Nat) (b : List Byte) (d : List Bool) :
    (m.putDirty a b d).priv = m.priv ∧ (m.putDirty a b d).backing = m.backing ∧ (m.putDirty a b d).pages = m.pages ∧
      (m.sys.wf = true → (m.putDirty a b d).sys.wf = true) ∧
      (∀ j, (j < a ∨ a + b.length ≤ j) → (m.putDirty a b d).sys.read j = m.sys.read j) := by
  induction b generalizing m a d with
  | nil => simp [MemSys.putDirty]
  | cons x t ih =>
    cases d with
    | nil => simp [MemSys.putDirty]
    | cons e u =>
      simp only [MemSys.putDirty]
      obtain ⟨h1, h2, h3, h4, h5⟩ := ih (if e = true then m.put a x else m) (a + 1) u
      refine ⟨?_, ?_, ?_, ?_, ?_⟩
      · rw [h1]; split <;> rfl
      · rw [h2]; split <;> rfl
      · rw [h3]; split <;> rfl
      · intro hw; apply h4; split
        · exact Mem.write_wf _ _ hw
        · exact hw
      · intro j hj
        simp only [List.length_cons] at hj
        rw [h5 j (by omega)]
        split
        · exact Mem.read_write_ne _ _ _ _ (by omega)
        · rfl

/-- A dirty byte of a copy that is performed reads at home as the copy held it. -/
theorem MemSys.putDirty_read (m : MemSys) (a k : Nat) (b : List Byte) (d : List Bool) (x : Byte) (hw : m.sys.wf = true)
    (hd : d[k]? = some true) (hb : b[k]? = some x) : (m.putDirty a b d).sys.read (a + k) = x := by
  induction b generalizing m a d k with
  | nil => simp at hb
  | cons y t ih =>
    cases d with
    | nil => simp at hd
    | cons e u =>
      simp only [MemSys.putDirty]
      cases k with
      | zero =>
        simp at hd hb
        subst hd; subst hb
        rw [(MemSys.putDirty_spec _ _ _ _).2.2.2.2 _ (Or.inl (by omega))]
        exact Mem.read_write_same _ _ hw
      | succ k =>
        have := ih (if e = true then m.put a y else m) (a + 1) k u (by split; exact Mem.write_wf _ _ hw; exact hw)
          (by simpa using hd) (by simpa using hb)
        rw [← this]; congr 1; omega

/-! ### The canonical form of every memory -/

theorem memsOk_iff (s : State) : memsOk s = true ↔
    s.mem.sys.wf = true ∧ s.mem.priv.all (fun e => e.2.wf) = true ∧ s.mem.backing.all (fun e => e.2.wf) = true ∧
      s.clusters.all (fun e => e.2.sram.all (fun x => x.2.wf)) = true ∧ s.dies.all (fun e => e.2.banks.all (fun x => x.2.wf)) = true ∧
      s.tasks.all (fun e => e.2.images.all (fun x => x.2.wf)) = true := by
  simp only [memsOk, Bool.and_eq_true, and_assoc]

/-- The form depends on the memories alone. -/
theorem memsOk_of_eq {s t : State} (h : memsOk s = true) (h1 : t.mem.sys = s.mem.sys) (h2 : t.mem.priv = s.mem.priv)
    (h3 : t.mem.backing = s.mem.backing) (h4 : t.clusters = s.clusters) (h5 : t.dies = s.dies) (h6 : t.tasks = s.tasks) :
    memsOk t = true := by
  rw [memsOk_iff] at h ⊢
  rw [h1, h2, h3, h4, h5, h6]; exact h

theorem Table.all_del {α : Type} (p : α → Bool) (t : Table α) (k : Nat) (h : t.all (fun e => p e.2) = true) :
    (t.del k).all (fun e => p e.2) = true := by
  induction t with
  | nil => rfl
  | cons e t ih =>
    obtain ⟨j, x⟩ := e
    simp only [List.all_cons, Bool.and_eq_true] at h
    simp only [Table.del]
    split
    · exact h.2
    · simp only [List.all_cons, Bool.and_eq_true]; exact ⟨h.1, ih h.2⟩

theorem memOf_wf (t : Table Mem) (k : Nat) (h : t.all (fun e => e.2.wf) = true) : (memOf t k).wf = true := by
  unfold memOf
  cases hk : t.get k with
  | none => rfl
  | some m => exact Table.get_of_all (fun m : Mem => m.wf) t k m h hk

theorem memsOk_updGroup (s : State) (k : Nat) (f : Group → Group) (h : memsOk s = true) : memsOk (s.updGroup k f) = true := h
theorem memsOk_updTeam (s : State) (k : Nat) (f : Team → Team) (h : memsOk s = true) : memsOk (s.updTeam k f) = true := h
theorem memsOk_updCtx (s : State) (k : Nat) (f : Ctx → Ctx) (h : memsOk s = true) : memsOk (s.updCtx k f) = true := h
theorem memsOk_updCore (s : State) (k : Nat) (f : Core → Core) (h : memsOk s = true) : memsOk (s.updCore k f) = true := h
theorem memsOk_updHalf (s : State) (k : Nat) (f : Half → Half) (h : memsOk s = true) : memsOk (s.updHalf k f) = true := h
theorem memsOk_push (s : State) (i : Instr) (h : memsOk s = true) : memsOk (s.push i) = true := h

theorem memsOk_updTask (s : State) (k : Nat) (f : Task → Task) (h : memsOk s = true)
    (hf : ∀ x : Task, x.images.all (fun e => e.2.wf) = true → (f x).images.all (fun e => e.2.wf) = true) :
    memsOk (s.updTask k f) = true := by
  rw [memsOk_iff] at h ⊢
  exact ⟨h.1, h.2.1, h.2.2.1, h.2.2.2.1, h.2.2.2.2.1,
    Table.all_upd (fun x : Task => x.images.all (fun e => e.2.wf)) _ _ _ h.2.2.2.2.2 hf⟩

theorem memsOk_updCluster (s : State) (k : Nat) (f : Cluster → Cluster) (h : memsOk s = true)
    (hf : ∀ x : Cluster, x.sram.all (fun e => e.2.wf) = true → (f x).sram.all (fun e => e.2.wf) = true) :
    memsOk (s.updCluster k f) = true := by
  rw [memsOk_iff] at h ⊢
  exact ⟨h.1, h.2.1, h.2.2.1, Table.all_upd (fun x : Cluster => x.sram.all (fun e => e.2.wf)) _ _ _ h.2.2.2.1 hf,
    h.2.2.2.2.1, h.2.2.2.2.2⟩

theorem memsOk_updDie (s : State) (k : Nat) (f : Die → Die) (h : memsOk s = true)
    (hf : ∀ x : Die, x.banks.all (fun e => e.2.wf) = true → (f x).banks.all (fun e => e.2.wf) = true) :
    memsOk (s.updDie k f) = true := by
  rw [memsOk_iff] at h ⊢
  exact ⟨h.1, h.2.1, h.2.2.1, h.2.2.2.1, Table.all_upd (fun x : Die => x.banks.all (fun e => e.2.wf)) _ _ _ h.2.2.2.2.1 hf,
    h.2.2.2.2.2⟩

theorem memsOk_pushConflicts (s : State) (l : List Nat) (h : memsOk s = true) : memsOk (s.pushConflicts l) = true := by
  unfold State.pushConflicts
  induction l generalizing s with
  | nil => exact h
  | cons a t ih => exact ih _ (memsOk_push s _ h)

theorem memsOk_foldl {α : Type} (l : List α) (f : State → α → State) (hf : ∀ s a, memsOk s = true → memsOk (f s a) = true)
    (s : State) (h : memsOk s = true) : memsOk (l.foldl f s) = true := by
  induction l generalizing s with
  | nil => exact h
  | cons a t ih => exact ih _ (hf s a h)

theorem memsOk_flush (s : State) (l : L1Line) (h : memsOk s = true) : memsOk { s with mem := s.mem.flush l } = true := by
  obtain ⟨h1, h2, _, h4, _⟩ := MemSys.putDirty_spec s.mem (128 * l.line) l.bytes l.dirty
  rw [memsOk_iff] at h ⊢
  refine ⟨h4 h.1, ?_, ?_, h.2.2.2⟩
  · simpa only [MemSys.flush, h1] using h.2.1
  · simpa only [MemSys.flush, h2] using h.2.2.1

/-! ### Operations of the slices and the L1s -/

/-- The slices' lines are no memory: what stands in them is what stands behind them. -/
theorem memsOk_l2Use (s : State) (ctx : Nat) (d : Bool) (line : Nat) (h : memsOk s = true) :
    memsOk (s.l2Use ctx d line) = true := by
  unfold State.l2Use
  simp only
  split
  · exact memsOk_of_eq h rfl rfl rfl rfl rfl rfl
  · split
    · exact h
    · exact memsOk_of_eq h rfl rfl rfl rfl rfl rfl

theorem memsOk_l2Lines (s : State) (ctx : Nat) (d : Bool) (l : List Nat) (h : memsOk s = true) :
    memsOk (s.l2Lines ctx d l) = true := memsOk_foldl _ _ (fun s k h => memsOk_l2Use s ctx d k h) s h

theorem memsOk_l2Drop (s : State) (p : L2Line → Bool) (h : memsOk s = true) : memsOk (s.l2Drop p) = true :=
  memsOk_of_eq h rfl rfl rfl rfl rfl rfl

theorem memsOk_noteSeen (s : State) (core : Nat) (l : List Nat) (h : memsOk s = true) : memsOk (s.noteSeen core l) = true :=
  memsOk_foldl _ _ (fun s _ h => memsOk_updCore s core _ h) s h

theorem memsOk_flushCopy (s : State) (l : L1Line) (h : memsOk s = true) : memsOk (s.flushCopy l) = true := by
  unfold State.flushCopy
  simp only
  split
  · exact memsOk_l2Use _ _ _ _ (memsOk_flush s l h)
  · exact memsOk_flush s l h

theorem memsOk_leaveL1 (s : State) (core line : Nat) (h : memsOk s = true) : memsOk (s.leaveL1 core line) = true := by
  unfold State.leaveL1
  split
  · exact h
  · split
    · exact h
    · exact memsOk_updCore _ _ _ (memsOk_flushCopy s _ h)

theorem memsOk_dropCopy (s : State) (core line : Nat) (h : memsOk s = true) : memsOk (s.dropCopy core line) = true := by
  unfold State.dropCopy
  exact iteInduction (motive := fun t => memsOk t = true) (fun _ => memsOk_pushConflicts _ _ (memsOk_leaveL1 _ _ _ h)) (fun _ => h)

theorem memsOk_invalidateHome (s : State) (ctx line : Nat) (e : Option Nat) (h : memsOk s = true) :
    memsOk (s.invalidateHome ctx line e) = true :=
  memsOk_foldl _ _ (fun s k h => memsOk_dropCopy s k line h) s h

theorem memsOk_writeBack (s : State) (core line : Nat) (h : memsOk s = true) : memsOk (s.writeBack core line) = true := by
  unfold State.writeBack
  split
  · exact h
  · split
    · exact h
    · rename_i l _
      have hi := memsOk_invalidateHome s l.ctx line (some core) h
      simp only
      split
      · split
        · exact memsOk_dropCopy _ _ _ hi
        · exact memsOk_updCore _ _ _ (memsOk_flushCopy _ _ hi)
      · exact h

theorem memsOk_evictCopy (s : State) (core line : Nat) (h : memsOk s = true) : memsOk (s.evictCopy core line) = true :=
  memsOk_dropCopy _ _ _ (memsOk_writeBack s core line h)

theorem memsOk_shrinkL1 (n : Nat) (s : State) (core : Nat) (h : memsOk s = true) : memsOk (s.shrinkL1 core n) = true := by
  induction n generalizing s with
  | zero => exact h
  | succ n ih =>
    unfold State.shrinkL1
    split
    · exact h
    · split
      · exact h
      · split
        · exact h
        · exact ih _ (memsOk_leaveL1 _ _ _ (memsOk_writeBack _ _ _ h))

theorem memsOk_notePeer (s : State) (core line : Nat) (h : memsOk s = true) : memsOk (s.notePeer core line) = true := by
  unfold State.notePeer
  split <;> exact h

theorem memsOk_ensure (s : State) (core ctx line : Nat) (ro : Bool) (h : memsOk s = true) :
    memsOk (s.ensure core ctx line ro) = true := by
  unfold State.ensure
  split
  · exact h
  · split
    · exact h
    · simp only
      apply memsOk_shrinkL1
      apply memsOk_updCore
      have hs : memsOk (match (if ro then s.peerCopy core ctx line else none) with
          | some l => ({ l with written := s.clock }, s)
          | none => ((⟨line, s.homeLine line, List.replicate 128 false, ctx, s.clock, s.clock, []⟩ : L1Line),
              s.l2Use ctx false line)).2 = true := by
        split
        · exact h
        · exact memsOk_l2Use _ _ _ _ h
      cases ro
      · exact hs
      · exact memsOk_notePeer _ _ _ hs

theorem memsOk_ensureAll (s : State) (core ctx : Nat) (ro : Bool) (l : List Nat) (h : memsOk s = true) :
    memsOk (s.ensureAll core ctx ro l) = true :=
  memsOk_foldl _ _ (fun s k h => memsOk_ensure s core ctx k ro h) s h

theorem memsOk_cleanCore (s : State) (core gid : Nat) (h : memsOk s = true) : memsOk (s.cleanCore core gid) = true := by
  unfold State.cleanCore
  split
  · exact h
  · exact memsOk_foldl _ _ (fun s k h => memsOk_writeBack s core k h) s h

theorem memsOk_dropForeign (s : State) (core : Nat) (h : memsOk s = true) : memsOk (s.dropForeign core) = true := by
  unfold State.dropForeign
  split
  · exact h
  · exact memsOk_updCore _ _ _ (memsOk_foldl _ _ (fun s k h => memsOk_evictCopy s core k h) s h)

theorem memsOk_release (s : State) (gid : Nat) (g : Group) (sc : Scope) (h : memsOk s = true) : memsOk (s.release gid g sc) = true := by
  unfold State.release; split
  · exact memsOk_cleanCore _ _ _ h
  · exact h

theorem memsOk_acquire (s : State) (g : Group) (sc : Scope) (h : memsOk s = true) : memsOk (s.acquire g sc) = true := by
  unfold State.acquire; split
  · exact memsOk_dropForeign _ _ h
  · exact h

/-! ### Writes of bytes -/

theorem memsOk_mark (s : State) (l : Loc) (h : memsOk s = true) : memsOk { s with mem := s.mem.mark l } = true := h

/-- A byte written at any level keeps every memory's form. -/
theorem memsOk_writeLoc (s : State) (core : Nat) (cached : Bool) (l : Loc) (b : Byte) (h : memsOk s = true) :
    memsOk (s.writeLoc core cached l b) = true := by
  cases l with
  | gva a => exact h
  | spa a =>
    simp only [State.writeLoc]
    split
    · exact memsOk_updCore _ _ _ h
    · rw [memsOk_iff] at h ⊢
      exact ⟨Mem.write_wf _ _ h.1, h.2⟩
  | priv k off =>
    rw [memsOk_iff] at h ⊢
    exact ⟨h.1, Table.all_set (fun m : Mem => m.wf) _ _ _ h.2.1 (Mem.write_wf _ _ (memOf_wf _ _ h.2.1)), h.2.2⟩
  | vreg g n ln k => exact memsOk_updGroup _ _ _ h
  | sreg g n k => exact memsOk_updGroup _ _ _ h
  | sram c t off =>
    exact memsOk_updCluster _ _ _ (memsOk_mark s _ h) (fun x hx =>
      Table.all_set (fun m : Mem => m.wf) _ _ _ hx (Mem.write_wf _ _ (memOf_wf _ _ hx)))
  | bank d k off =>
    exact memsOk_updDie _ _ _ (memsOk_mark s _ h) (fun x hx =>
      Table.all_set (fun m : Mem => m.wf) _ _ _ hx (Mem.write_wf _ _ (memOf_wf _ _ hx)))

theorem memsOk_writeList (s : State) (core : Nat) (cached : Bool) (l : List Loc) (b : List Byte) (h : memsOk s = true) :
    memsOk (s.writeList core cached l b) = true := by
  induction l generalizing s b with
  | nil => cases b <;> exact h
  | cons x t ih =>
    cases b with
    | nil => exact h
    | cons y u => exact ih _ u (memsOk_writeLoc s core cached x y h)

theorem memsOk_prepareHome (s : State) (core ctx : Nat) (own : Bool) (l : List Nat) (h : memsOk s = true) :
    memsOk (s.prepareHome core ctx own l) = true :=
  memsOk_foldl _ _ (fun s k h => by
    apply memsOk_l2Use
    apply memsOk_invalidateHome
    split
    · exact memsOk_noteSeen _ _ _ (memsOk_evictCopy _ _ _ h)
    · exact h) s h

theorem memsOk_writeBytes (s : State) (core ctx gid : Nat) (hint : Hint) (l : List Loc) (b : List Byte) (h : memsOk s = true) :
    memsOk (s.writeBytes core ctx gid hint l b) = true := by
  unfold State.writeBytes
  simp only
  split
  · exact memsOk_writeList _ _ _ _ _ (memsOk_prepareHome _ _ _ _ _ (memsOk_pushConflicts _ _ h))
  · exact memsOk_updCore _ _ _ (memsOk_writeList _ _ _ _ _ (memsOk_ensureAll _ _ _ _ _ (memsOk_pushConflicts _ _ h)))

theorem memsOk_writeHome (s : State) (core ctx gid : Nat) (own : Bool) (l : List Loc) (b : List Byte) (h : memsOk s = true) :
    memsOk (s.writeHome core ctx gid own l b) = true :=
  memsOk_writeList _ _ _ _ _ (memsOk_prepareHome _ _ _ _ _ (memsOk_pushConflicts _ _ h))

theorem memsOk_addHome (s : State) (core ctx gid : Nat) (l : List Loc) (x : Nat) (h : memsOk s = true) :
    memsOk (s.addHome core ctx gid l x) = true :=
  memsOk_writeHome _ _ _ _ _ _ _ (memsOk_prepareHome _ _ _ _ _ h)

theorem memsOk_poisonLine (s : State) (ctx : Nat) (x : Loc) (h : memsOk s = true) : memsOk (s.poisonLine ctx x) = true := by
  unfold State.poisonLine
  simp only
  split <;> exact h

theorem memsOk_touch (s : State) (core : Nat) (l : List Loc) (h : memsOk s = true) : memsOk (s.touch core l) = true := by
  unfold State.touch
  split
  · exact h
  · exact memsOk_foldl _ _ (fun s k h => memsOk_push s _ h) _ h

theorem memsOk_readBytes (s : State) (core ctx : Nat) (hint : Hint) (ro : Bool) (l : List Loc) (h : memsOk s = true) :
    memsOk (s.readBytes core ctx hint ro l).2 = true := by
  unfold State.readBytes
  simp only
  split
  · exact memsOk_l2Lines _ _ _ _ (memsOk_noteSeen _ _ _ h)
  · exact memsOk_ensureAll _ _ _ _ _ h

/-! ### Moves of engines -/

theorem memsOk_poisonFrom (s : State) (ctx : Nat) (l : List Loc) (h : memsOk s = true) : memsOk (s.poisonFrom ctx l) = true :=
  memsOk_foldl _ _ (fun s x h => memsOk_poisonLine s ctx x h) _ h

theorem memsOk_moveFrom (s : State) (core ctx gid : Nat) (bad : List (Nat × Nat × Nat)) (l : List Moving) (h : memsOk s = true) :
    memsOk (s.moveFrom core ctx gid bad l) = true := by
  induction l generalizing s bad with
  | nil => exact h
  | cons m t ih => exact ih _ _ (memsOk_poisonFrom _ _ _ (memsOk_writeHome s core ctx gid false m.dst _ h))

theorem memsOk_moveList (s : State) (core ctx gid : Nat) (l : List Moving) (h : memsOk s = true) :
    memsOk (s.moveList core ctx gid l) = true := memsOk_moveFrom _ _ _ _ _ _ h

theorem memsOk_moveWords (s : State) (core ctx gid : Nat) (l : List Moving) (h : memsOk s = true) :
    memsOk (s.moveWords core ctx gid l) = true := by
  unfold State.moveWords
  have h1 := memsOk_l2Lines _ ctx false (linesOf (l.flatMap (fun m => m.src.locs)))
    (memsOk_touch s noCore (l.flatMap (fun m => m.dst ++ m.src.locs)) h)
  simp only
  split
  · exact memsOk_moveList _ _ _ _ _ h1
  · exact memsOk_moveList _ _ _ _ _ h1

theorem memsOk_moveAll (s : State) (gid : Nat) (g : Group) (l : List Moving) (h : memsOk s = true) :
    memsOk (s.moveAll gid g l) = true := memsOk_updGroup _ _ _ (memsOk_moveWords _ _ _ _ _ h)

theorem memsOk_flushCore (s : State) (core : Nat) (p : Nat → Bool) (h : memsOk s = true) : memsOk (s.flushCore core p) = true := by
  unfold State.flushCore
  split
  · exact h
  · exact memsOk_foldl _ _ (fun s k h => memsOk_evictCopy _ core k (memsOk_writeBack s core k h)) s h

theorem memsOk_remapLeaf (s : State) (p : Page) (frame : Nat) (h : memsOk s = true) : memsOk (s.remapLeaf p frame) = true := by
  unfold State.remapLeaf
  split
  · exact h
  · split
    · exact h
    · split
      · rw [memsOk_iff] at h ⊢; exact ⟨Mem.writeNat_wf _ _ _ h.1, h.2⟩
      · exact h

theorem dropPriv_all (t : Table Mem) (gid : Nat) (h : t.all (fun e => e.2.wf) = true) :
    (dropPriv t gid).all (fun e => e.2.wf) = true := by
  simp only [dropPriv, List.all_eq_true, List.mem_filter] at h ⊢
  intro x hx
  exact h x hx.1

theorem intoSys_wf {sys : Mem} (bank : Mem) (base : Nat) (h : sys.wf = true) : (intoSys sys bank base).wf = true :=
  Mem.foldl_write_wf _ _ _ (Mem.filter_wf _ h)

theorem outOfSys_wf (sys : Mem) (base : Nat) : (outOfSys sys base).wf = true := Mem.foldl_write_wf _ _ _ rfl

theorem memsOk_storeBank (s : State) (ctx die slot bank : Nat) (h : memsOk s = true) :
    memsOk (s.storeBank ctx die slot bank) = true := by
  unfold State.storeBank
  split
  · rename_i d c hd _
    have hb : (memOf d.banks bank).wf = true := memOf_wf _ _
      (Table.get_of_all (fun x : Die => x.banks.all (fun e => e.2.wf)) _ _ _ ((memsOk_iff s).1 h).2.2.2.2.1 hd)
    have h1 := memsOk_updDie s die (fun d => { d with banks := d.banks.del bank }) h
      (fun x hx => Table.all_del (fun m : Mem => m.wf) _ _ hx)
    rw [memsOk_iff] at h1
    simp only
    split
    · rw [memsOk_iff]
      exact ⟨intoSys_wf _ _ ((memsOk_iff s).1 h).1, h1.2⟩
    · rw [memsOk_iff]
      exact ⟨h1.1, h1.2.1, Table.all_set (fun m : Mem => m.wf) _ _ _ h1.2.2.1 hb, h1.2.2.2⟩
  · exact h

theorem memsOk_loadBank (s : State) (ctx die slot bank : Nat) (h : memsOk s = true) :
    memsOk (s.loadBank ctx die slot bank) = true := by
  have hb := ((memsOk_iff s).1 h).2.2.1
  unfold State.loadBank
  split
  · exact h
  · simp only
    split
    · exact memsOk_updDie _ _ _ h (fun x hx => Table.all_set (fun m : Mem => m.wf) _ _ _ hx (outOfSys_wf _ _))
    · exact memsOk_updDie _ _ _ h (fun x hx => Table.all_set (fun m : Mem => m.wf) _ _ _ hx (memOf_wf _ _ hb))

end Sys2Proof.Machine
end

