-- ==== Sys2Proof/Laws/Ops.lean ====
section
/-! SUPPORT. What the frame of instruction forms answers, and what completing, waiting and taking a cause leave. -/

namespace Sys2Proof.Machine

open Sys2Proof

/-! ### The issuing fragment -/

theorem who_group {s : State} {k f : Nat} {w : Who} (h : s.who? k f = some w) :
    w.gid = k ∧ w.fid = f ∧ s.groups.get k = some w.g ∧ w.g.frag? f = some w.f := by
  unfold State.who? at h
  split at h
  · cases h
  · rename_i g hg
    split at h
    · cases h
    · rename_i fr hf
      cases h
      exact ⟨rfl, rfl, hg, hf⟩

theorem Issues.group {s : State} {w : Who} (h : Issues s w) : s.groups.get w.gid = some w.g :=
  (who_group h.2).2.2.1

theorem Issues.frag {s : State} {w : Who} (h : Issues s w) : w.g.frag? w.fid = some w.f := (who_group h.2).2.2.2

/-- An instruction form of the chosen fragment always answers a next state. -/
theorem run_of_issues {s : State} {w : Who} (h : Issues s w) (body : Who → Except Stop State) :
    run s body = .next (settle s w (body w)) := by
  unfold run
  rw [h.1]
  simp only [h.2]

theorem run_ok {s : State} {w : Who} {body : Who → Except Stop State} {t : State} (h : Issues s w) (hb : body w = .ok t) :
    run s body = .next t.endIssue := by rw [run_of_issues h, hb]; rfl

theorem run_cause {s : State} {w : Who} {body : Who → Except Stop State} {c : Nat} {tv : Option W64} (h : Issues s w)
    (hb : body w = .error (.cause c tv)) : run s body = .next (s.raisePrecise w c tv w.f.pc.addr).endIssue := by
  rw [run_of_issues h, hb]; rfl

theorem run_wait {s : State} {w : Who} {body : Who → Except Stop State} {x : Wait} {t : State} (h : Issues s w)
    (hb : body w = .error (.wait x t)) : run s body = .next (t.setWaiting w.gid w.fid x).endIssue := by
  rw [run_of_issues h, hb]; rfl

/-- Nothing but a missing fragment makes an instruction form fault, and none is ever refused. -/
theorem run_fault {s : State} {body : Who → Except Stop State} {e : Fault} (h : run s body = .fault e) : e = .noIssuer := by
  unfold run at h
  split at h
  · cases h; rfl
  · split at h
    · cases h; rfl
    · cases h

theorem run_not_refused (s : State) (body : Who → Except Stop State) (r : Refusal) : run s body ≠ .refused r := by
  unfold run
  split
  · simp
  · split <;> simp

/-! ### Completion -/

theorem goto_groups (s : State) (w : Who) (pc : Pc) (j : Bool) :
    (s.goto w pc j).groups = s.groups.upd w.gid (fun g =>
      { g.updFrag w.fid (fun f => { (f.arrive pc).issued with byTransfer := j })
        with retired := g.retired + 1, stalled := tickWindows g.stalled w.gid w.fid }) := rfl

@[simp] theorem goto_get_ne (s : State) (w : Who) (pc : Pc) (j : Bool) (k : Nat) (h : k ≠ w.gid) :
    (s.goto w pc j).groups.get k = s.groups.get k := by rw [goto_groups, Table.get_upd_ne _ _ _ _ h]

theorem goto_get_same {s : State} {w : Who} {g : Group} (h : s.groups.get w.gid = some g) (pc : Pc) (j : Bool) :
    (s.goto w pc j).groups.get w.gid = some
      { g.updFrag w.fid (fun f => { (f.arrive pc).issued with byTransfer := j })
        with retired := g.retired + 1, stalled := tickWindows g.stalled w.gid w.fid } := by
  rw [goto_groups, Table.get_upd_same, h]; rfl

theorem advance_eq (s : State) (w : Who) : s.advance w = s.goto w w.f.pc.next false := rfl

/-- Completion leaves every memory byte and every register as it stands. -/
theorem goto_readLoc (s : State) (w : Who) (pc : Pc) (j : Bool) (core : Nat) (x : Loc) :
    (s.goto w pc j).readLoc core x = s.readLoc core x := by
  cases x with
  | vreg g n l b =>
    simp only [State.readLoc]
    by_cases h : g = w.gid
    · subst h
      cases hg : s.groups.get w.gid with
      | none => rw [goto_groups, Table.get_upd_same, hg]; rfl
      | some y => rw [goto_get_same hg]; rfl
    · rw [goto_get_ne _ _ _ _ _ h]
  | sreg g n b =>
    simp only [State.readLoc]
    by_cases h : g = w.gid
    · subst h
      cases hg : s.groups.get w.gid with
      | none => rw [goto_groups, Table.get_upd_same, hg]; rfl
      | some y => rw [goto_get_same hg]; rfl
    · rw [goto_get_ne _ _ _ _ _ h]
  | _ => rfl

/-! ### Registers -/

@[simp] theorem Group.s?_setS_same (g : Group) (n : Nat) (x : W64) : (g.setS n x).s? n = x :=
  getD_setAt_same 0 g.s n x

theorem Group.s?_setS_ne (g : Group) (n k : Nat) (x : W64) (h : k ≠ n) : (g.setS n x).s? k = g.s? k :=
  getD_setAt_ne 0 g.s n k x h

@[simp] theorem Group.setS_v (g : Group) (n : Nat) (x : W64) : (g.setS n x).v = g.v := rfl
@[simp] theorem Group.setLanes_s (g : Group) (n : Nat) (m : W32) (x : Nat → W32) : (g.setLanes n m x).s = g.s := rfl

theorem rowOf_getD (f : Nat → W32) (l : Nat) (h : l < 32) : (rowOf f).getD l 0 = f l := by
  simp [rowOf, List.getD, h]

/-- A masked write of one vector register: the lanes of the mask take their values, everything else stays. -/
theorem Group.lane_setLanes (g : Group) (n k l : Nat) (m : W32) (x : Nat → W32) (h : l < 32) :
    (g.setLanes n m x).lane k l = if k = n ∧ laneIn m l = true then x l else g.lane k l := by
  unfold Group.setLanes Group.lane Group.row
  by_cases hk : k = n
  · subst hk
    simp only [getD_setAt_same, rowOf_getD _ _ h, true_and]
  · simp only [getD_setAt_ne _ _ _ _ _ hk, hk, false_and, if_false]

theorem updFrag_frags (g : Group) (fid : Nat) (h : Frag → Frag) :
    (g.updFrag fid h).frags = g.frags.map (fun f => if f.id == fid then h f else f) := rfl

end Sys2Proof.Machine
end

