-- ==== Sys2Proof/Laws/PerInstr.lean ====
section
/-! SUPPORT. One lemma per instruction: the form of each row agrees with the opcode map (R26, R37-R47). -/

namespace Sys2Proof.Laws.Format

open Sys2Proof

/-- An instruction form has fields, an FN of four bits and the format that the map of R37-R47 gives its OP; an event has neither
word nor form. -/
def Statement (i : Instr) : Prop :=
  match Instr.opFn i with
  | some p => fmtOf p.1 = (Instr.form i).map (·.fmt) ∧ p.2 < 16 ∧ (Instr.payload i).isSome = true
  | none => Instr.form i = none ∧ Instr.payload i = none

theorem nop : Statement .nop := ⟨rfl, by decide, rfl⟩
theorem bra (x : BArgs) : Statement (.bra x) := ⟨rfl, by decide, rfl⟩
theorem brc (fn : BrcFn) (x : BArgs) : Statement (.brc fn x) := by cases fn <;> exact ⟨rfl, by decide, rfl⟩
theorem brs (fn : BrsFn) (x : BArgs) : Statement (.brs fn x) := by cases fn <;> exact ⟨rfl, by decide, rfl⟩
theorem regang (x : Args) : Statement (.regang x) := ⟨rfl, by decide, rfl⟩
theorem mskip (x : Args) : Statement (.mskip x) := ⟨rfl, by decide, rfl⟩
theorem call (x : BArgs) : Statement (.call x) := ⟨rfl, by decide, rfl⟩
theorem ret (x : BArgs) : Statement (.ret x) := ⟨rfl, by decide, rfl⟩
theorem jmpi (x : BArgs) : Statement (.jmpi x) := ⟨rfl, by decide, rfl⟩
theorem djnz (x : BArgs) : Statement (.djnz x) := ⟨rfl, by decide, rfl⟩
theorem exit (x : Args) : Statement (.exit x) := ⟨rfl, by decide, rfl⟩
theorem yield (x : Args) : Statement (.yield x) := ⟨rfl, by decide, rfl⟩
theorem sadd (fn : SatFn) (x : Args) : Statement (.sadd fn x) := by cases fn <;> exact ⟨rfl, by decide, rfl⟩
theorem ssub (fn : SatFn) (x : Args) : Statement (.ssub fn x) := by cases fn <;> exact ⟨rfl, by decide, rfl⟩
theorem smul (x : Args) : Statement (.smul x) := ⟨rfl, by decide, rfl⟩
theorem smulh (fn : SignFn) (x : Args) : Statement (.smulh fn x) := by cases fn <;> exact ⟨rfl, by decide, rfl⟩
theorem sand (fn : LogicFn) (x : Args) : Statement (.sand fn x) := by cases fn <;> exact ⟨rfl, by decide, rfl⟩
theorem sor (fn : LogicFn) (x : Args) : Statement (.sor fn x) := by cases fn <;> exact ⟨rfl, by decide, rfl⟩
theorem sxor (fn : LogicFn) (x : Args) : Statement (.sxor fn x) := by cases fn <;> exact ⟨rfl, by decide, rfl⟩
theorem sshl (fn : ShlFn) (x : Args) : Statement (.sshl fn x) := by cases fn <;> exact ⟨rfl, by decide, rfl⟩
theorem sshr (fn : ShrFn) (x : Args) : Statement (.sshr fn x) := by cases fn <;> exact ⟨rfl, by decide, rfl⟩
theorem scmp (fn : CmpFn) (x : Args) : Statement (.scmp fn x) := by cases fn <;> exact ⟨rfl, by decide, rfl⟩
theorem ssel (x : Args) : Statement (.ssel x) := ⟨rfl, by decide, rfl⟩
theorem smov (fn : MovFn) (x : Args) : Statement (.smov fn x) := by cases fn <;> exact ⟨rfl, by decide, rfl⟩
theorem spopc (fn : PopcFn) (x : Args) : Statement (.spopc fn x) := by cases fn <;> exact ⟨rfl, by decide, rfl⟩
theorem sffs (fn : FfsFn) (x : Args) : Statement (.sffs fn x) := by cases fn <;> exact ⟨rfl, by decide, rfl⟩
theorem sminmax (fn : MinMaxFn) (x : Args) : Statement (.sminmax fn x) := by cases fn <;> exact ⟨rfl, by decide, rfl⟩
theorem sbit (fn : BitFn) (x : Args) : Statement (.sbit fn x) := by cases fn <;> exact ⟨rfl, by decide, rfl⟩
theorem vadd (fn : SatFn) (x : Args) : Statement (.vadd fn x) := by cases fn <;> exact ⟨rfl, by decide, rfl⟩
theorem vsub (fn : SatFn) (x : Args) : Statement (.vsub fn x) := by cases fn <;> exact ⟨rfl, by decide, rfl⟩
theorem vmul (x : Args) : Statement (.vmul x) := ⟨rfl, by decide, rfl⟩
theorem vmulh (fn : SignFn) (x : Args) : Statement (.vmulh fn x) := by cases fn <;> exact ⟨rfl, by decide, rfl⟩
theorem vmad (x : Args) : Statement (.vmad x) := ⟨rfl, by decide, rfl⟩
theorem vand (fn : LogicFn) (x : Args) : Statement (.vand fn x) := by cases fn <;> exact ⟨rfl, by decide, rfl⟩
theorem vor (fn : LogicFn) (x : Args) : Statement (.vor fn x) := by cases fn <;> exact ⟨rfl, by decide, rfl⟩
theorem vxor (fn : LogicFn) (x : Args) : Statement (.vxor fn x) := by cases fn <;> exact ⟨rfl, by decide, rfl⟩
theorem vshl (fn : ShlFn) (x : Args) : Statement (.vshl fn x) := by cases fn <;> exact ⟨rfl, by decide, rfl⟩
theorem vshr (fn : ShrFn) (x : Args) : Statement (.vshr fn x) := by cases fn <;> exact ⟨rfl, by decide, rfl⟩
theorem vmin (fn : SignFn) (x : Args) : Statement (.vmin fn x) := by cases fn <;> exact ⟨rfl, by decide, rfl⟩
theorem vmax (fn : SignFn) (x : Args) : Statement (.vmax fn x) := by cases fn <;> exact ⟨rfl, by decide, rfl⟩
theorem vabs (fn : AbsFn) (x : Args) : Statement (.vabs fn x) := by cases fn <;> exact ⟨rfl, by decide, rfl⟩
theorem vclz (x : Args) : Statement (.vclz x) := ⟨rfl, by decide, rfl⟩
theorem vpopc (x : Args) : Statement (.vpopc x) := ⟨rfl, by decide, rfl⟩
theorem vbfx (fn : BfxFn) (x : Args) : Statement (.vbfx fn x) := by cases fn <;> exact ⟨rfl, by decide, rfl⟩
theorem vmov (x : Args) : Statement (.vmov x) := ⟨rfl, by decide, rfl⟩
theorem vcmp (fn : CmpFn) (x : Args) : Statement (.vcmp fn x) := by cases fn <;> exact ⟨rfl, by decide, rfl⟩
theorem vfcmp (fn : FcmpFn) (x : Args) : Statement (.vfcmp fn x) := by cases fn <;> exact ⟨rfl, by decide, rfl⟩
theorem vsel (x : Args) : Statement (.vsel x) := ⟨rfl, by decide, rfl⟩
theorem vbcast (fn : BcastFn) (x : Args) : Statement (.vbcast fn x) := by cases fn <;> exact ⟨rfl, by decide, rfl⟩
theorem vshfl (fn : ShflFn) (x : Args) : Statement (.vshfl fn x) := by cases fn <;> exact ⟨rfl, by decide, rfl⟩
theorem vred (fn : RedFn) (x : Args) : Statement (.vred fn x) := by cases fn <;> exact ⟨rfl, by decide, rfl⟩
theorem vext (fn : ExtFn) (x : Args) : Statement (.vext fn x) := by cases fn <;> exact ⟨rfl, by decide, rfl⟩
theorem vfadd (fn : RndFn) (x : Args) : Statement (.vfadd fn x) := by cases fn <;> exact ⟨rfl, by decide, rfl⟩
theorem vfsub (fn : RndFn) (x : Args) : Statement (.vfsub fn x) := by cases fn <;> exact ⟨rfl, by decide, rfl⟩
theorem vfmul (fn : RndFn) (x : Args) : Statement (.vfmul fn x) := by cases fn <;> exact ⟨rfl, by decide, rfl⟩
theorem vfma (fn : RndFn) (x : Args) : Statement (.vfma fn x) := by cases fn <;> exact ⟨rfl, by decide, rfl⟩
theorem vfnma (fn : RndFn) (x : Args) : Statement (.vfnma fn x) := by cases fn <;> exact ⟨rfl, by decide, rfl⟩
theorem vfmin (fn : NanFn) (x : Args) : Statement (.vfmin fn x) := by cases fn <;> exact ⟨rfl, by decide, rfl⟩
theorem vfmax (fn : NanFn) (x : Args) : Statement (.vfmax fn x) := by cases fn <;> exact ⟨rfl, by decide, rfl⟩
theorem vfsgn (fn : SgnFn) (x : Args) : Statement (.vfsgn fn x) := by cases fn <;> exact ⟨rfl, by decide, rfl⟩
theorem vfrsqe (x : Args) : Statement (.vfrsqe x) := ⟨rfl, by decide, rfl⟩
theorem vfrcpe (x : Args) : Statement (.vfrcpe x) := ⟨rfl, by decide, rfl⟩
theorem vfex2e (x : Args) : Statement (.vfex2e x) := ⟨rfl, by decide, rfl⟩
theorem vflg2e (x : Args) : Statement (.vflg2e x) := ⟨rfl, by decide, rfl⟩
theorem vfscl (fn : RndFn) (x : Args) : Statement (.vfscl fn x) := by cases fn <;> exact ⟨rfl, by decide, rfl⟩
theorem vfxp (fn : XpFn) (x : Args) : Statement (.vfxp fn x) := by cases fn <;> exact ⟨rfl, by decide, rfl⟩
theorem vfcls (x : Args) : Statement (.vfcls x) := ⟨rfl, by decide, rfl⟩
theorem vfrnd (fn : RndFn) (x : Args) : Statement (.vfrnd fn x) := by cases fn <;> exact ⟨rfl, by decide, rfl⟩
theorem vcvt (fn : NumFmt) (x : Args) : Statement (.vcvt fn x) := by cases fn <;> exact ⟨rfl, by decide, rfl⟩
theorem vpack (fn : PackFn) (x : Args) : Statement (.vpack fn x) := by cases fn <;> exact ⟨rfl, by decide, rfl⟩
theorem vunpk (fn : PackFn) (x : Args) : Statement (.vunpk fn x) := by cases fn <;> exact ⟨rfl, by decide, rfl⟩
theorem vhfma (fn : HalfFn) (x : Args) : Statement (.vhfma fn x) := by cases fn <;> exact ⟨rfl, by decide, rfl⟩
theorem vdot4 (fn : Dot4Fn) (x : Args) : Statement (.vdot4 fn x) := by cases fn <;> exact ⟨rfl, by decide, rfl⟩
theorem vtsel (x : Args) : Statement (.vtsel x) := ⟨rfl, by decide, rfl⟩
theorem qscale (fn : BsFn) (x : Args) : Statement (.qscale fn x) := by cases fn <;> exact ⟨rfl, by decide, rfl⟩
theorem qcvt (fn : BsFn) (x : Args) : Statement (.qcvt fn x) := by cases fn <;> exact ⟨rfl, by decide, rfl⟩
theorem setfmt (fn : SetfmtFn) (x : Args) : Statement (.setfmt fn x) := by cases fn <;> exact ⟨rfl, by decide, rfl⟩
theorem getfmt (fn : GetfmtFn) (x : Args) : Statement (.getfmt fn x) := by cases fn <;> exact ⟨rfl, by decide, rfl⟩
theorem ld (w : Width) (x : MArgs) : Statement (.ld w x) := by cases w <;> exact ⟨rfl, by decide, rfl⟩
theorem st (w : Width) (x : MArgs) : Statement (.st w x) := by cases w <;> exact ⟨rfl, by decide, rfl⟩
theorem ldu (w : Width) (x : MArgs) : Statement (.ldu w x) := by cases w <;> exact ⟨rfl, by decide, rfl⟩
theorem lds (w : Width) (x : MArgs) : Statement (.lds w x) := by cases w <;> exact ⟨rfl, by decide, rfl⟩
theorem sts (w : Width) (x : MArgs) : Statement (.sts w x) := by cases w <;> exact ⟨rfl, by decide, rfl⟩
theorem pref (fn : PrefFn) (x : MArgs) : Statement (.pref fn x) := by cases fn <;> exact ⟨rfl, by decide, rfl⟩
theorem lea (x : MArgs) : Statement (.lea x) := ⟨rfl, by decide, rfl⟩
theorem atom (fn : AtomFn) (x : MArgs) : Statement (.atom fn x) := by cases fn <;> exact ⟨rfl, by decide, rfl⟩
theorem xchg (x : MArgs) : Statement (.xchg x) := ⟨rfl, by decide, rfl⟩
theorem cas (x : MArgs) : Statement (.cas x) := ⟨rfl, by decide, rfl⟩
theorem red (fn : AtomFn) (x : MArgs) : Statement (.red fn x) := by cases fn <;> exact ⟨rfl, by decide, rfl⟩
theorem satom (fn : SatomFn) (x : MArgs) : Statement (.satom fn x) := by cases fn <;> exact ⟨rfl, by decide, rfl⟩
theorem cpy (x : Args) : Statement (.cpy x) := ⟨rfl, by decide, rfl⟩
theorem cpy2d (x : Args) : Statement (.cpy2d x) := ⟨rfl, by decide, rfl⟩
theorem batch (x : Args) : Statement (.batch x) := ⟨rfl, by decide, rfl⟩
theorem waitb (x : Args) : Statement (.waitb x) := ⟨rfl, by decide, rfl⟩
theorem waitbTest (x : Args) : Statement (.waitbTest x) := ⟨rfl, by decide, rfl⟩
theorem gth (fn : GthFn) (x : Args) : Statement (.gth fn x) := by cases fn <;> exact ⟨rfl, by decide, rfl⟩
theorem sct (fn : GthFn) (x : Args) : Statement (.sct fn x) := by cases fn <;> exact ⟨rfl, by decide, rfl⟩
theorem coll (fn : CollFn) (x : Args) : Statement (.coll fn x) := by cases fn <;> exact ⟨rfl, by decide, rfl⟩
theorem rpush (fn : NbFn) (x : Args) : Statement (.rpush fn x) := by cases fn <;> exact ⟨rfl, by decide, rfl⟩
theorem rpop (fn : NbFn) (x : Args) : Statement (.rpop fn x) := by cases fn <;> exact ⟨rfl, by decide, rfl⟩
theorem mxloop (x : Args) : Statement (.mxloop x) := ⟨rfl, by decide, rfl⟩
theorem mxstep (x : Args) : Statement (.mxstep x) := ⟨rfl, by decide, rfl⟩
theorem mxzero (fn : MxzeroFn) (x : Args) : Statement (.mxzero fn x) := by cases fn <;> exact ⟨rfl, by decide, rfl⟩
theorem mxld (fn : MxldFn) (x : Args) : Statement (.mxld fn x) := by cases fn <;> exact ⟨rfl, by decide, rfl⟩
theorem mxst (fn : MxstFn) (x : Args) : Statement (.mxst fn x) := by cases fn <;> exact ⟨rfl, by decide, rfl⟩
theorem mxprogRd (x : Args) : Statement (.mxprogRd x) := ⟨rfl, by decide, rfl⟩
theorem mxprogWr (x : Args) : Statement (.mxprogWr x) := ⟨rfl, by decide, rfl⟩
theorem mxepi (fn : MxepiFn) (x : Args) : Statement (.mxepi fn x) := by cases fn <;> exact ⟨rfl, by decide, rfl⟩
theorem fence (fn : Scope) (x : Args) : Statement (.fence fn x) := by cases fn <;> exact ⟨rfl, by decide, rfl⟩
theorem bar (x : Args) : Statement (.bar x) := ⟨rfl, by decide, rfl⟩
theorem bara (x : Args) : Statement (.bara x) := ⟨rfl, by decide, rfl⟩
theorem barw (x : Args) : Statement (.barw x) := ⟨rfl, by decide, rfl⟩
theorem waitc (fn : WaitcFn) (x : Args) : Statement (.waitc fn x) := by cases fn <;> exact ⟨rfl, by decide, rfl⟩
theorem cmaint (op : MaintOp) (lvl : MaintLevel) (x : Args) :
    Statement (.cmaint op lvl x) := by cases op <;> cases lvl <;> exact ⟨rfl, by decide, rfl⟩
theorem mwait (fn : MwaitFn) (x : Args) : Statement (.mwait fn x) := by cases fn <;> exact ⟨rfl, by decide, rfl⟩
theorem enq (fn : NbFn) (x : Args) : Statement (.enq fn x) := by cases fn <;> exact ⟨rfl, by decide, rfl⟩
theorem trig (x : Args) : Statement (.trig x) := ⟨rfl, by decide, rfl⟩
theorem join (fn : NbFn) (x : Args) : Statement (.join fn x) := by cases fn <;> exact ⟨rfl, by decide, rfl⟩
theorem grow (fn : NbFn) (x : Args) : Statement (.grow fn x) := by cases fn <;> exact ⟨rfl, by decide, rfl⟩
theorem shrink (x : Args) : Statement (.shrink x) := ⟨rfl, by decide, rfl⟩
theorem tryOpen (x : Args) : Statement (.tryOpen x) := ⟨rfl, by decide, rfl⟩
theorem commit (x : Args) : Statement (.commit x) := ⟨rfl, by decide, rfl⟩
theorem abort (x : Args) : Statement (.abort x) := ⟨rfl, by decide, rfl⟩
theorem qctlCnt (x : Args) : Statement (.qctlCnt x) := ⟨rfl, by decide, rfl⟩
theorem qctlRst (x : Args) : Statement (.qctlRst x) := ⟨rfl, by decide, rfl⟩
theorem bid (cls : MktClass) (x : Args) : Statement (.bid cls x) := by cases cls <;> exact ⟨rfl, by decide, rfl⟩
theorem bidrd (cls : MktClass) (x : Args) : Statement (.bidrd cls x) := by cases cls <;> exact ⟨rfl, by decide, rfl⟩
theorem lease (cls : MktClass) (x : Args) : Statement (.lease cls x) := by cases cls <;> exact ⟨rfl, by decide, rfl⟩
theorem mighintOn (x : Args) : Statement (.mighintOn x) := ⟨rfl, by decide, rfl⟩
theorem mighintOff (x : Args) : Statement (.mighintOff x) := ⟨rfl, by decide, rfl⟩
theorem trap (x : Args) : Statement (.trap x) := ⟨rfl, by decide, rfl⟩
theorem idemOn (x : Args) : Statement (.idemOn x) := ⟨rfl, by decide, rfl⟩
theorem idemOff (x : Args) : Statement (.idemOff x) := ⟨rfl, by decide, rfl⟩
theorem hret (x : Args) : Statement (.hret x) := ⟨rfl, by decide, rfl⟩
theorem ctlr (x : Args) : Statement (.ctlr x) := ⟨rfl, by decide, rfl⟩
theorem ctlw (fn : CtlwFn) (x : Args) : Statement (.ctlw fn x) := by cases fn <;> exact ⟨rfl, by decide, rfl⟩
theorem bkpt (x : Args) : Statement (.bkpt x) := ⟨rfl, by decide, rfl⟩
theorem svc (x : Args) : Statement (.svc x) := ⟨rfl, by decide, rfl⟩
theorem fetchCheckFail (g f : Nat) : Statement (.fetchCheckFail g f) := ⟨rfl, rfl⟩
theorem conflict (g : Nat) : Statement (.conflict g) := ⟨rfl, rfl⟩
theorem queueWaitComplete (g f : Nat) : Statement (.queueWaitComplete g f) := ⟨rfl, rfl⟩
theorem queueDeadlock (g : Nat) : Statement (.queueDeadlock g) := ⟨rfl, rfl⟩
theorem regangJoin (g rec : Nat) : Statement (.regangJoin g rec) := ⟨rfl, rfl⟩
theorem parkedSlicesResume (g f : Nat) : Statement (.parkedSlicesResume g f) := ⟨rfl, rfl⟩
theorem barrierPhaseComplete (team bar : Nat) : Statement (.barrierPhaseComplete team bar) := ⟨rfl, rfl⟩
theorem barrierDeadlock (team : Nat) : Statement (.barrierDeadlock team) := ⟨rfl, rfl⟩
theorem growGrant (core octet : Nat) : Statement (.growGrant core octet) := ⟨rfl, rfl⟩
theorem yieldEnd (g f : Nat) : Statement (.yieldEnd g f) := ⟨rfl, rfl⟩
theorem mwaitWake (g f : Nat) : Statement (.mwaitWake g f) := ⟨rfl, rfl⟩
theorem mwaitTimeout (g f : Nat) : Statement (.mwaitTimeout g f) := ⟨rfl, rfl⟩
theorem waitcSatisfied (g f : Nat) : Statement (.waitcSatisfied g f) := ⟨rfl, rfl⟩
theorem joinWake (g f : Nat) : Statement (.joinWake g f) := ⟨rfl, rfl⟩
theorem groupLeavesCore (g : Nat) : Statement (.groupLeavesCore g) := ⟨rfl, rfl⟩
theorem fragmentUrgent (g f : Nat) : Statement (.fragmentUrgent g f) := ⟨rfl, rfl⟩
theorem issueStart (core : Nat) (side : Side) : Statement (.issueStart core side) := ⟨rfl, rfl⟩
theorem sideLogReplay (core : Nat) : Statement (.sideLogReplay core) := ⟨rfl, rfl⟩
theorem heldAccessResume (op : Nat) : Statement (.heldAccessResume op) := ⟨rfl, rfl⟩
theorem l1WritebackTimeout (core line : Nat) : Statement (.l1WritebackTimeout core line) := ⟨rfl, rfl⟩
theorem l1CleanCopyExpiry (core line : Nat) : Statement (.l1CleanCopyExpiry core line) := ⟨rfl, rfl⟩
theorem copyBatchComplete (g batch : Nat) : Statement (.copyBatchComplete g batch) := ⟨rfl, rfl⟩
theorem reductionGenerationComplete (cluster task dest : Nat) :
    Statement (.reductionGenerationComplete cluster task dest) := ⟨rfl, rfl⟩
theorem networkEntryPerformed (g : Nat) : Statement (.networkEntryPerformed g) := ⟨rfl, rfl⟩
theorem gatherComplete (g : Nat) : Statement (.gatherComplete g) := ⟨rfl, rfl⟩
theorem collGenerationComplete (coll : Nat) : Statement (.collGenerationComplete coll) := ⟨rfl, rfl⟩
theorem ringWaitWake (g f : Nat) : Statement (.ringWaitWake g f) := ⟨rfl, rfl⟩
theorem engineOperationRefused (g op : Nat) (code : Nat) (addr : W64) :
    Statement (.engineOperationRefused g op code addr) := ⟨rfl, rfl⟩
theorem matrixFormComplete (g : Nat) : Statement (.matrixFormComplete g) := ⟨rfl, rfl⟩
theorem dependenceMet (task k : Nat) : Statement (.dependenceMet task k) := ⟨rfl, rfl⟩
theorem placementRound (ctx : Nat) : Statement (.placementRound ctx) := ⟨rfl, rfl⟩
theorem candidateAged (ctx cand : Nat) : Statement (.candidateAged ctx cand) := ⟨rfl, rfl⟩
theorem candidateNoRegion (ctx cand : Nat) : Statement (.candidateNoRegion ctx cand) := ⟨rfl, rfl⟩
theorem teamSwapOut (team : Nat) : Statement (.teamSwapOut team) := ⟨rfl, rfl⟩
theorem teamSwapIn (team : Nat) : Statement (.teamSwapIn team) := ⟨rfl, rfl⟩
theorem triggerPoint (task : Nat) : Statement (.triggerPoint task) := ⟨rfl, rfl⟩
theorem edgeFlushEnd (edge : Nat) : Statement (.edgeFlushEnd edge) := ⟨rfl, rfl⟩
theorem commandComplete (cmd : Nat) : Statement (.commandComplete cmd) := ⟨rfl, rfl⟩
theorem pktNop (vq : Nat) : Statement (.pktNop vq) := ⟨rfl, rfl⟩
theorem pktLaunch (vq : Nat) : Statement (.pktLaunch vq) := ⟨rfl, rfl⟩
theorem pktWaitctr (vq : Nat) : Statement (.pktWaitctr vq) := ⟨rfl, rfl⟩
theorem pktStore64 (vq : Nat) : Statement (.pktStore64 vq) := ⟨rfl, rfl⟩
theorem pktAdd64 (vq : Nat) : Statement (.pktAdd64 vq) := ⟨rfl, rfl⟩
theorem pktDrain (vq : Nat) : Statement (.pktDrain vq) := ⟨rfl, rfl⟩
theorem queueMap (vq : Nat) : Statement (.queueMap vq) := ⟨rfl, rfl⟩
theorem queueUnmap (vq : Nat) : Statement (.queueUnmap vq) := ⟨rfl, rfl⟩
theorem queueTimesliceExpiry (vq : Nat) : Statement (.queueTimesliceExpiry vq) := ⟨rfl, rfl⟩
theorem doorbell (fr : Frame) (vq : Nat) (seq : W32) (tail : W64) : Statement (.doorbell fr vq seq tail) := ⟨rfl, rfl⟩
theorem regrd (fr : Frame) (vi : Nat) (seq : W32) (off : W64) : Statement (.regrd fr vi seq off) := ⟨rfl, rfl⟩
theorem regwr (fr : Frame) (vi : Nat) (seq : W32) (off val : W64) : Statement (.regwr fr vi seq off val) := ⟨rfl, rfl⟩
theorem qcbWrite (fr : Frame) (vi : Nat) (seq : W32) (q : Nat) (val : W64) : Statement (.qcbWrite fr vi seq q val) := ⟨rfl, rfl⟩
theorem qcmdEnable (fr : Frame) (vi : Nat) (seq : W32) (q : Nat) : Statement (.qcmdEnable fr vi seq q) := ⟨rfl, rfl⟩
theorem qcmdDisable (fr : Frame) (vi : Nat) (seq : W32) (q : Nat) : Statement (.qcmdDisable fr vi seq q) := ⟨rfl, rfl⟩
theorem qcmdClearStop (fr : Frame) (vi : Nat) (seq : W32) (q : Nat) : Statement (.qcmdClearStop fr vi seq q) := ⟨rfl, rfl⟩
theorem rdmaWrite (peer : RdmaPeer) (addr : W64) (data : List Byte) : Statement (.rdmaWrite peer addr data) := ⟨rfl, rfl⟩
theorem rdmaRead (peer : RdmaPeer) (addr : W64) (n : Nat) : Statement (.rdmaRead peer addr n) := ⟨rfl, rfl⟩
theorem rdmaAtomicRefused (peer : RdmaPeer) (addr : W64) : Statement (.rdmaAtomicRefused peer addr) := ⟨rfl, rfl⟩
theorem gatedDomainWake (dom : Nat) : Statement (.gatedDomainWake dom) := ⟨rfl, rfl⟩
theorem priceTableReceive (pkg ival : Nat) (prices : List W64) (unsold : List Nat) :
    Statement (.priceTableReceive pkg ival prices unsold) := ⟨rfl, rfl⟩
theorem contextMigrate (ctx : Nat) : Statement (.contextMigrate ctx) := ⟨rfl, rfl⟩
theorem migrationAccept (about : Nat) (news : PodNews) : Statement (.migrationAccept about news) := ⟨rfl, rfl⟩
theorem pageMoveStart (page : Nat) (far : Bool) (die : Nat) (frame : W64) :
    Statement (.pageMoveStart page far die frame) := ⟨rfl, rfl⟩
theorem pageMoveComplete (page : Nat) : Statement (.pageMoveComplete page) := ⟨rfl, rfl⟩
theorem pageEviction (die : Nat) : Statement (.pageEviction die) := ⟨rfl, rfl⟩
theorem farAccessPromotion (page : Nat) : Statement (.farAccessPromotion page) := ⟨rfl, rfl⟩
theorem channelRetire (die stack chan : Nat) : Statement (.channelRetire die stack chan) := ⟨rfl, rfl⟩
theorem channelRebuildComplete (die stack chan : Nat) : Statement (.channelRebuildComplete die stack chan) := ⟨rfl, rfl⟩
theorem scrubVisit (line : Nat) (res : ScrubResult) : Statement (.scrubVisit line res) := ⟨rfl, rfl⟩
theorem sliceRetire (die slice : Nat) (readable : Bool) : Statement (.sliceRetire die slice readable) := ⟨rfl, rfl⟩
theorem linkFailure (die router port : Nat) : Statement (.linkFailure die router port) := ⟨rfl, rfl⟩
theorem packetDrop (loss : PacketLoss) : Statement (.packetDrop loss) := ⟨rfl, rfl⟩
theorem packetResend (op : Nat) : Statement (.packetResend op) := ⟨rfl, rfl⟩
theorem destinationGivenUp (pkg : Nat) : Statement (.destinationGivenUp pkg) := ⟨rfl, rfl⟩
theorem lateTransitionReplay (core pipe : Nat) : Statement (.lateTransitionReplay core pipe) := ⟨rfl, rfl⟩
theorem pipeRetire (core pipe : Nat) : Statement (.pipeRetire core pipe) := ⟨rfl, rfl⟩
theorem idemRestart (g : Nat) (e : HwError) : Statement (.idemRestart g e) := ⟨rfl, rfl⟩
theorem restartLimitMove (g : Nat) (e : HwError) : Statement (.restartLimitMove g e) := ⟨rfl, rfl⟩
theorem coreTestComplete (core : Nat) (pass : Bool) : Statement (.coreTestComplete core pass) := ⟨rfl, rfl⟩
theorem preemptDrain (team : Nat) : Statement (.preemptDrain team) := ⟨rfl, rfl⟩
theorem drainTimeout (team : Nat) : Statement (.drainTimeout team) := ⟨rfl, rfl⟩
theorem preemptFlushRestart (team : Nat) : Statement (.preemptFlushRestart team) := ⟨rfl, rfl⟩
theorem preemptSave (team : Nat) (why : SaveReason) : Statement (.preemptSave team why) := ⟨rfl, rfl⟩
theorem contextRestore (team : Nat) : Statement (.contextRestore team) := ⟨rfl, rfl⟩
theorem mread (msg : MgmtMsg) (obj : Nat) (off : W64) (len : Nat) : Statement (.mread msg obj off len) := ⟨rfl, rfl⟩
theorem mwrite (msg : MgmtMsg) (obj : Nat) (off : W64) (data : List Byte) : Statement (.mwrite msg obj off data) := ⟨rfl, rfl⟩
theorem applyStagedPlan (msg : MgmtMsg) (die : Nat) : Statement (.applyStagedPlan msg die) := ⟨rfl, rfl⟩
theorem invalidateTranslations (msg : MgmtMsg) (ctx stage : Nat) (base len : W64) :
    Statement (.invalidateTranslations msg ctx stage base len) := ⟨rfl, rfl⟩
theorem resolveRetry (msg : MgmtMsg) (id : Nat) : Statement (.resolveRetry msg id) := ⟨rfl, rfl⟩
theorem resolveRefuse (msg : MgmtMsg) (id : Nat) : Statement (.resolveRefuse msg id) := ⟨rfl, rfl⟩
theorem resolveDone (msg : MgmtMsg) (id : Nat) : Statement (.resolveDone msg id) := ⟨rfl, rfl⟩
theorem resolveAcknowledge (msg : MgmtMsg) (id : Nat) : Statement (.resolveAcknowledge msg id) := ⟨rfl, rfl⟩
theorem preemptTeam (msg : MgmtMsg) (ctx die cluster core slot : Nat) :
    Statement (.preemptTeam msg ctx die cluster core slot) := ⟨rfl, rfl⟩
theorem resumeStoppedGroup (msg : MgmtMsg) (ctx die cluster core slot : Nat) :
    Statement (.resumeStoppedGroup msg ctx die cluster core slot) := ⟨rfl, rfl⟩
theorem endStoppedGroup (msg : MgmtMsg) (ctx die cluster core slot : Nat) :
    Statement (.endStoppedGroup msg ctx die cluster core slot) := ⟨rfl, rfl⟩
theorem verifyFirmware (msg : MgmtMsg) : Statement (.verifyFirmware msg) := ⟨rfl, rfl⟩
theorem attestationReport (msg : MgmtMsg) (vi : Nat) (nonce : W64) : Statement (.attestationReport msg vi nonce) := ⟨rfl, rfl⟩
theorem packageReset (msg : MgmtMsg) : Statement (.packageReset msg) := ⟨rfl, rfl⟩
theorem longLatencyRetirement (op : Nat) : Statement (.longLatencyRetirement op) := ⟨rfl, rfl⟩
theorem powerGating (dom : Nat) : Statement (.powerGating dom) := ⟨rfl, rfl⟩
theorem thermalGateRelease (level : Nat) : Statement (.thermalGateRelease level) := ⟨rfl, rfl⟩
theorem hostRdmaHoldExpiry (id : Nat) : Statement (.hostRdmaHoldExpiry id) := ⟨rfl, rfl⟩
theorem lateFault : Statement .lateFault := ⟨rfl, rfl⟩
theorem cpPass : Statement .cpPass := ⟨rfl, rfl⟩
theorem cpFirmwareReload : Statement .cpFirmwareReload := ⟨rfl, rfl⟩
theorem intervalStart : Statement .intervalStart := ⟨rfl, rfl⟩
theorem bidSnapshot : Statement .bidSnapshot := ⟨rfl, rfl⟩
theorem pricePublication : Statement .pricePublication := ⟨rfl, rfl⟩
theorem releaseWindow : Statement .releaseWindow := ⟨rfl, rfl⟩
theorem powerOnReset : Statement .powerOnReset := ⟨rfl, rfl⟩
theorem thermalGateHalf : Statement .thermalGateHalf := ⟨rfl, rfl⟩
theorem thermalGateSevenEighths : Statement .thermalGateSevenEighths := ⟨rfl, rfl⟩
theorem thermalShutdown : Statement .thermalShutdown := ⟨rfl, rfl⟩

end Sys2Proof.Laws.Format
end

