-- ==== Sys2Proof/Laws/Stores.lean ====
section
/-! SUPPORT. The shared operations over groups and causes change no memory, cluster, die or task, and keep the trap queue within
its entries; so does the end of every instruction form whose body does. -/

namespace Sys2Proof.Machine

open Sys2Proof

/-- The memories, clusters, dies and tasks are the same. -/
def SameStores (s t : State) : Prop :=
  t.mem = s.mem ∧ t.clusters = s.clusters ∧ t.dies = s.dies ∧ t.tasks = s.tasks

theorem SameStores.rfl (s : State) : SameStores s s := ⟨.refl _, .refl _, .refl _, .refl _⟩

theorem SameStores.trans {s t u : State} (h : SameStores s t) (k : SameStores t u) : SameStores s u :=
  ⟨k.1.trans h.1, k.2.1.trans h.2.1, k.2.2.1.trans h.2.2.1, k.2.2.2.trans h.2.2.2⟩

theorem SameStores.memsOk {s t : State} (h : SameStores s t) (k : memsOk s = true) : memsOk t = true :=
  memsOk_of_eq k (by rw [h.1]) (by rw [h.1]) (by rw [h.1]) h.2.1 h.2.2.1 h.2.2.2

/-! ### The trap queue (R450) -/

theorem trapsOk_iff (s : State) : trapsOk s = true ↔ s.mgmt.traps.length ≤ 504 ∧ s.mgmt.fatals.length ≤ 8 := by
  simp [trapsOk]

theorem addReplayable_some {m n : Mgmt} {r : TrapRec} (h : m.addReplayable r = some n) :
    m.traps.length < 504 ∧ n.traps = m.traps ++ [m.stamp r] ∧ n.fatals = m.fatals := by
  unfold Mgmt.addReplayable at h
  split at h
  · cases h; exact ⟨‹_›, .refl _, .refl _⟩
  · cases h

theorem addReplayable_bound {m n : Mgmt} {r : TrapRec} (h : m.addReplayable r = some n) (k : m.fatals.length ≤ 8) :
    n.traps.length ≤ 504 ∧ n.fatals.length ≤ 8 := by
  obtain ⟨a, b, c⟩ := addReplayable_some h
  rw [b, c]; simp; omega

theorem addInformation_bound {m : Mgmt} (r : TrapRec) (h : m.traps.length ≤ 504 ∧ m.fatals.length ≤ 8) :
    (m.addInformation r).traps.length ≤ 504 ∧ (m.addInformation r).fatals.length ≤ 8 := by
  unfold Mgmt.addInformation
  split
  · exact addReplayable_bound ‹_› h.2
  · exact h

theorem countDropped_length (l : List TrapRec) : (countDropped l).length = l.length := by
  induction l with
  | nil => rfl
  | cons x t ih => cases t <;> simp_all [countDropped]

theorem addFatal_bound {m : Mgmt} (r : TrapRec) (h : m.traps.length ≤ 504 ∧ m.fatals.length ≤ 8) :
    (m.addFatal r).traps.length ≤ 504 ∧ (m.addFatal r).fatals.length ≤ 8 := by
  unfold Mgmt.addFatal
  split
  · exact addReplayable_bound ‹_› h.2
  · split
    · simp; omega
    · split
      · simp; omega
      · simpa [countDropped_length] using h

theorem trapsOk_of_mgmt {s t : State} (h : trapsOk s = true) (k : t.mgmt = s.mgmt) : trapsOk t = true := by
  unfold trapsOk at h ⊢; rw [k]; exact h

theorem trapsOk_fatal (s : State) (r : TrapRec) (h : trapsOk s = true) : trapsOk (s.fatal r) = true := by
  rw [trapsOk_iff] at h ⊢; exact addFatal_bound r h

/-! ### What both invariants need of an operation -/

/-- An operation that changes no store and keeps the trap queue within its entries. -/
def Mild (s t : State) : Prop := SameStores s t ∧ (trapsOk s = true → trapsOk t = true)

theorem Mild.rfl (s : State) : Mild s s := ⟨.rfl s, id⟩

theorem Mild.trans {s t u : State} (h : Mild s t) (k : Mild t u) : Mild s u := ⟨h.1.trans k.1, fun x => k.2 (h.2 x)⟩

theorem Mild.memsOk {s t : State} (h : Mild s t) (k : memsOk s = true) : memsOk t = true := h.1.memsOk k

theorem mild_of_eq {s t : State} (h1 : t.mem = s.mem) (h2 : t.clusters = s.clusters) (h3 : t.dies = s.dies) (h4 : t.tasks = s.tasks)
    (h5 : t.mgmt = s.mgmt) : Mild s t := ⟨⟨h1, h2, h3, h4⟩, fun h => trapsOk_of_mgmt h h5⟩

theorem mild_ops (s : State) (o : List MemOp) : Mild s { s with ops := o } := mild_of_eq rfl rfl rfl rfl rfl

theorem mild_updGroup (s : State) (k : Nat) (f : Group → Group) : Mild s (s.updGroup k f) :=
  ⟨⟨.refl _, .refl _, .refl _, .refl _⟩, id⟩
theorem mild_setGroup (s : State) (k : Nat) (g : Group) : Mild s (s.setGroup k g) := ⟨⟨.refl _, .refl _, .refl _, .refl _⟩, id⟩
theorem mild_updTeam (s : State) (k : Nat) (f : Team → Team) : Mild s (s.updTeam k f) :=
  ⟨⟨.refl _, .refl _, .refl _, .refl _⟩, id⟩
theorem mild_updCore (s : State) (k : Nat) (f : Core → Core) : Mild s (s.updCore k f) :=
  ⟨⟨.refl _, .refl _, .refl _, .refl _⟩, id⟩
theorem mild_updCtx (s : State) (k : Nat) (f : Ctx → Ctx) : Mild s (s.updCtx k f) := ⟨⟨.refl _, .refl _, .refl _, .refl _⟩, id⟩
theorem mild_updHalf (s : State) (k : Nat) (f : Half → Half) : Mild s (s.updHalf k f) :=
  ⟨⟨.refl _, .refl _, .refl _, .refl _⟩, id⟩
theorem mild_updFrag (s : State) (k f : Nat) (h : Frag → Frag) : Mild s (s.updFrag k f h) := mild_updGroup _ _ _
theorem mild_setStatus (s : State) (k f : Nat) (x : Status) : Mild s (s.setStatus k f x) := mild_updFrag _ _ _ _
theorem mild_wake (s : State) (k f : Nat) : Mild s (s.wake k f) := mild_setStatus _ _ _ _
theorem mild_push (s : State) (i : Instr) : Mild s (s.push i) := ⟨⟨.refl _, .refl _, .refl _, .refl _⟩, id⟩
theorem mild_goto (s : State) (w : Who) (pc : Pc) (j : Bool) : Mild s (s.goto w pc j) := ⟨⟨.refl _, .refl _, .refl _, .refl _⟩, id⟩
theorem mild_advance (s : State) (w : Who) : Mild s (s.advance w) := mild_goto _ _ _ _
theorem mild_disarm (s : State) (w : Who) : Mild s (s.disarm w) := mild_updGroup _ _ _
theorem mild_spoil (s : State) (w : Who) : Mild s (s.spoil w) := (mild_disarm s w).trans (mild_updTeam _ _ _)
theorem mild_setWaiting (s : State) (k f : Nat) (x : Wait) : Mild s (s.setWaiting k f x) := mild_updFrag _ _ _ _
theorem mild_endIssue (s : State) : Mild s s.endIssue := ⟨⟨.refl _, .refl _, .refl _, .refl _⟩, id⟩
theorem mild_fatal (s : State) (r : TrapRec) : Mild s (s.fatal r) := ⟨⟨.refl _, .refl _, .refl _, .refl _⟩, trapsOk_fatal s r⟩

theorem mild_orFree (s : State) (v : Option W64) : Mild s (s.orFree v).2 := by
  cases v <;> exact ⟨⟨.refl _, .refl _, .refl _, .refl _⟩, id⟩

theorem mild_foldl {α : Type} (l : List α) (f : State → α → State) (hf : ∀ s a, Mild s (f s a)) (s : State) :
    Mild s (l.foldl f s) := by
  induction l generalizing s with
  | nil => exact .rfl s
  | cons a t ih => exact (hf s a).trans (ih _)

theorem mild_leaveWaits (s : State) (k : Nat) (p : Nat → Bool) : Mild s (s.leaveWaits k p) := by
  unfold State.leaveWaits
  split
  · exact .rfl s
  · simp only
    have h := fun (l : List RingWait) (s : State) => mild_foldl l (fun s r => s.push (.ringWaitWake r.gid r.fid)) (fun s r => mild_push s _) s
    have h1 := fun l x => (mild_of_eq (s := s) (t := { s with rings := x }) rfl rfl rfl rfl rfl).trans (h l _)
    exact iteInduction (motive := fun t => Mild s t)
      (fun _ => (((h1 _ _).trans (mild_updCore _ _ _)).trans (mild_updTeam _ _ _)).trans (mild_push _ _))
      (fun _ => ((h1 _ _).trans (mild_updCore _ _ _)).trans (mild_updTeam _ _ _))

theorem mild_dropUrgent (s : State) (k : Nat) (p : Nat → Bool) : Mild s (s.dropUrgent k p) := by
  unfold State.dropUrgent
  split
  · exact .rfl s
  · exact mild_updCore _ _ _

theorem mild_opGone (s : State) (core gid : Nat) : Mild s (s.opGone core gid) := by
  unfold State.opGone
  simp only
  have h := fun l : List (Nat × Nat) => mild_foldl l (fun s x => s.wake x.1 x.2) (fun s x => mild_wake s _ _) s
  split
  · split
    · exact (h _).trans (mild_push _ _)
    · exact h _
  · exact h _

theorem mild_giveBack (s : State) (o : MemOp) : Mild s (s.giveBack o) := by
  unfold State.giveBack
  split
  · exact .rfl s
  · exact mild_updGroup _ _ _

theorem mild_dropWaiting (s : State) (gid fid : Nat) : Mild s (s.dropWaiting gid fid) := by
  unfold State.dropWaiting
  simp only
  split
  · exact .rfl s
  · exact ((mild_giveBack s _).trans (mild_ops _ _)).trans (mild_opGone _ _ _)

/-- Taking a cause changes no store (R437-R440). -/
theorem mild_deliver (s : State) (gid fid code : Nat) (b : Bool) (epc tval : W64) :
    Mild s (s.deliver gid fid code b epc tval) := by
  unfold State.deliver
  split
  · exact .rfl s
  · split
    · exact mild_setGroup _ _ _
    · split
      · exact (((mild_setGroup _ _ _).trans (mild_leaveWaits _ _ _)).trans (mild_dropUrgent _ _ _)).trans
          (mild_dropWaiting _ _ _)
      · exact ((((mild_setGroup _ _ _).trans (mild_leaveWaits _ _ _)).trans (mild_dropUrgent _ _ _)).trans
          (mild_dropWaiting _ _ _)).trans (mild_fatal _ _)

theorem mild_deliverBobbin (s : State) (gid : Nat) (g : Group) (code : Nat) (tval : W64) :
    Mild s (s.deliverBobbin gid g code tval) := by
  unfold State.deliverBobbin
  split
  · exact .rfl s
  · split
    · exact .rfl s
    · split
      · exact (mild_setGroup _ _ _).trans (mild_dropUrgent _ _ _)
      · split
        · exact .rfl s
        · exact ((mild_setGroup _ _ _).trans (mild_dropUrgent _ _ _)).trans (mild_deliver _ _ _ _ _ _ _)

theorem mild_raiseIn (s : State) (gid fid code : Nat) (epc tval : W64) : Mild s (s.raiseIn gid fid code epc tval) := by
  unfold State.raiseIn
  split
  · exact .rfl s
  · split
    · exact mild_deliverBobbin _ _ _ _ _
    · exact mild_deliver _ _ _ _ _ _ _

theorem mild_raiseLate (s : State) (w : Who) (code : Nat) (tval : Option W64) : Mild s (s.raiseLate w code tval) :=
  (mild_orFree s tval).trans (mild_raiseIn _ _ _ _ _ _)

theorem mild_freeBlocks (s : State) (core octet n : Nat) : Mild s (s.freeBlocks core octet n) :=
  (mild_updCore _ _ _).trans (mild_push _ _)

/-- Taking the next pending cause changes groups only (R439). -/
theorem mild_takePending {s t : State} {gid : Nat} {c : Nat} {tv : W64} {b : Bool} (h : s.takePending gid = some (c, tv, b, t)) :
    Mild s t := by
  unfold State.takePending at h
  repeat' split at h
  all_goals first
    | (obtain ⟨-, -, -, rfl⟩ : _ ∧ _ ∧ _ ∧ _ = t := by simpa using h
       exact mild_setGroup _ _ _)
    | cases h

theorem mild_deliverPending (s : State) (gid fid : Nat) (epc : W64) : Mild s (s.deliverPending gid fid epc) := by
  unfold State.deliverPending
  split
  · exact .rfl s
  · rename_i h
    exact (mild_takePending h).trans (mild_deliver _ _ _ _ _ _ _)

theorem mild_unstall (s : State) (gid : Nat) : Mild s (s.unstall gid) := by
  unfold State.unstall
  split
  · exact .rfl s
  · exact ⟨⟨.refl _, .refl _, .refl _, .refl _⟩, id⟩

theorem mild_resumeBobbin (s : State) (g : Group) : Mild s (s.resumeBobbin g) := by
  unfold State.resumeBobbin
  split
  · exact .rfl s
  · exact iteInduction (motive := fun t => Mild s t) (fun _ => .rfl s) (fun _ => (mild_updGroup _ _ _).trans (mild_unstall _ _))

/-- A whole-group abort changes no store (R399). -/
theorem mild_abortGroup (s : State) (gid code user : Nat) (tval : Option W64) : Mild s (s.abortGroup gid code user tval) := by
  unfold State.abortGroup
  split
  · exact .rfl s
  · split
    · exact .rfl s
    · have base : ∀ (x : Group) (o : List MemOp) (n : Nat), Mild s { (s.setGroup gid x) with nextId := n, ops := o } :=
        fun x o n => mild_of_eq rfl rfl rfl rfl rfl
      have gone : ∀ (u : State) (c : Bool) (k : Nat), Mild s u → Mild s (if c = true then u.opGone k gid else u) := by
        intro u c k h
        cases c
        · exact h
        · exact h.trans (mild_opGone _ _ _)
      have two := fun (x : Group) (o : List MemOp) (n : Nat) (d : Bool) (e : Nat) (p : Nat → Bool) (a b c : Nat) =>
        ((gone _ d e (base x o n)).trans (mild_leaveWaits _ gid p)).trans (mild_freeBlocks _ a b c)
      have last : ∀ (u : State) (c : Bool) (e : W64), Mild s u →
          Mild s (if c = true then u else (u.unstall gid).deliverPending gid s.nextId e) := by
        intro u c e h
        cases c
        · exact (h.trans (mild_unstall _ _)).trans (mild_deliverPending _ _ _ _)
        · exact h
      simp only
      apply last
      split
      · exact iteInduction (motive := fun t => Mild s t) (fun _ => (two _ _ _ _ _ _ _ _ _).trans (mild_resumeBobbin _ _))
          (fun _ => two _ _ _ _ _ _ _ _ _)
      · exact two _ _ _ _ _ _ _ _ _

/-- A precise cause changes no store (R17, R437-R440). -/
theorem mild_raisePrecise (s : State) (w : Who) (code : Nat) (tval : Option W64) (epc : W64) :
    Mild s (s.raisePrecise w code tval epc) := by
  unfold State.raisePrecise
  simp only
  split
  · exact (mild_orFree s tval).trans (mild_abortGroup _ _ _ _ _)
  · exact iteInduction (motive := fun t => Mild s t)
      (fun _ => (((mild_orFree s tval).trans (mild_leaveWaits _ _ _)).trans (mild_raiseIn _ _ _ _ _ _)).trans
        (mild_advance _ _))
      (fun _ => ((mild_orFree s tval).trans (mild_updFrag _ _ _ _)).trans (mild_raiseIn _ _ _ _ _ _))

theorem mild_ticked (s : State) (gid fid : Nat) : Mild s (s.ticked gid fid) := ⟨⟨.refl _, .refl _, .refl _, .refl _⟩, id⟩

theorem mild_trapIssued (s : State) (w : Who) : Mild s (s.trapIssued w) :=
  iteInduction (motive := fun t => Mild s t) (fun _ => .rfl s) (fun _ => (mild_ticked s _ _).trans (mild_updGroup _ _ _))

theorem mild_setGroup_ops (s : State) (k : Nat) (g : Group) (o : List MemOp) : Mild s { s.setGroup k g with ops := o } :=
  ⟨⟨.refl _, .refl _, .refl _, .refl _⟩, id⟩

theorem mild_resumeAtEpc (s : State) (gid fid : Nat) : Mild s (s.resumeAtEpc gid fid) := by
  unfold State.resumeAtEpc
  split
  · exact .rfl s
  · simp only
    split
    · exact iteInduction (motive := fun t => Mild s t) (fun _ => mild_setGroup_ops _ _ _ _) (fun _ => mild_setGroup _ _ _)
    · exact mild_setGroup _ _ _

theorem mild_leaveHandler (s : State) (w : Who) (g : Group) : Mild s (s.leaveHandler w g) := by
  unfold State.leaveHandler
  simp only
  have h : ∀ c : Bool, Mild s (if c = true then s.resumeBobbin g else s) := by
    intro c; cases c
    · exact .rfl s
    · exact mild_resumeBobbin _ _
  exact ((((h _).trans (mild_setGroup _ _ _)).trans (mild_ticked _ _ _)).trans (mild_unstall _ _)).trans (mild_resumeAtEpc _ _ _)

theorem mild_redeliver (s : State) (w : Who) (g : Group) (code : BitVec 8) (b : Bool) (tval : W64) :
    Mild s (s.redeliver w g code b tval) := by
  unfold State.redeliver
  simp only
  split
  · have h := fun x => (mild_setGroup s w.gid x).trans (mild_ticked _ w.gid w.fid)
    exact iteInduction (motive := fun t => Mild s t) (fun _ => (h _).trans (mild_resumeBobbin _ _)) (fun _ => h _)
  · have h := ((mild_setGroup s w.gid (g.endHandling.failEntry w.fid (code.toNat % 64) g.epc tval)).trans
      (mild_dropUrgent _ w.gid (fun _ => true))).trans (mild_fatal _
      (g.endHandling.failEntry w.fid (code.toNat % 64) g.epc tval).entryRecord)
    exact iteInduction (motive := fun t => Mild s t) (fun _ => h.trans (mild_resumeBobbin _ _)) (fun _ => h)

/-- HRET changes no store (R409). -/
theorem mild_hret (s : State) (w : Who) : Mild s (s.hret w) := by
  unfold State.hret
  split
  · exact mild_leaveHandler _ _ _
  · rename_i h
    exact (mild_takePending h).trans (mild_redeliver _ _ _ _ _ _)

/-! ### The end of an instruction form -/

/-- What an instruction form leaves keeps a property of states, where its body does and ends, causes, waits and aborts keep it. -/
theorem settle_keeps (P : State → Prop) (hm : ∀ s t, Mild s t → P s → P t) (s : State) (w : Who) (r : Except Stop State)
    (hs : P s) (hok : ∀ t, r = .ok t → P t) (hw : ∀ x t, r = .error (.wait x t) → P t) : P (settle s w r) := by
  cases r with
  | ok t => exact hm _ _ (mild_endIssue t) (hok t rfl)
  | error e =>
    cases e with
    | cause c tv => exact hm _ _ ((mild_raisePrecise s w c tv _).trans (mild_endIssue _)) hs
    | trapNext c tv => exact hm _ _ (((mild_trapIssued s w).trans (mild_raisePrecise _ w c _ _)).trans (mild_endIssue _)) hs
    | abort c u tv => exact hm _ _ ((mild_abortGroup s _ c u tv).trans (mild_endIssue _)) hs
    | wait x t => exact hm _ _ ((mild_setWaiting t _ _ x).trans (mild_endIssue _)) (hw x t rfl)
    | busy => exact hm _ _ (mild_endIssue _) hs

/-- An instruction form keeps what its body and its waits keep. -/
theorem run_keeps (P : State → Prop) (hm : ∀ s t, Mild s t → P s → P t) (s t : State) (body : Who → Except Stop State)
    (hs : P s) (hok : ∀ w u, body w = .ok u → P u) (hw : ∀ w x u, body w = .error (.wait x u) → P u)
    (h : run s body = .next t) : P t := by
  unfold run at h
  split at h
  · cases h
  · split at h
    · cases h
    · rename_i w _
      cases h
      exact settle_keeps P hm s w _ hs (hok w) (hw w)

end Sys2Proof.Machine
end

