-- ==== Sys2Proof/Tests/Setup.lean ====
section
/-! SUPPORT. Small states for the tests: one group alone in a package, with what each test sets in it. -/

namespace Sys2Proof.Tests

open Sys2Proof Sys2Proof.Machine

set_option Elab.async false

/-- One compute group, chosen to issue, at slot 0 of the line 0x10000, with the first GiB mapped to itself. -/
def base : State := State.reset.loadFresh 0

/-- The group's one fragment, as it stands in `s`. -/
def me (s : State) : Who := (s.who? 0 0).getD ⟨0, 0, loadedGroup, Frag.first 0 ⟨0x10000, 0⟩⟩

/-- With group 0 changed. -/
def gr (f : Group → Group) (s : State) : State := s.updGroup 0 f

/-- With these s registers of group 0. -/
def sregs (l : List (Nat × W64)) (s : State) : State :=
  gr (fun g => { g with s := l.foldl (fun r e => setAt 0 r e.1 e.2) g.s }) s

/-- With each of these v registers of group 0 at one value in every lane. -/
def vregs (l : List (Nat × W32)) (s : State) : State :=
  gr (fun g => { g with v := l.foldl (fun r e => setAt [] r e.1 (List.replicate 32 e.2)) g.v }) s

/-- With fragment 0 of group 0 changed. -/
def fr (f : Frag → Frag) (s : State) : State := s.updFrag 0 0 f

/-- With context 0 changed. -/
def cx (f : Ctx → Ctx) (s : State) : State := s.updCtx 0 f

/-- An entry of the operand log of group 0's fragment: one lane's access at an address. -/
def logged (id : Nat) (i : Instr) (addr : W64) : MemOp :=
  { id := id, gid := 0, fid := 0, core := 0, pc := ⟨0x10000, 0⟩, instr := i, left := 3, younger := 0, lanes := [⟨0, addr, [5], 0⟩],
    act := 1, stage := .issued, whole := false, waits := false, joined := false, hm := false, seq := 0, first := false,
    pins := [], owe := none, refused := none }

/-- With these bytes of system memory, from an address. -/
def bytes (a : Nat) (l : List Byte) (s : State) : State := { s with mem := { s.mem with sys := s.mem.sys.writeL a l } }

/-- With an n-byte number in system memory. -/
def word (a n v : Nat) (s : State) : State := { s with mem := { s.mem with sys := s.mem.sys.writeNat a n v } }

/-- CM of a form that writes its register only. -/
def toReg : Consumers := ⟨true, false, false, false, false, false⟩

/-- A launch record of one team of one group, at the group's own line. -/
def launchAt (a : Nat) (s : State) : State :=
  (((((word a 8 0x10000 s) |> word (a + 8) 4 1) |> word (a + 12) 2 1) |> word (a + 14) 2 1) |> word (a + 16) 1 1) |>
    word (a + 18) 1 1 |> word (a + 20) 1 8

/-- The operands of a form of format V, E or S. -/
def ops (d a b c : Operand) (imm : W32) : Args := ⟨0, 0, toReg, d, a, b, c, imm⟩

/-- The same of a form without a result. -/
def args (a b c : Operand) (imm : W32) : Args := ⟨0, 0, Consumers.none, .v 0, a, b, c, imm⟩

/-- The operands of a form of format M, without consumers. -/
def mem (la : BitVec 4) (d a b : Operand) (off : W32) : MArgs :=
  ⟨la, 0, Consumers.none, d, a, b, ⟨.group, .relaxed, .normal, false, false⟩, off⟩

/-- A region of depth 1 with its code register s9 and its label at slot 1, that saved what a fresh group holds. -/
def openRegion : TryRegion :=
  ⟨1, false, 0, 9, ⟨0x10000, 1⟩, List.replicate 64 0, 0, [], [], [], [], [], [], [], 0, [], 4⟩

/-- Group 0 in an open region. -/
def inRegion (r : TryRegion) (s : State) : State := gr (fun g => { g with tryR := some r }) s

def plain : Attrs := ⟨.group, .relaxed, .normal, false, false⟩

/-- The fragment that issues, outside a region, as a Bool. -/
def freeB (s : State) : Bool := s.cur == some ⟨(me s).gid, (me s).fid⟩ && s.who? (me s).gid (me s).fid == some (me s) &&
  (me s).g.tryR.isNone

/-- A form's checks pass, as a Bool. -/
def passB (s : State) (w : Who) (x : Shape) : Bool := match s.pre w x with | .ok _ => true | .error _ => false

theorem passes {s : State} {w : Who} {x : Shape} (h : passB s w x = true) : Passes s w x := by
  unfold passB at h
  unfold Passes
  split at h
  · assumption
  · cases h

/-- Who issues, as a Bool. -/
def issueB (s : State) (w : Who) : Bool := s.cur == some ⟨w.gid, w.fid⟩ && s.who? w.gid w.fid == some w

theorem issues {s : State} {w : Who} (h : issueB s w = true) : Issues s w := by
  simpa [issueB, Issues] using h

/-- A transfer lands, as a Bool. -/
def landB (s : State) (w : Who) (a : W64) (pc : Pc) : Bool :=
  Pc.ofAddr a == some pc && lineOk pc.line &&
    (match s.fetchLine w.g.ctx w.g.core pc.line with
     | .ok l => lineCheckOk l && (lineWord l).target.getLsbD pc.slot
     | .error _ => false)

theorem lands {s : State} {w : Who} {a : W64} {pc : Pc} (h : landB s w a pc = true) : Lands s w a pc := by
  unfold landB at h
  unfold Lands
  revert h
  cases hl : s.fetchLine w.g.ctx w.g.core pc.line <;> simp +contextual

/-- The machine goes on, as a Bool. -/
def isNext (o : Host.Outcome State Fault Refusal) : Bool := match o with | .next _ => true | _ => false

theorem next_of {o : Host.Outcome State Fault Refusal} (h : isNext o = true) : ∃ t, o = .next t := by
  cases o with
  | next t => exact ⟨t, rfl⟩
  | fault _ => cases h
  | refused _ => cases h

/-- A check that answers, as a Bool. -/
def okB {ε α : Type} (e : Except ε α) : Bool := match e with | .ok _ => true | .error _ => false

theorem ok_of {ε α : Type} {e : Except ε α} (h : okB e = true) : ∃ l, e = .ok l := by
  cases e with
  | ok l => exact ⟨l, rfl⟩
  | error _ => cases h

/-- A check that answers what meets p. -/
def okAnd {ε α : Type} (e : Except ε α) (p : α → Bool) : Bool := match e with | .ok l => p l | .error _ => false

/-- An access may go ahead, as a Bool. -/
def readyB (s : State) (w : Who) (i : Instr) (x : MArgs) (a : AccForm) : Bool :=
  w.g.tryR.isNone && !w.wideUnprotected i x && passB s w (accShape w x a) &&
    okB (s.checkLanes w.gid w.g a.kind (s.lanesOf w i x a.scalar)) && decide (s.heldUnits w.g.core < 4) &&
    decide (s.logged w.g.core < 48) && !orderedBehind s.ops w.gid w.g.who a (s.lanesOf w i x a.scalar) &&
    !s.windowWaits w a (s.lanesOf w i x a.scalar) && !w.f.afterJoin

theorem ready {s : State} {w : Who} {i : Instr} {x : MArgs} {a : AccForm} (h : readyB s w i x a = true) :
    AccessReady s w i x a := by
  simp only [readyB, Bool.and_eq_true, Bool.not_eq_true', Option.isNone_iff_eq_none, decide_eq_true_eq] at h
  obtain ⟨⟨⟨⟨⟨⟨⟨⟨h1, h2⟩, h3⟩, h4⟩, h5⟩, h6⟩, h7⟩, h8⟩, h9⟩ := h
  exact ⟨h1, h2, passes h3, (ok_of h4).choose_spec, h5, h6, h7, h8, by simp [h9]⟩

/-- Every lane's bytes are resolved, in lines that the L1 of a core holds, as a Bool. -/
def heldB (s : State) (core : Nat) (e : Except (Nat × WalkFail) (List (LaneAccess × List Loc))) : Bool :=
  match e with
  | .ok l => (linesOf (l.flatMap (·.2))).all (fun k => ((s.cores.get core).bind (fun c => c.copy? k)).isSome)
  | .error _ => false

theorem resolved {s : State} {core : Nat} {e : Except (Nat × WalkFail) (List (LaneAccess × List Loc))}
    (h : heldB s core e = true) : ∃ l, e = .ok l ∧ Held s core (l.flatMap (·.2)) := by
  cases e with
  | ok l => exact ⟨l, rfl, by simpa [heldB, Held] using h⟩
  | error _ => cases h

/-- With every enable of fmt clear, no form raises an enabled flag. -/
theorem no_flag {w : Who} (x : Args) (fl : Nat → FlagSet) (h : fmtEnables w.f.fmt = 0) : NoEnabledFlag w x fl := by
  simp [NoEnabledFlag, h]

/-- The line that the group fetches, and one with other fields of its line word. -/
def lineAt (s : State) : List Byte := match s.fetchLine 0 0 0x10000 with | .ok l => l | .error _ => []

/-- The line with these words in slots 0 and 1, this reserved field, PAIR and these targets. -/
def pairLine (w v : InsnWord) (reserved : BitVec 8) (pair : BitVec 3) (target : BitVec 5) : List Byte :=
  let body := leBytes 12 w.toNat ++ leBytes 12 v.toNat ++ List.replicate 36 0
  body ++ leBytes 4 (LineWord.toBits ⟨crc16 body, reserved, pair, target⟩).toNat

/-- The line with this word in slot 0, this reserved field and these targets. -/
def codeLine (w : InsnWord) (reserved : BitVec 8) (target : BitVec 5) : List Byte := pairLine w 0 reserved 0 target

def withLine (w : InsnWord) (reserved : BitVec 8) (target : BitVec 5) (s : State) : State :=
  bytes 0x10000 (codeLine w reserved target) s

/-- A bobbin group, partner of group 0. -/
def bobbin : Group :=
  { loadedGroup with access := true, partner := some 0, slot := 1, frags := [Frag.first 9 ⟨0x10000, 0⟩] }

/-- Group 0 with a bobbin partner, group 1, and the window's queues. -/
def pair (s : State) : State :=
  let t := gr (fun g => { g with partner := some 1, queues := List.replicate 8 (List.replicate 32 []) }) s
  { t with groups := t.groups.set 1 bobbin }

/-- A value in every lane of a queue of group 0. -/
def queued (q : Nat) (l : List W32) (s : State) : State :=
  gr (fun g => { g with queues := setAt [] g.queues q (List.replicate 32 l) }) s

end Sys2Proof.Tests
end

