-- ==== Sys2Proof/Tests/Slice0.lean ====
section
/-! SUPPORT. Tests of words, static checks and values alone: their expected results are the spec's worked words and tables, or
words put together by hand from the fields of R26. -/

namespace Sys2Proof.Tests

open Sys2Proof Sys2Proof.Machine

set_option Elab.async false

/-! ### Words (R26-R47) -/

/-- The spec's own words: DJNZ, SMUL, VFCMP, VFMUL, VFMA, LD. -/
theorem test_words_compute :
    decode 0x09000000_43400000_FFFFFFFB = .ok (.djnz ⟨.v 0, .s 13, -1, 3⟩) ∧
    decode 0x12000181_52FFE000_00000060 = .ok (.smul ⟨0, 0, toReg, .s 2, .sp .team, .imm, .v 0, 0x60⟩) ∧
    decode 0x32000185_027FE002_2F800000 = .ok (.vfcmp .lt ⟨0, 0, toReg, .s 10, .v 9, .imm, .v 0, 0x2F800000⟩) ∧
    decode 0x42038107_833FE000_3F000000 = .ok (.vfmul .fmt ⟨0, 14, toReg, .v 15, .v 12, .imm, .v 0, 0x3F000000⟩) ∧
    decode 0x43000302_80806050_00000001 =
      .ok (.vfma .fmt ⟨0, 0, ⟨true, true, false, false, false, false⟩, .v 5, .v 2, .v 3, .v 5, 1⟩) ∧
    decode 0x6031C2A1_02400004_00000040 =
      .ok (.ld .b32 ⟨3, 7, ⟨false, true, false, false, false, false⟩, .q 2, .v 9, .v 0,
        ⟨.group, .relaxed, .normal, false, false⟩, 64⟩) := by decide +kernel

/-- The spec's own words: BRS, REGANG, ST, RPUSH, CPY, MXLOOP, BID, SETFMT. -/
theorem test_words_others :
    decode 0x03000000_42400000_00000004 = .ok (.brs .any ⟨.v 0, .s 9, 0, 4⟩) ∧
    decode 0x04000000_00000000_00000007 = .ok (.regang ⟨0, 0, Consumers.none, .v 0, .v 0, .v 0, .v 0, 7⟩) ∧
    decode 0x61000000_0080D205_00000010 =
      .ok (.st .b64 ⟨0, 0, Consumers.none, .v 0, .v 2, .v 6, ⟨.device, .release, .normal, false, false⟩, 16⟩) ∧
    decode 0x8710018A_422130A0_00000001 = .ok (.rpush .blocking ⟨1, 0, toReg, .s 20, .s 8, .s 9, .s 10, 1⟩) ∧
    decode 0x80000000_4120B060_00000000 = .ok (.cpy ⟨0, 0, Consumers.none, .v 0, .s 4, .s 5, .s 6, 0⟩) ∧
    decode 0x90300000_4120B060_00010002 = .ok (.mxloop ⟨3, 0, Consumers.none, .v 0, .s 4, .s 5, .s 6, 0x10002⟩) ∧
    decode 0xD0000000_42212001_00000000 = .ok (.bid .bank ⟨0, 0, Consumers.none, .v 0, .s 8, .s 9, .v 0, 0⟩) ∧
    decode 0x58000000_00000001_00045243 = .ok (.setfmt .i ⟨0, 0, Consumers.none, .v 0, .v 0, .v 0, .v 0, 0x45243⟩) := by
  decide +kernel

/-- The spec's own words: TRY, COMMIT, CTLR, HRET. -/
theorem test_words_system :
    decode 0xC200008F_01000000_00000986 = .ok (.tryOpen ⟨0, 0, Consumers.none, .s 30, .v 4, .v 0, .v 0, 0x986⟩) ∧
    decode 0xC300018F_80000000_00000000 = .ok (.commit ⟨0, 0, toReg, .s 31, .v 0, .v 0, .v 0, 0⟩) ∧
    decode 0xE300019C_00000000_00000003 = .ok (.ctlr ⟨0, 0, toReg, .s 56, .v 0, .v 0, .v 0, 3⟩) ∧
    decode 0xE2000000_00000000_00000000 = .ok (.hret ⟨0, 0, Consumers.none, .v 0, .v 0, .v 0, .v 0, 0⟩) := by decide +kernel

/-- Words put together from R26's fields: NOP, MSKIP, VADD, VBCAST, VDOT4, RED, SATOM. -/
theorem test_words_by_hand :
    decode 0 = .ok .nop ∧
    decode 0x050100000000000000000003 = .ok (.mskip ⟨0, 4, Consumers.none, .v 0, .v 0, .v 0, .v 0, 3⟩) ∧
    decode 0x2001C10080A8600100000000 = .ok (.vadd .ss ⟨0, 7, toReg, .v 1, .v 2, .q 3, .v 0, 0⟩) ∧
    decode 0x34000104823FE00100000003 = .ok (.vbcast .lane ⟨0, 0, toReg, .v 9, .v 8, .imm, .v 0, 3⟩) ∧
    decode 0x540001020140C04500000000 = .ok (.vdot4 .i8 ⟨0, 0, toReg, .v 4, .v 5, .v 6, .v 4, 0⟩) ∧
    decode 0x732000004100700000000008 =
      .ok (.red .add ⟨2, 0, Consumers.none, .v 0, .s 4, .v 3, ⟨.device, .relaxed, .normal, false, false⟩, 8⟩) ∧
    decode 0x7400018341205B0B00000000 =
      .ok (.satom .cas ⟨0, 0, toReg, .s 6, .s 4, .s 2, ⟨.system, .acqRel, .normal, false, false⟩, 0⟩) := by decide +kernel

/-- Words put together from R26's fields: FENCE, BAR, CMAINT, ENQ, JOIN, GROW, QCTL, TRAP. -/
theorem test_words_by_hand_system :
    decode 0xA00000000000000400000000 = .ok (.fence .device ⟨0, 0, Consumers.none, .v 0, .v 0, .v 0, .v 0, 0⟩) ∧
    decode 0xA10000000000000000000305 = .ok (.bar ⟨0, 0, Consumers.none, .v 0, .v 0, .v 0, .v 0, 0x305⟩) ∧
    decode 0xA50000004120A00B00000000 = .ok (.cmaint .ci .poc ⟨0, 0, Consumers.none, .v 0, .s 4, .s 5, .v 0, 0⟩) ∧
    decode 0xB0000183C200000100000000 = .ok (.enq .nb ⟨0, 0, toReg, .s 7, .s 8, .v 0, .v 0, 0⟩) ∧
    decode 0xB20000004221200000000000 = .ok (.join .blocking ⟨0, 0, Consumers.none, .v 0, .s 8, .s 9, .v 0, 0⟩) ∧
    decode 0xC0300180C080000100000000 = .ok (.grow .nb ⟨3, 0, toReg, .s 1, .s 2, .v 0, .v 0, 0⟩) ∧
    decode 0xC50000000000000100000007 = .ok (.qctlRst ⟨0, 0, Consumers.none, .v 0, .v 0, .v 0, .v 0, 7⟩) ∧
    decode 0xE00000000000000000001234 = .ok (.trap ⟨0, 0, Consumers.none, .v 0, .v 0, .v 0, .v 0, 0x1234⟩) := by decide +kernel

/-- R36, R37, R476: an OP outside the map and an operand code in no row are cause 0x01, a scope or FN in no row cause 0x02. -/
theorem test_words_refused :
    decode 0x0C0000000000000000000000 = .error .unlistedOp ∧
    decode 0x10000180D5A0400000000000 = .error .unlistedOperand ∧
    decode 0x7300000041007C0000000000 = .error .badForm ∧
    decode 0x10000180C0A0600300000000 = .error .badForm ∧
    DecodeError.cause .unlistedOp = 0x01 ∧ DecodeError.cause .badForm = 0x02 := by decide +kernel

/-- The host's reading of a word is the decoder's. -/
theorem test_table_word : decodeTableWord 96 0xE20000000000000000000000 =
    some (.hret ⟨0, 0, Consumers.none, .v 0, .v 0, .v 0, .v 0, 0⟩) := by decide +kernel

/-- R22's CRC over the string 123456789. -/
theorem test_crc : crc16 [0x31, 0x32, 0x33, 0x34, 0x35, 0x36, 0x37, 0x38, 0x39] = 0x29B1 := by decide +kernel

/-- R471's digest over the string abc: the example that FIPS 202's authors publish. -/
theorem test_sha3 : bytesNat (sha3 [0x61, 0x62, 0x63]).reverse = 0xb751850b1a57168a5693cd924b6b096e08f621827444f70d884f5d0240d2712e10e116e9192af3c91a7ec57647e3934057340b4cf408d5a56592f8274eec53f0 := by
  decide +kernel

/-! ### The static checks refuse (R27-R36) -/

/-- LA in a form that takes none; MSK where none is allowed and where one is needed. -/
theorem smoke_header :
    Instr.wf (.sadd .wrap ⟨1, 0, toReg, .s 1, .s 2, .s 3, .v 0, 0⟩) = false ∧
    Instr.wf (.sadd .wrap ⟨0, 1, toReg, .s 1, .s 2, .s 3, .v 0, 0⟩) = false ∧
    Instr.wf (.mskip ⟨0, 0, Consumers.none, .v 0, .v 0, .v 0, .v 0, 3⟩) = false ∧
    Instr.wf (.sadd .wrap ⟨0, 0, toReg, .s 1, .s 2, .s 3, .v 0, 0⟩) = true := by decide +kernel

/-- A field that the form does not use, a source of the wrong kind, a destination of the wrong kind, CM without its D. -/
theorem smoke_operands :
    Instr.wf (.spopc .full ⟨0, 0, toReg, .s 1, .s 2, .s 3, .v 0, 0⟩) = false ∧
    Instr.wf (.sadd .wrap ⟨0, 0, toReg, .s 1, .v 2, .s 3, .v 0, 0⟩) = false ∧
    Instr.wf (.sadd .wrap ⟨0, 0, toReg, .v 1, .s 2, .s 3, .v 0, 0⟩) = false ∧
    Instr.wf (.sadd .wrap ⟨0, 0, Consumers.none, .s 1, .s 2, .s 3, .v 0, 0⟩) = false ∧
    Instr.wf (.sadd .wrap ⟨0, 0, ⟨true, true, false, false, false, false⟩, .s 1, .s 2, .s 3, .v 0, 0⟩) = false ∧
    Instr.wf (.vadd .wrap ⟨0, 0, toReg, .imm, .v 2, .v 3, .v 0, 0⟩) = false ∧
    Instr.wf (.ld .b64 ⟨0, 0, toReg, .v 3, .v 4, .v 0, ⟨.group, .relaxed, .normal, false, false⟩, 0⟩) = false ∧
    Instr.wf (.lea ⟨0, 0, toReg, .zero, .v 4, .v 0, ⟨.group, .relaxed, .normal, false, false⟩, 0⟩) = false ∧
    Instr.wf (.djnz ⟨.v 0, .v 1, 0, 0⟩) = false := by decide +kernel

/-- IMM where no operand names it, beside a queue, and in bits that the form leaves unused. -/
theorem smoke_immediate :
    Instr.wf (.sadd .wrap ⟨0, 0, toReg, .s 1, .s 2, .s 3, .v 0, 1⟩) = false ∧
    Instr.wf (.vfma .fmt ⟨0, 0, ⟨true, true, false, false, false, false⟩, .v 5, .v 2, .imm, .v 5, 1⟩) = false ∧
    Instr.wf (.vfma .fmt ⟨0, 0, ⟨true, true, false, false, false, false⟩, .v 5, .v 2, .v 3, .v 5, 8⟩) = false ∧
    Instr.wf (.trap ⟨0, 0, Consumers.none, .v 0, .v 0, .v 0, .v 0, 0x10000⟩) = false := by decide +kernel

/-- Attributes and widths that a form may not carry (R28, R44). -/
theorem smoke_attributes :
    Instr.wf (.ld .b32 ⟨0, 0, toReg, .v 3, .v 4, .v 0, ⟨.group, .release, .normal, false, false⟩, 0⟩) = false ∧
    Instr.wf (.st .b32 ⟨0, 0, Consumers.none, .v 0, .v 4, .v 0, ⟨.group, .acquire, .normal, false, false⟩, 0⟩) = false ∧
    Instr.wf (.st .b32 ⟨0, 0, Consumers.none, .v 0, .v 4, .v 0, ⟨.group, .relaxed, .normal, true, false⟩, 0⟩) = false ∧
    Instr.wf (.atom .add ⟨0, 0, toReg, .v 3, .v 4, .v 0, ⟨.group, .relaxed, .normal, false, true⟩, 0⟩) = false ∧
    Instr.wf (.lea ⟨0, 0, toReg, .v 2, .v 4, .v 0, ⟨.group, .relaxed, .keep, false, false⟩, 0⟩) = false ∧
    Instr.wf (.ld .s32 ⟨0, 0, toReg, .v 3, .v 4, .v 0, ⟨.group, .relaxed, .normal, false, false⟩, 0⟩) = false ∧
    Instr.wf (.st .s8 ⟨0, 0, Consumers.none, .v 0, .v 4, .v 0, ⟨.group, .relaxed, .normal, false, false⟩, 0⟩) = false ∧
    Instr.wf (.ldu .b128 ⟨0, 0, toReg, .s 3, .s 4, .v 0, ⟨.group, .relaxed, .normal, false, false⟩, 0⟩) = false := by
  decide +kernel

/-- The checks that a form's own entry adds. -/
theorem smoke_entries :
    Instr.wf (.bra ⟨.v 0, .v 0, 0, 5⟩) = false ∧
    Instr.wf (.ret ⟨.v 0, .s 1, 1, 0⟩) = false ∧
    Instr.wf (.mskip ⟨0, 1, Consumers.none, .v 0, .v 0, .v 0, .v 0, 0⟩) = false ∧
    Instr.wf (.vcvt .bf16 ⟨0, 0, toReg, .v 1, .v 2, .v 0, .v 0, 10⟩) = false ∧
    Instr.wf (.vcvt .bs8e ⟨0, 0, toReg, .v 1, .v 2, .v 3, .v 0, 9⟩) = false ∧
    Instr.wf (.vcvt .bf16 ⟨0, 0, toReg, .v 1, .v 2, .v 3, .v 0, 0⟩) = false ∧
    Instr.wf (.qscale .bs8e ⟨0, 0, Consumers.none, .v 0, .s 1, .s 2, .v 0, 0x140⟩) = true ∧
    Instr.wf (.qscale .bs8e ⟨0, 0, Consumers.none, .v 0, .s 1, .s 2, .v 0, 0x141⟩) = false ∧
    Instr.wf (.qscale .bs8e ⟨0, 0, Consumers.none, .v 0, .s 1, .s 2, .v 0, 0x940⟩) = false ∧
    Instr.wf (.coll .sum ⟨0, 0, Consumers.none, .v 0, .s 1, .s 2, .s 3, 0⟩) = false ∧
    Instr.wf (.bar ⟨0, 0, Consumers.none, .v 0, .v 0, .v 0, .v 0, 0x2100⟩) = false ∧
    Instr.wf (.mwait .ne ⟨0, 0, Consumers.none, .v 0, .s 1, .s 2, .v 0, 0x70000⟩) = false ∧
    Instr.wf (.tryOpen ⟨0, 1, Consumers.none, .s 30, .v 250, .v 0, .v 0, 7⟩) = false ∧
    Instr.wf (.ctlr ⟨0, 0, toReg, .s 1, .v 0, .v 0, .v 0, 8⟩) = false ∧
    Instr.wf (.ctlw .write ⟨0, 0, Consumers.none, .v 0, .s 1, .v 0, .v 0, 0x20⟩) = false ∧
    Instr.wf (.ctlw .set ⟨0, 0, Consumers.none, .v 0, .s 1, .v 0, .v 0, 1⟩) = false ∧
    Instr.wf .lateFault = false := by decide +kernel

/-! ### Values (the spec's worked tables) -/

/-- R171, R172: 1 + 2^-24, its negative, and 2^128, in the four modes. -/
theorem test_rounding_table :
    [RMode.rne, .rtz, .rdn, .rup].map (fun m => (addF32 m false 0x3F800000 0x33800000).1) =
      [0x3F800000, 0x3F800000, 0x3F800000, 0x3F800001] ∧
    [RMode.rne, .rtz, .rdn, .rup].map (fun m => (addF32 m false 0xBF800000 0xB3800000).1) =
      [0xBF800000, 0xBF800000, 0xBF800001, 0xBF800000] ∧
    [RMode.rne, .rtz, .rdn, .rup].map (fun m => mulF32 m false 0x5F800000 0x5F800000) =
      [(0x7F800000, flagOF ||| flagNX), (0x7F7FFFFF, flagOF ||| flagNX), (0x7F7FFFFF, flagOF ||| flagNX),
       (0x7F800000, flagOF ||| flagNX)] := by decide +kernel

/-- The table after R119, and R173's exact subnormal. -/
theorem test_fp32_table :
    classF32 3 = 0x20 ∧ splitF32 .exp 3 = 0xFFFFFF6C ∧ splitF32 .man 3 = 0x3FC00000 ∧
    scaleF32 .rne false 3 64 = (0x15C00000, 0) ∧ scaleF32 .rne false 0x5F800000 (-64) = (0x3F800000, 0) ∧
    scaleF32 .rne false 0x3FC00000 (-149) = (2, flagUF ||| flagNX) ∧
    scaleF32 .rtz false 0x3FC00000 (-149) = (1, flagUF ||| flagNX) ∧
    scaleF32 .rne false 0x3F800000 (-140) = (0x200, 0) ∧
    (integralF32 .rne false 0xBE99999A).1 = 0x80000000 := by decide +kernel

/-- The table after R367, row by row: BF16, FP16, E4M3, E5M2, INT8. -/
theorem test_conversion_table :
    let all (x : W32) := [NumFmt.bf16, .f16, .e4m3, .e5m2].map (fun f => convert .f32 f .rne false x 0)
    all 0x3F800000 = [(0x3F80, 0), (0x3C00, 0), (0x38, 0), (0x3C, 0)] ∧
    all 0x43960000 = [(0x4396, 0), (0x5CB0, 0), (0x79, flagNX), (0x5D, flagNX)] ∧
    all 0x43FA0000 = [(0x43FA, 0), (0x5FD0, 0), (0x7F, flagOF ||| flagNX), (0x60, flagNX)] ∧
    all 0x3B800000 = [(0x3B80, 0), (0x1C00, 0), (0x02, 0), (0x1C, 0)] ∧
    all 0x80000000 = [(0x8000, 0), (0x8000, 0), (0x80, 0), (0x80, 0)] ∧
    all 0x7FC00000 = [(0x7FC0, 0), (0x7E00, 0), (0x7F, 0), (0x7E, 0)] ∧
    [0x3F800000, 0x43960000, 0x3B800000, 0x7FC00000].map (fun x => convert .f32 .i8 .rne false x 0) =
      [(1, 0), (0x7F, flagSAT), (0, flagNX), (0, flagNV)] := by decide +kernel

/-- R368: 500.0 to E4M3 with the clamp enable; +inf with it. -/
theorem test_clamp :
    convert .f32 .e4m3 .rne true 0x43FA0000 0 = (0x7E, flagCLP ||| flagNX) ∧
    convert .f32 .e4m3 .rne true 0x7F800000 0 = (0x7F, flagNV) := by decide +kernel

/-- The clearing worked through after R352, in coin halves: 16 ways, reserve 1. -/
theorem test_clearing :
    let bids : List Bid := [⟨3, 0x40000, 6, true⟩, ⟨7, 0x40000, 5, false⟩, ⟨9, 0x30000, 4, true⟩, ⟨12, 0x20000, 10, false⟩,
      ⟨20, 0x4000, 16, false⟩]
    let c := clearing 16 0x8000 bids
    c.price = 0x20000 ∧ [3, 7, 9, 12, 20].map (wonBy c.won) = [6, 5, 4, 1, 0] ∧ c.left = 0 ∧
      assignUnits (range 0 16) (fun k => if k = 3 then range 0 6 else if k = 9 then range 6 10 else []) c.won =
        [(3, range 0 6), (7, range 10 5), (9, range 6 4), (12, [15])] := by decide +kernel

end Sys2Proof.Tests
end

