-- ==== Sys2Proof/Tests/Witness1.lean ====
section
/-! SUPPORT. For each statement about steps, operate forms and control, states that meet its hypotheses, clause by clause. -/

namespace Sys2Proof.Tests

open Sys2Proof Sys2Proof.Machine

set_option Elab.async false

/-! ### Steps -/

/-- NOP runs in a state whose memories and trap queue are in form. -/
theorem witness_StepKeepsMemories : memsOk base = true ∧ trapsOk base = true ∧ ∃ t, step base = .next t :=
  ⟨by decide +kernel, by decide +kernel, next_of (by decide +kernel)⟩

theorem witness_EncodedFormsDecode :
    Instr.wf (.smul (ops (.s 2) (.s 63) .imm (.v 0) 0xFFFFFFFF)) = true ∧
      (Instr.opFn (.smul (ops (.s 2) (.s 63) .imm (.v 0) 0xFFFFFFFF))).isSome = true := by decide +kernel

theorem witness_DecodedFormsEncode : ∃ i, decode 0xE20000000000000000000000 = .ok i := ⟨_, rfl⟩

/-- A line that passes its checks, with a VADD at a target slot. -/
theorem witness_StepRunsDecoded :
    let s := base.loadFresh (encode (.vadd .wrap (ops (.v 255) (.v 2) (.v 3) (.v 0) 0)))
    let i := Instr.vadd .wrap (ops (.v 255) (.v 2) (.v 3) (.v 0) 0)
    issueB s (me s) = true ∧ s.fetchLine (me s).g.ctx (me s).g.core (me s).f.pc.line = .ok (lineAt s) ∧
      lineCheckOk (lineAt s) = true ∧ (lineWord (lineAt s)).reserved = 0 ∧
      ((me s).f.byTransfer = true ∧ (lineWord (lineAt s)).target.getLsbD (me s).f.pc.slot = true) ∧
      decode (lineSlot (lineAt s) (me s).f.pc.slot) = .ok i ∧ Instr.roleOk i (me s).g = true ∧
      Instr.beyond i (me s).g = false ∧ pairFails (lineAt s) (me s).f.pc.slot (me s).g i = false ∧
      (me s).entering = false ∧ (s.lineGood (me s)).holds (me s) i = false ∧ (me s).f.crcTries = 0 := by decide +kernel

/-- Lines with a good check whose reserved field is not 0, whose slot is no target, and whose word is refused, is not for a
bobbin, names a register beyond the window, or leads a pair in which the second word reads what the first writes; and a handler's
entry at a slot that is no target, and at one that is. -/
theorem witness_StepRefusesIllegal :
    let good (s : State) : Bool := issueB s (me s) && decide (s.fetchLine (me s).g.ctx (me s).g.core (me s).f.pc.line =
      .ok (lineAt s)) && lineCheckOk (lineAt s) && (me s).f.crcTries == 0
    let seq (s : State) : State := fr (fun f => { f with byTransfer := false }) s
    let r := withLine 0 1 1 base
    let t := withLine 0 0 0 base
    let e := seq (withLine 0x0C0000000000000000000000 0 1 base)
    let b := seq (gr (fun g => { g with access := true }) (withLine (encode (.hret (args (.v 0) (.v 0) (.v 0) 0))) 0 1 base))
    let v := seq (gr (fun g => { g with blocks := 1 }) (withLine (encode (.vmov (ops (.v 8) (.v 0) (.v 0) (.v 0) 0))) 0 1 base))
    let two (n : BitVec 8) : Instr := .vmov (ops (.v 9) (.v n) (.v 0) (.v 0) 0)
    let p := seq (bytes 0x10000 (pairLine (encode (.vmov (ops (.v 8) (.v 0) (.v 0) (.v 0) 0))) (encode (two 8)) 0 6 1) base)
    let enter (s : State) : State := gr (fun g => { g with hm := true, handling := some ⟨0, false⟩ }) s
    let m := enter (withLine 0 1 1 base)
    (good r = true ∧ (lineWord (lineAt r)).reserved ≠ 0) ∧
    (good t = true ∧ (lineWord (lineAt t)).reserved = 0 ∧ (me t).f.byTransfer = true ∧
      (lineWord (lineAt t)).target.getLsbD (me t).f.pc.slot = false) ∧
    (good e = true ∧ (lineWord (lineAt e)).reserved = 0 ∧ (me e).f.byTransfer = false ∧
      decode (lineSlot (lineAt e) (me e).f.pc.slot) = .error .unlistedOp) ∧
    (good b = true ∧ (me b).f.byTransfer = false ∧
      decode (lineSlot (lineAt b) (me b).f.pc.slot) = .ok (.hret (args (.v 0) (.v 0) (.v 0) 0)) ∧
      Instr.roleOk (.hret (args (.v 0) (.v 0) (.v 0) 0)) (me b).g = false) ∧
    (good v = true ∧ decode (lineSlot (lineAt v) (me v).f.pc.slot) = .ok (.vmov (ops (.v 8) (.v 0) (.v 0) (.v 0) 0)) ∧
      Instr.roleOk (.vmov (ops (.v 8) (.v 0) (.v 0) (.v 0) 0)) (me v).g = true ∧
      Instr.beyond (.vmov (ops (.v 8) (.v 0) (.v 0) (.v 0) 0)) (me v).g = true) ∧
    (good p = true ∧ (lineWord (lineAt p)).reserved = 0 ∧ (me p).f.byTransfer = false ∧
      decode (lineSlot (lineAt p) (me p).f.pc.slot) = .ok (.vmov (ops (.v 8) (.v 0) (.v 0) (.v 0) 0)) ∧
      Instr.roleOk (.vmov (ops (.v 8) (.v 0) (.v 0) (.v 0) 0)) (me p).g = true ∧
      Instr.beyond (.vmov (ops (.v 8) (.v 0) (.v 0) (.v 0) 0)) (me p).g = false ∧
      pairFails (lineAt p) (me p).f.pc.slot (me p).g (.vmov (ops (.v 8) (.v 0) (.v 0) (.v 0) 0)) = true) ∧
    (good (enter t) = true ∧ (me (enter t)).entering = true ∧ (lineWord (lineAt (enter t))).target.getLsbD (me (enter t)).f.pc.slot = false) ∧
    (good m = true ∧ (me m).entering = true ∧ (lineWord (lineAt m)).target.getLsbD (me m).f.pc.slot = true ∧
      (lineWord (lineAt m)).reserved ≠ 0) := by decide +kernel

/-! ### Operate forms -/

/-- The checks of operands and consumers pass, and fail where an open region meets a network consumer. -/
theorem witness_ChecksPass : Passes base (me base) (scalShape (ops (.s 1) (.s 2) .imm (.v 0) 7)) ∧
    passB (gr (fun g => { g with tryR := some openRegion }) base)
      (me (gr (fun g => { g with tryR := some openRegion }) base))
      ⟨⟨true, false, false, false, false, true⟩, .v 1, 0, [], 0⟩ = false :=
  ⟨passes (by decide +kernel), by decide +kernel⟩

theorem witness_ScalarFormsComplete :
    let s := sregs [(2, -1), (3, 64)] base
    Issues s (me s) ∧ Passes s (me s) (scalShape (ops (.s 63) (.s 2) (.s 3) (.v 0) 0)) :=
  ⟨issues (by decide +kernel), passes (by decide +kernel)⟩

theorem witness_ScalarResultFrame :
    let x := ops (.s 63) (.s 2) (.s 3) (.v 0) 0
    base.who? (me base).gid (me base).fid = some (me base) ∧ x.cm.mxq = false ∧ x.cm.queue = false ∧
      ∃ t, scalarDone base (me base) x 5 = .next t := ⟨by decide +kernel, rfl, rfl, _, rfl⟩

/-- The five groups of vector forms, with four vector sources. -/
theorem witness_VectorFormsComplete :
    let x := ops (.v 255) (.v 2) (.v 3) (.v 4) 0
    Issues base (me base) ∧ Passes base (me base) (vecShape (me base) x [x.a, x.b]) ∧
      Passes base (me base) (vecShape (me base) x [x.a, x.b, x.c]) ∧ Passes base (me base) (vecShape (me base) x [x.a]) ∧
      Passes base (me base) (vecShape (me base) x []) ∧ Passes base (me base) (vecShape (me base) x [x.b]) :=
  ⟨issues (by decide +kernel), passes (by decide +kernel), passes (by decide +kernel), passes (by decide +kernel),
    passes (by decide +kernel), passes (by decide +kernel)⟩

theorem witness_VectorResultFrame :
    let x := ops (.v 255) (.v 2) (.v 3) (.v 4) 0
    base.who? (me base).gid (me base).fid = some (me base) ∧ x.cm.queue = false ∧ queuesIn [x.a, x.b] = [] ∧
      ∃ t, lanesDone base (me base) x [x.a, x.b] (fun _ => 1) (fun _ => 0) = .next t :=
  ⟨by decide +kernel, rfl, rfl, _, rfl⟩

/-- A pair whose compute group pops queue 0 and pushes queue 7. -/
theorem witness_QueueTraffic :
    let s := queued 0 [1, 2] (pair base)
    ∃ h, s.who? (me s).gid (me s).fid = some (me s) ∧ s.windowHolder (me s) = some (0, h) ∧ s.groups.get 0 = some h ∧
      s.partnerAtExit (me s) = false ∧ (0 : Nat) ≠ 7 :=
  ⟨_, by decide +kernel, rfl, rfl, by decide +kernel, by decide⟩

theorem witness_LaneScalarFormsComplete :
    let x := ops (.s 6) (.v 2) (.v 3) (.v 0) 0
    Issues base (me base) ∧ Passes base (me base) (vecShape (me base) x [x.a, x.b]) ∧
      Passes base (me base) (vecShape (me base) x [x.a]) ∧ Passes base (me base) (vecShape (me base) x []) ∧
      (∀ fl, NoEnabledFlag (me base) x fl) ∧ (1 : W32) ≠ 0 :=
  ⟨issues (by decide +kernel), passes (by decide +kernel), passes (by decide +kernel), passes (by decide +kernel),
    fun _ => no_flag _ _ (by decide +kernel), by decide⟩

theorem witness_FloatAndNarrowForms :
    let x := ops (.v 1) (.v 2) (.v 3) (.v 4) 0
    let y := ops (.v 1) (.v 2) (.v 0) (.v 0) 9
    Issues base (me base) ∧ Passes base (me base) (vecShape (me base) x [x.a, x.b]) ∧
      Passes base (me base) (vecShape (me base) x [x.a, x.b, x.c]) ∧ Passes base (me base) (vecShape (me base) x [x.a]) ∧
      (∀ x fl, NoEnabledFlag (me base) x fl) ∧ NumFmt.ofCode (immField y.imm 0 4) = some .bs8i ∧
      Passes base (me base) (vecShape (me base) y [y.a, y.b]) :=
  ⟨issues (by decide +kernel), passes (by decide +kernel), passes (by decide +kernel), passes (by decide +kernel),
    fun _ _ => no_flag _ _ (by decide +kernel), by decide, passes (by decide +kernel)⟩

/-- +inf added to -inf with the invalid trap enabled. -/
theorem witness_FloatAndNarrowForms_trap :
    let s := fr (fun f => { f with fmt := 0x10000 }) (vregs [(2, 0x7F800000), (3, 0xFF800000)] base)
    let x := ops (.v 1) (.v 2) (.v 3) (.v 0) 0
    Issues s (me s) ∧ Passes s (me s) (vecShape (me s) x [x.a, x.b]) ∧
      ¬ NoEnabledFlag (me s) x (fun l => (addF32 (formMode .fmt (me s).f.fmt) (fmtFZ (me s).f.fmt) (s.srcV (me s) x.imm x.a l)
        (s.srcV (me s) x.imm x.b l)).2) :=
  ⟨issues (by decide +kernel), passes (by decide +kernel), by unfold NoEnabledFlag; decide +kernel⟩

/-- Legal and reserved format codes in s2 and in IMM, and the checks of GETFMT. -/
theorem witness_FormatRegisterAndFlags :
    let a := sregs [(2, 0x99)] base
    let b := sregs [(2, 0xA0)] base
    let y (imm : W32) := args (.s 2) (.v 0) (.v 0) imm
    (Issues a (me a) ∧ ((a.srcS (me a) 0 (.s 2)).setWidth 32).toNat % 16 < 10 ∧
      ((a.srcS (me a) 0 (.s 2)).setWidth 32).toNat / 16 % 16 < 10) ∧
    (Issues b (me b) ∧ ¬ ((b.srcS (me b) 0 (.s 2)).setWidth 32).toNat / 16 % 16 < 10) ∧
    ((y 0x45243).imm.toNat % 16 < 10 ∧ (y 0x45243).imm.toNat / 16 % 16 < 10 ∧ ¬ (y 0xA).imm.toNat % 16 < 10) ∧
    Passes base (me base) (scalShape (ops (.s 1) (.v 0) (.v 0) (.v 0) 0)) :=
  ⟨⟨issues (by decide +kernel), by decide +kernel⟩, ⟨issues (by decide +kernel), by decide +kernel⟩, by decide,
    passes (by decide +kernel)⟩

theorem witness_OperateFormsFrame :
    let x := ops (.v 1) (.v 2) (.v 3) (.v 0) 0
    base.cur = some ⟨0, 0⟩ ∧ isOperate (.vadd .us x) = true ∧ Instr.payload (.vadd .us x) = some (.v x) ∧
      x.cm.cpq = false ∧ x.cm.red = false ∧ x.cm.net = false ∧ ∃ t, exec (.vadd .us x) base = .next t :=
  ⟨rfl, rfl, rfl, rfl, rfl, rfl, next_of (by decide +kernel)⟩

/-! ### Control -/

/-- Slot 0 of the group's own line is a target: the branch, the call, DJNZ with counts 2 and 1, both sides of a BRC, and RET. -/
theorem witness_TransfersComplete :
    let s := sregs [(1, 2), (2, 1), (3, 0x10000)] base
    let x : BArgs := ⟨.s 5, .s 1, 0, 0⟩
    Issues s (me s) ∧ (me s).f.dormant = [] ∧
      Lands s (me s) ((me s).f.pc.line + BitVec.ofInt 64 (64 * x.lineOff.toInt) + BitVec.ofNat 64 (12 * x.slot.toNat))
        ⟨0x10000, 0⟩ ∧
      (me s).g.s? 1 ≠ 1 ∧ (me s).g.s? 2 = 1 ∧ 0 < (s.srcS (me s) 0 (.s 1)).toInt ∧ ¬ (s.srcS (me s) 0 (.s 1)).toInt ≤ 0 ∧
      Lands s (me s) (s.srcS (me s) 0 (.s 3)) ⟨0x10000, 0⟩ :=
  ⟨issues (by decide +kernel), by decide +kernel, lands (by decide +kernel), by decide +kernel, by decide +kernel,
    by decide +kernel, by decide +kernel, lands (by decide +kernel)⟩

/-- Slot 1 of the line is no target, and address 5 no slot; values at which each condition of BRC and BRS takes, BRS in the last
slice alone; a dormant slice. -/
theorem witness_TransfersTrap :
    let s := sregs [(1, 2), (3, 5), (4, 1), (6, -1), (7, 0x10000000), (8, 0xF0000000), (9, 0x0FFFFFFF), (10, 0xEFFFFFFF)] base
    let d := fr (fun f => { f with dormant := [(7, ⟨0x10000, 3⟩)] }) base
    let v (n : BitVec 6) : W64 := s.srcS (me s) 0 (.s n)
    let bits (n : BitVec 6) (j : Nat) : Nat := (v n).toNat / 2 ^ (4 * j) % 16
    let x : BArgs := ⟨.v 0, .s 1, 0, 1⟩
    (Issues s (me s) ∧ (me s).f.dormant = [] ∧
      Pc.ofAddr ((me s).f.pc.line + BitVec.ofInt 64 (64 * x.lineOff.toInt) + BitVec.ofNat 64 (12 * x.slot.toNat)) =
        some ⟨0x10000, 1⟩ ∧
      s.fetchLine (me s).g.ctx (me s).g.core 0x10000 = .ok (lineAt s) ∧ lineCheckOk (lineAt s) = true ∧
      (lineWord (lineAt s)).target.getLsbD 1 = false ∧ s.srcS (me s) 0 (.s 1) ≠ 0 ∧ (me s).g.s? 1 ≠ 1) ∧
    Pc.ofAddr (s.srcS (me s) 0 (.s 3)) = none ∧ (Issues d (me d) ∧ (me d).f.dormant ≠ []) ∧
    ((v 0).toInt = 0 ∧ (v 4).toInt ≠ 0 ∧ (v 6).toInt < 0 ∧ 0 ≤ (v 0).toInt ∧ 0 < (v 4).toInt ∧ (v 0).toInt ≤ 0) ∧
    ((me s).f.slices.getLsbD 7 = true ∧ bits 7 7 ≠ 0 ∧ bits 8 7 = 15 ∧ bits 9 7 = 0 ∧ bits 10 7 ≠ 15) :=
  ⟨⟨issues (by decide +kernel), by decide +kernel⟩, by decide +kernel, ⟨issues (by decide +kernel), by decide +kernel⟩,
    by decide +kernel, by decide +kernel⟩

/-- No slice, every slice and slice 0 alone taken below fork depth 8; slice 0 at fork depth 8; a full stack of records. -/
theorem witness_PartingBranch :
    let forks (n : Nat) : List Rec := (List.range n).map (fun k => Rec.fork k 0)
    let parks (n : Nat) : List Rec := (List.range n).map (fun k => Rec.park (20 + k) 0 1 ⟨0x10000, 1⟩ 0 false)
    let st (m : W64) (l : List Rec) : State := fr (fun f => { f with stack := l }) (sregs [(9, m)] base)
    let takes (s : State) (m : Nat) (t : BitVec 8) : Prop :=
      ∀ j, j < 8 → t.getLsbD j = ((me s).f.slices.getLsbD j && (m / 2 ^ (4 * j) % 16 != 0))
    let goes (s : State) : Prop := Issues s (me s) ∧ (me s).f.dormant = [] ∧ Lands s (me s) 0x10000 ⟨0x10000, 0⟩
    (goes (st 0 []) ∧ takes (st 0 []) 0 0) ∧
    (goes (st 0xFFFFFFFF (forks 7)) ∧ takes (st 0xFFFFFFFF (forks 7)) 0xFFFFFFFF 0xFF) ∧
    (goes (st 1 (forks 7)) ∧ takes (st 1 (forks 7)) 1 1 ∧ (me (st 1 (forks 7))).g.frag? ((st 1 (forks 7)).nextId + 1) = none) ∧
    (goes (st 1 (forks 8)) ∧ takes (st 1 (forks 8)) 1 1 ∧ (forks 8).length < 16) ∧
    (goes (st 0 (parks 8 ++ forks 8)) ∧ takes (st 0 (parks 8 ++ forks 8)) 0 0 ∧ (parks 8 ++ forks 8).length = 16) := by
  refine ⟨⟨⟨issues ?_, ?_, lands ?_⟩, ?_⟩, ⟨⟨issues ?_, ?_, lands ?_⟩, ?_⟩, ⟨⟨issues ?_, ?_, lands ?_⟩, ?_⟩,
    ⟨⟨issues ?_, ?_, lands ?_⟩, ?_⟩, ⟨⟨issues ?_, ?_, lands ?_⟩, ?_⟩⟩ <;> decide +kernel

end Sys2Proof.Tests
end

