-- ==== Sys2Proof/Tests/Witness2.lean ====
section
/-! SUPPORT. For each statement about joins, exits and memory, states that meet its hypotheses, clause by clause. -/

namespace Sys2Proof.Tests

open Sys2Proof Sys2Proof.Machine

set_option Elab.async false

/-! ### Control -/

/-- The fragment with these records. -/
def stacked (l : List Rec) (s : State) : State := fr (fun f => { f with stack := l }) s

/-- A second fragment of the group, with slices 4-7. -/
def other (l : List Rec) : Frag := { Frag.first 5 ⟨0x10000, 2⟩ with slices := 0xF0, stack := l }

/-- No record; a record bound elsewhere; a record of this fragment alone; one that another fragment holds too; a park entry
whose slices have run, one with none parked, and one with slices still to run. -/
theorem witness_JoiningAndSkipping :
    let x := args (.v 0) (.v 0) (.v 0) 0xFFFF
    let ok (s : State) : Bool := issueB s (me s) && (me s).f.dormant.isEmpty
    let fits (s : State) (id : Nat) : Prop := (me s).g.bound id = none ∨ (me s).g.bound id = some (0xFFFF, (me s).f.pc)
    let a := stacked [.fork 7 9] base
    let b := gr (fun g => { g with bindings := [(7, 3, ⟨0x10000, 0⟩)] }) a
    let two := gr (fun g => { g with frags := g.frags ++ [other [.fork 7 9]], bindings := [(7, 0xFFFF, ⟨0x10000, 0⟩)] }) a
    let p (parked : BitVec 8) (ran : Bool) := stacked [.park 8 9 parked ⟨0x10000, 1⟩ 1 ran] base
    x.imm.toNat % 2 ^ 16 = 0xFFFF ∧ (ok base = true ∧ (me base).f.stack = []) ∧ (ok b = true ∧ ¬ fits b 7) ∧
    (ok a = true ∧ fits a 7 ∧ (∀ f ∈ (me a).g.frags, f.id ≠ (me a).fid → Rec.fork 7 9 ∉ f.stack) ∧
      ∀ f ∈ (me a).g.frags, ∀ v : W32, Rec.fork 7 v ∈ f.stack → v = 9) ∧
    (ok two = true ∧ fits two 7 ∧ ∃ f ∈ (me two).g.frags, f.id ≠ (me two).fid ∧ Rec.fork 7 9 ∈ f.stack) ∧
    (ok (p 0xFF true) = true ∧ fits (p 0xFF true) 8) ∧ (ok (p 0 false) = true ∧ fits (p 0 false) 8) ∧
    (ok (p 0xF0 false) = true ∧ fits (p 0xF0 false) 8) := by
  refine ⟨?_, ?_, ?_, ⟨?_, ?_, ?_, fun f hf v hv => ?_⟩, ?_, ?_, ?_, ?_⟩
  case refine_7 =>
    rw [show (me (stacked [.fork 7 9] base)).g.frags = [{ Frag.first 0 ⟨0x10000, 0⟩ with stack := [.fork 7 9] }] from by
      decide +kernel] at hf
    simp only [List.mem_singleton] at hf
    subst hf
    simpa using hv
  all_goals decide +kernel

/-- In a region; with another fragment; as the group's last. -/
theorem witness_ExitAndYield :
    let ok (s : State) : Bool := issueB s (me s) && (me s).f.dormant.isEmpty
    let r := inRegion openRegion base
    let two := gr (fun g => { g with frags := g.frags ++ [other []] }) (stacked [.fork 3 0] base)
    (ok r = true ∧ (me r).g.tryR.isSome) ∧
    (ok two = true ∧ (me two).g.tryR = none ∧ (me two).f.stack = [.fork 3 0] ∧ 1 < (me two).g.frags.length) ∧
    (ok base = true ∧ (me base).g.tryR = none ∧ (me base).f.stack = [] ∧ (me base).g.frags = [(me base).f]) := by
  decide +kernel

/-! ### Memory -/

/-- Performed at issue: a store of 8 bytes that starts 5 bytes before the end of a line, lane by lane; and logged: a load with
LA 15. -/
theorem witness_AccessFormsComplete :
    let s := sregs [(1, 0x2007B)] base
    let st := mem 0 (.v 0) (.s 1) (.v 6) 0
    let ld := mem 15 (.v 4) (.s 1) (.v 0) 0
    let a := (⟨8, .store, plain, false⟩ : AccForm)
    let b := (⟨4, .load, plain, false⟩ : AccForm)
    (Issues s (me s) ∧ accForm (.st .b64 st) = some a ∧ AccessReady s (me s) (.st .b64 st) st a ∧
      atOnce s (me s) (.st .b64 st) st a = true ∧
      (s.afterPaths (me s)).overlapsSide 0 (me s).g.who (s.lanesOf (me s) (.st .b64 st) st false) 8 = false ∧ s.mem.poison = [] ∧
      ∃ l, (s.afterPaths (me s)).resolveLanes 0 (me s).g a (s.lanesOf (me s) (.st .b64 st) st false) = .ok l) ∧
    (accForm (.ld .b32 ld) = some b ∧ AccessReady s (me s) (.ld .b32 ld) ld b ∧ atOnce s (me s) (.ld .b32 ld) ld b = false) :=
  ⟨⟨issues (by decide +kernel), rfl, ready (by decide +kernel), by decide +kernel, by decide +kernel, rfl,
      ok_of (by decide +kernel)⟩,
    rfl, ready (by decide +kernel), by decide +kernel⟩

/-- A load and an atomic of a poisoned byte that the L1 holds no copy of. -/
theorem witness_AccessFormsTrap_poison :
    let p : Poison := ⟨0, 0x400, List.replicate 128 false, 0⟩
    let s := sregs [(1, 0x2007C)] { base with mem := { base.mem with poison := [p] } }
    let x := mem 0 (.v 4) (.s 1) (.v 0) 0
    let a := (⟨4, .load, plain, false⟩ : AccForm)
    let b := (⟨4, .atomic true, plain, false⟩ : AccForm)
    let eaten (i : Instr) (f : AccForm) : Bool := match s.resolveLanes 0 (me s).g f (s.lanesOf (me s) i x false) with
      | .ok l => l.any (fun e => e.2.any (fun y => isPoisoned s.mem.poison y && (match y with
          | .spa n => ((s.cores.get 0).bind (fun c => c.copy? (n / 128))).isNone
          | _ => true)))
      | .error _ => false
    (Issues s (me s) ∧ accForm (.ld .b32 x) = some a ∧ AccessReady s (me s) (.ld .b32 x) x a ∧
      atOnce s (me s) (.ld .b32 x) x a = true ∧ (me s).f.afterJoin = false ∧ eaten (.ld .b32 x) a = true) ∧
    (accForm (.atom .add x) = some b ∧ AccessReady s (me s) (.atom .add x) x b ∧ atOnce s (me s) (.atom .add x) x b = true ∧
      eaten (.atom .add x) b = true) :=
  ⟨⟨issues (by decide +kernel), rfl, ready (by decide +kernel), by decide +kernel⟩,
    rfl, ready (by decide +kernel), by decide +kernel⟩

/-- Scratchpad addresses: the last eight bytes of the group's own window, and those after them; of a task's SRAM of 4 KiB; of the one
bank of two that its context holds at home. -/
theorem witness_AccessFormsTrap_scratchpads :
    let s : State := { cx (fun c => { c with held := { c.held with units := { c.held.units with bank := [0] } } }) base with
      tasks := base.tasks.upd 0 (fun t => { t with launch := { t.launch with csram := 4096, banks := 2 } }) }
    let seat := s.seat 0 (me s).g 0
    let k : AccessKind := ⟨8, true, true⟩
    let plain8 : AccessKind := ⟨8, true, false⟩
    let c (a : W64) (k : AccessKind) (n : Option Nat) : Bool := match s.checkLane seat a k, n with
      | .ok _, none => true
      | .error m, some n => m == n
      | _, _ => false
    (apertureOf 0xFF100000007F7FF8 = .core ∧ (s.whoGroup seat 127).isSome = true ∧ c 0xFF100000007F7FF8 k none = true ∧
      c 0xFF100000007F7FFC plain8 (some 0x13) = true ∧ c 0xFF100000007F81F8 k none = true ∧ c 0xFF100000007F81FC plain8 (some 0x13) = true ∧
      c 0xFF100000007F7FF4 k (some 0x10) = true ∧ c 0xFF10000000807FF8 plain8 (some 0x13) = true) ∧
    (apertureOf 0xFF20000000000FF8 = .cluster ∧ c 0xFF20000000000FF8 k none = true ∧ c 0xFF20000000000FFC plain8 (some 0x13) = true ∧
      c 0xFF20000000000FF4 k (some 0x10) = true) ∧
    (apertureOf 0xFF3000000003FFF8 = .chip ∧ c 0xFF3000000003FFF8 k none = true ∧ c 0xFF3000000003FFFC plain8 (some 0x13) = true ∧
      c 0xFF30010000000000 plain8 (some 0x13) = true ∧ c 0xFF30000000000004 k (some 0x10) = true) := by decide +kernel

/-- A load beyond every region; and addresses at the bounds of what one lane's check finds. -/
theorem witness_AccessFormsTrap :
    let s := sregs [(1, 0x40000000)] base
    let x := mem 0 (.v 4) (.s 1) (.v 0) 0
    let k : AccessKind := ⟨8, true, true⟩
    let seat := s.seat 0 (me s).g 0
    (Issues s (me s) ∧ (me s).g.tryR = none ∧ (me s).wideUnprotected (.ld .b32 x) x = false ∧
      Passes s (me s) (accShape (me s) x ⟨4, .load, plain, false⟩) ∧
      s.checkLanes 0 (me s).g ⟨4, false, false⟩ (s.lanesOf (me s) (.ld .b32 x) x false) = .error (0x07, 0x40000000)) ∧
    (apertureOf 0x4000000000000000 = .none ∧ apertureOf 0xFFFFFFFFFFFFFC = .global ∧ 2 ^ 56 < 0xFFFFFFFFFFFFFC + k.bytes) ∧
    (s.checkLane seat 0x20004 k = .error 0x10 ∧ s.checkLane seat 0x3FFFFFFC ⟨8, true, false⟩ = .error 0x07) ∧
    (apertureOf 0xFF00000000000000 = .priv ∧ s.checkLane seat 0xFF000000FFFFFFFC k = .error 0x12 ∧
      s.checkLane seat 0xFF0000000000FFFC k = .error 0x0D ∧ s.checkLane seat 0xFF0000000000FFF8 k = .error 0x11) :=
  ⟨⟨issues (by decide +kernel), by decide +kernel, by decide +kernel, passes (by decide +kernel), by decide +kernel⟩,
    by decide +kernel, by decide +kernel, by decide +kernel⟩

theorem witness_LoadedAtomicAndFloatValues :
    ([0x80] : List Byte).length = 1 ∧ ([0, 0x80] : List Byte).length = 2 ∧ ([1, 2, 3, 0x84] : List Byte).length = 4 ∧
      ([1, 2, 3, 4, 5, 6, 7, 8] : List Byte).length = 8 ∧ (List.replicate 16 (255 : Byte)).length = 16 := by decide

/-- The least, the greatest and a middle finite value of each format; FP32 values at which the estimates' clauses apply; a NaN. -/
theorem witness_LoadedAtomicAndFloatValues_finite :
    (finPat fp32 1 ∧ finPat fp32 0x7F7FFFFF ∧ finPat fp32 0xFF7FFFFF ∧ finPat bf16 0x7F7F ∧ finPat fp16 0x7BFF ∧ finPat e4m3 0x7E ∧
      finPat e5m2 0xFB) ∧
    ((2 : ℚ) ^ (-128 : Int) < |patVal fp32 0x00200001| ∧ |patVal fp32 0x7E800000| ≤ 2 ^ (126 : Int)) ∧
    (0 < patVal fp32 1 ∧ patVal fp32 0xC3150000 = (-149 : Int) ∧ patVal fp32 1 = 2 ^ (-149 : Int)) ∧
    (0x7F800000 < (0x7F800001 : W32).toNat % 2 ^ 31) := by
  refine ⟨by unfold finPat; decide, ⟨?_, ?_⟩, ⟨?_, ?_, ?_⟩, by decide⟩ <;> norm_num [patVal, fp32]

/-- Operands of the narrow forms: finite ones of two float formats, with a scale of 127, whose exact value lies in the destination's
range; products and sums in range. -/
theorem witness_LoadedAtomicAndFloatValues_narrow :
    (floatOf .e4m3 = some e4m3 ∧ floatOf .bs8e = some e4m3 ∧ floatOf .f32 = some fp32 ∧ (NumFmt.isBlock .bs8e && NumFmt.isBlock .f32) = false ∧
      (127 : W32).toNat % 256 ≠ 255 ∧ finPat e4m3 ((0x38 : W32).toNat % 2 ^ e4m3.width)) ∧
    |patVal e4m3 0x38| ≤ patVal fp32 fp32.maxBits ∧
    (finPat bf16 0x3F80 ∧ |patVal bf16 0x3F80 * patVal bf16 0x3F80 + patVal bf16 0x3F80| ≤ patVal bf16 bf16.maxBits) ∧
    |patVal fp32 0 + patVal e5m2 0x3C * patVal e5m2 0x3C + patVal e5m2 0 * patVal e5m2 0 + patVal e5m2 0 * patVal e5m2 0 +
      patVal e5m2 0 * patVal e5m2 0| ≤ patVal fp32 0x7F7FFFFF := by
  refine ⟨by unfold finPat; decide, ?_, ⟨by unfold finPat; decide, ?_⟩, ?_⟩ <;> norm_num [patVal, fp32, bf16, e4m3, e5m2]

/-- The L1 of core 0 has room; with the line in it, its last byte and the first of the next line. -/
theorem witness_FillsAndStoredBytes :
    let t := (base.ensure 0 0 0x400 false).ensure 0 0 0x401 false
    let l : List Loc := [.spa 0x2007F, .spa 0x20080]
    (∃ c, base.cores.get 0 = some c ∧ c.l1.length < c.l1Capacity) ∧
      memsOk t = true ∧ l.Nodup ∧ ([1, 2] : List Byte).length = l.length ∧ Held t 0 l ∧ ∀ x ∈ l, Exists t x :=
  ⟨⟨_, rfl, by decide +kernel⟩, by decide +kernel, by decide, rfl, by unfold Held; decide +kernel, by simp [Exists]⟩

/-- A store into a line that the L1 holds. -/
theorem witness_StoreFrame :
    let s := sregs [(1, 0x20000)] (base.ensure 0 0 0x400 false)
    let x := mem 0 (.v 0) (.s 1) (.v 6) 0
    let i := Instr.st .b32 x
    let a := (⟨4, .store, plain, false⟩ : AccForm)
    Issues s (me s) ∧ accForm i = some a ∧ opMArgs i = some x ∧ AccessReady s (me s) i x a ∧ (me s).f.afterJoin = false ∧
      x.cm = Consumers.none ∧ a.attrs.order = .relaxed ∧ a.attrs.hint = .normal ∧
      s.overlapsSide (me s).gid (me s).g.who (s.lanesOf (me s) i x a.scalar) a.bytes = false ∧
      (∃ l, s.resolveLanes (me s).gid (me s).g a (s.lanesOf (me s) i x a.scalar) = .ok l ∧ Held s 0 (l.flatMap (·.2))) ∧
      ∃ t, exec i s = .next t :=
  ⟨issues (by decide +kernel), rfl, rfl, ready (by decide +kernel), by decide +kernel, rfl, rfl, rfl,
    by decide +kernel, resolved (by decide +kernel), next_of (by decide +kernel)⟩

theorem witness_AddressForms :
    let x := mem 0 (.v 254) (.s 1) (.v 0) 0xFFFFFFFF
    let y : MArgs := { x with cm := toReg }
    Issues base (me base) ∧ base.heldUnits (me base).g.core < 4 ∧ base.logged (me base).g.core < 48 ∧
      (me base).g.unprotected 255 = false ∧ Passes base (me base) ⟨y.cm, y.d, 0, queuesIn [y.b], (me base).active y.msk⟩ ∧
      queuesIn [y.b] = [] :=
  ⟨issues (by decide +kernel), by decide +kernel, by decide +kernel, by decide +kernel, passes (by decide +kernel), rfl⟩

end Sys2Proof.Tests
end

