-- ==== Sys2Proof/Tests/Witness3.lean ====
section
/-! SUPPORT. For each statement about engines, order, tasks, blocks and regions, states that meet its hypotheses, clause by
clause. -/

namespace Sys2Proof.Tests

open Sys2Proof Sys2Proof.Machine

set_option Elab.async false

/-! ### Engines -/

/-- Copies that touch at an end, of one byte and of two rows; gathers into cluster SRAM by two lanes; a batch that is done, one
that is not, and the counters of WAITC. -/
theorem witness_CopyGatherAndCollective :
    let s := vregs [(2, 0x30000)] (sregs [(1, 0x20000), (2, 0x20080), (3, 128), (4, 0x0000000000000100), (5, 0x30000), (9, 3)] base)
    let x := args (.s 1) (.s 2) (.s 3) 0x00020040
    let y : Args := { args (.s 1) (.s 5) (.v 0) 0 with msk := 9 }
    let lanes (n : Nat) := ((List.range 32).filter ((me s).active 9).getLsbD).map (fun l =>
      (l, s.srcBase (me s) (.s 1) l, s.srcS (me s) 0 (.s 5) + BitVec.ofNat 64 (n * l)))
    let l := (List.range 2).map (fun i => (⟨0x20000 + BitVec.ofNat 64 i * 0, 0x20080 + BitVec.ofNat 64 i * 128, 64⟩ : Span))
    let room (s : State) : Bool := s.settled (me s).gid && s.copiesOf (me s).g.core < 64 && s.gathersOf (me s).g.core < 16 &&
      (me s).g.eng.gth < 255
    let closed (done : Bool) := gr (fun g => { g with eng := { g.eng with closed := [(5, [⟨8, .spans [], none, none, done⟩])] } }) s
    (freeB s = true ∧ room s = true ∧ s.engineCheck 0 (me s).g 0x20000 128 true = none ∧
      s.engineCheck 0 (me s).g 0x20080 128 false = none ∧ x.imm.toNat / 2 ^ 16 = 2 ∧ x.imm.toNat % 2 ^ 16 = 64) ∧
    s.copyFail (me s) (envelope (l.map (·.dst)) 64).1 (envelope (l.map (·.dst)) 64).2 (envelope (l.map (·.src)) 64).1
      (envelope (l.map (·.src)) 64).2 = none ∧
    (lanes 8 ≠ [] ∧ s.gatherFail (me s) false 4 (lanes 4) = none ∧ s.gatherFail (me s) true 8 (lanes 8) = none) ∧
    (passB s (me s) (scalShape (ops (.s 6) (.s 1) (.v 0) (.v 0) 0)) = true ∧ (me s).g.eng.closed.length < 32767) ∧
    (freeB (closed true) = true ∧ ∀ q ∈ (me (closed true)).g.eng.closed, ∀ k ∈ q.2, k.done = true ∧ k.refused = none) ∧
    (freeB (closed false) = true ∧ ∃ q ∈ (me (closed false)).g.eng.closed, (7 - q.1).toNat < 2 ^ 15 ∧ ∃ k ∈ q.2, k.done = false) ∧
    (∀ fn, (me s).g.eng.count fn ≤ y.imm.toNat % 2 ^ 8) ∧ (me s).g.eng.owed = [] := by
  refine ⟨?_, ?_, ?_, ?_, ?_, ?_, fun fn => ?_, ?_⟩
  case refine_7 => cases fn <;> decide +kernel
  all_goals decide +kernel

/-- A record of two participants, of whom rank 1 brings two words. -/
theorem witness_CopyGatherAndCollective_coll :
    let s := word 0x40000 4 2 (sregs [(1, 0x40000), (2, 0x20000), (3, 0x30000)] base)
    let s1 := State.cleanCore { s with nextId := s.nextId + 1 } 0 0
    let g := (me s).g
    freeB s = true ∧ s.settled 0 = true ∧ s.engineCheck 0 g 0x40000 64 true = none ∧ s.engineCheck 0 g 0x20000 8 false = none ∧
      s.engineCheck 0 g 0x30000 8 true = none ∧ s1.engineCheck 0 g 0x30000 (collBytes .gath 2 2) true = none ∧
      okAnd (s1.engineLocs 0 g 0x40000 64 .store) (fun r => s1.homeNat r 0 4 == 2 && s1.homeNat r 4 4 == 0) = true ∧
      okB (s1.engineLocs 0 g 0x20000 8 .load) = true ∧ g.eng.coll < 255 ∧ s.colls = [] := by decide +kernel

/-- Bytes under one translation are resolved by it. -/
theorem resolve_covered (s : State) (ctx core : Nat) (need : Need) (e : TlbEntry) (l : List Nat)
    (h : ∀ a ∈ l, e.covers ctx a = true) :
    s.resolve ctx core need (l.map .gva) (some e) = .ok (l.map (fun a => .spa (e.apply a))) := by
  induction l with
  | nil => rfl
  | cons a t ih =>
    simp only [List.map_cons, State.resolve, h a (by simp), if_true]
    rw [ih (fun b hb => h b (by simp [hb]))]

theorem range_covered (e : TlbEntry) (ctx : Nat) (n : Nat) : ∀ a, e.ctx = ctx → e.base ≤ a → a + n ≤ e.base + e.size →
    ∀ b ∈ range a n, e.covers ctx b = true := by
  induction n with
  | zero => intro a _ _ _ b hb; simp [range] at hb
  | succ n ih =>
    intro a hc h1 h2 b hb
    simp only [range, List.mem_cons] at hb
    rcases hb with rfl | hb
    · simp [TlbEntry.covers, hc]; omega
    · exact ih (a + 1) hc (by omega) (by omega) b hb

/-- A ring under one translation opens, and meets p, as a Bool: its bytes are not listed one by one. -/
def ringB (s : State) (w : Who) (ctl : W64) (p : RingAt → Bool) : Bool :=
  match s.engineLocs w.gid w.g ctl 64 .store with
  | .error _ => false
  | .ok l =>
    let r := s.ringBlock l
    let b : W64 := BitVec.ofNat 64 r.base
    match s.translate w.g.ctx w.g.core r.base .store with
    | .error _ => false
    | .ok e =>
      r.ok && (firstFail [s.engineCheck w.gid w.g b r.size true, regionFail (s.launchOf w.g.task) b r.size true]).isNone &&
        decide (apertureOf b = .global ∧ b.toNat = r.base ∧ r.base + r.size ≤ 2 ^ 56 ∧ 0 < r.size ∧ e.ctx = w.g.ctx ∧
          e.base ≤ r.base ∧ r.base + r.size ≤ e.base + e.size) &&
        p ⟨l, r, (range r.base r.size).map (fun a => .spa (e.apply a))⟩

theorem ring_opens {s : State} {w : Who} {ctl : W64} {p : RingAt → Bool} (i : Instr) (h : ringB s w ctl p = true) :
    ∃ r, s.openRing w i ctl = .ok r ∧ p r = true := by
  unfold ringB at h
  split at h
  · cases h
  · rename_i l hl
    simp only at h
    split at h
    · cases h
    · rename_i e he
      simp only [Bool.and_eq_true, Option.isNone_iff_eq_none, decide_eq_true_eq] at h
      obtain ⟨⟨⟨h1, h2⟩, h3, h4, h5, h6, h7, h8, h9⟩, h10⟩ := h
      refine ⟨_, ?_, h10⟩
      obtain ⟨n, hn⟩ : ∃ n, (s.ringBlock l).size = n + 1 := ⟨(s.ringBlock l).size - 1, by omega⟩
      have hb : s.engineLocs w.gid w.g (BitVec.ofNat 64 (s.ringBlock l).base) (s.ringBlock l).size .store =
          .ok ((range (s.ringBlock l).base (s.ringBlock l).size).map (fun a => .spa (e.apply a))) := by
        unfold State.engineLocs State.place
        simp only [h3, h4]
        rw [if_neg (by omega), hn]
        simp only [range, List.map_cons, State.resolve, he]
        rw [resolve_covered s _ _ _ e _ (range_covered e _ n _ h7 (by omega) (by omega))]
      unfold State.openRing
      simp only [hl, h1, h2, hb, Bool.not_true, Bool.false_eq_true, if_false]

/-- A ring of 4096 bytes with one ready record of 12 bytes at its start: a push that finds room, one that finds none, and the
pop of the record. -/
def ringState : State :=
  (((((((word 0x40000 8 0x50000 (sregs [(1, 0x40000), (2, 0x20000), (3, 12)] base)) |> word 0x40008 8 4096) |> word 0x40010 8 16)
    |> word 0x40018 8 0) |> word 0x40020 8 0) |> word 0x40028 8 16) |> word 0x50000 4 (headerOf false 0 12))

theorem witness_RingForms :
    let s := ringState
    let w := me s
    let s0 := s.freshBlock w 0x40000
    let full := word 0x40010 8 4096 s
    let x := ops (.s 6) (.s 1) (.s 2) (.s 3) 0
    (freeB s = true ∧ passB s w (scalShape x) = true ∧ s.ringCtlFail w 0x40000 = none ∧ s.settled 0 = true ∧
      s.engineCheck 0 w.g 0x20000 12 false = none ∧ s.engineCheck 0 w.g 0x20000 12 true = none ∧
      okB (s0.engineLocs 0 w.g 0x20000 12 .load) = true ∧ okB (s0.engineLocs 0 w.g 0x20000 12 .store) = true) ∧
    (∃ r, s0.openRing w (.rpush .nb x) 0x40000 = .ok r ∧ (decide (recordBytes 12 ≤ r.r.size / 2 ∧
      r.r.tail + recordBytes 12 ≤ r.r.done + r.r.size) && !s0.olderRing w true (ringKey r.ctl)) = true) ∧
    (∃ r, (full.freshBlock (me full) 0x40000).openRing (me full) (.rpush .nb x) 0x40000 = .ok r ∧
      decide (¬ r.r.tail + recordBytes 12 ≤ r.r.done + r.r.size) = true) ∧
    (∃ r, s0.openRing w (.rpop .nb x) 0x40000 = .ok r ∧ (
      let pos := s0.passSkips r (r.r.size / 8) r.r.head
      decide (pos < r.r.tail ∧ pos < r.r.ready ∧ headerLen (s0.headerAt r pos) = 12) &&
        !s0.olderRing w false (ringKey r.ctl)) = true) :=
  ⟨by decide +kernel, ring_opens _ (by decide +kernel), ring_opens _ (by decide +kernel), ring_opens _ (by decide +kernel)⟩

/-- A request that raises a cause, as a Bool. -/
def causeB {α : Type} (e : Except Stop α) : Bool := match e with | .error (.cause _ _) => true | _ => false

theorem cause_of {α : Type} {e : Except Stop α} (h : causeB e = true) : ∃ c tv, e = .error (.cause c tv) := by
  unfold causeB at h
  split at h
  · exact ⟨_, _, rfl⟩
  · cases h

/-- A push whose ring opens goes on where its record has room and nothing older waits, and waits otherwise. -/
theorem push_ends {s : State} {w : Who} {x : Args} {ctl src : W64} {len : Nat} {l : List Loc} (roomy : Bool)
    (h : s.engineLocs w.gid w.g src len .load = .ok l)
    (o : ∃ r, s.openRing w (.rpush .blocking x) ctl = .ok r ∧ (decide (len < 2 ^ 24 ∧ recordBytes len ≤ r.r.size / 2) &&
      (decide (r.r.done + r.r.size < r.r.tail + (if r.r.size - r.r.tail % r.r.size < recordBytes len then
        r.r.size - r.r.tail % r.r.size else 0) + recordBytes len) || s.olderRing w true (ringKey r.ctl)) == !roomy) = true) :
    (roomy = true → ∃ t, s.ringPush w .blocking x ctl src len = .ok t) ∧
      (roomy = false → ∃ t, s.ringPush w .blocking x ctl src len = .error (.wait .ring t)) := by
  obtain ⟨r, ho, hp⟩ := o
  simp only [Bool.and_eq_true, decide_eq_true_eq, beq_iff_eq] at hp
  obtain ⟨⟨h1, h2⟩, h3⟩ := hp
  unfold State.ringPush
  simp only [ho, h, if_neg (show ¬ (2 ^ 24 - 1 < len ∨ r.r.size / 2 < recordBytes len) by omega)]
  cases roomy <;> simp [h3]

/-- The same of a push that waits. -/
theorem retry_ends (s : State) (w : Who) (r : RingWait) (roomy : Bool) (hp : r.push = true)
    (h : okB ((s.freshBlock w r.block).engineLocs w.gid w.g r.buf r.len .load) = true)
    (o : ∃ q, (s.freshBlock w r.block).openRing w (.rpush .blocking r.x) r.block = .ok q ∧
      (decide (r.len < 2 ^ 24 ∧ recordBytes r.len ≤ q.r.size / 2) &&
        (decide (q.r.done + q.r.size < q.r.tail + (if q.r.size - q.r.tail % q.r.size < recordBytes r.len then
          q.r.size - q.r.tail % q.r.size else 0) + recordBytes r.len) ||
          (s.freshBlock w r.block).olderRing w true (ringKey q.ctl)) == !roomy) = true) :
    (roomy = true → ∃ t, s.retryRing w r = .ok t) ∧ (roomy = false → ∃ t, s.retryRing w r = .error (.wait .ring t)) := by
  unfold State.retryRing
  simp only [hp, if_true]
  exact push_ends roomy (ok_of h).choose_spec o

/-- A push that waits at the ring unit: with room, without, and at a block that holds no ring. -/
theorem witness_EnginesComplete_rings :
    let x := ops (.s 6) (.s 1) (.s 2) (.s 3) 0
    let r : RingWait := ⟨true, 0x40000, 0, 0, x, 0x40000, 0x20000, 12⟩
    let at_ (s : State) : State := fr (fun f => { f with status := .waiting .ring }) { s with rings := [r] }
    let s := at_ ringState
    let full := at_ (word 0x40010 8 4096 ringState)
    let bad := at_ base
    let there (s : State) : Bool := s.groups.get 0 == some (me s).g && s.onCore (me s).g && s.who? 0 0 == some (me s) &&
      s.ringOf (me s) == some r
    (there s = true ∧ ∃ t, s.retryRing (me s) r = .ok t) ∧ (there full = true ∧ ∃ t, full.retryRing (me full) r = .error (.wait .ring t)) ∧
    (there bad = true ∧ (me bad).g.hm = false ∧ ∃ c tv, bad.retryRing (me bad) r = .error (.cause c tv)) := by
  intro x r at_ s full bad there
  have one := retry_ends s (me s) r true rfl (by decide +kernel) (ring_opens _ (by decide +kernel))
  have two := retry_ends full (me full) r false rfl (by decide +kernel) (ring_opens _ (by decide +kernel))
  exact ⟨⟨by decide +kernel, one.1 rfl⟩, ⟨by decide +kernel, two.2 rfl⟩, by decide +kernel, by decide +kernel, cause_of (by decide +kernel)⟩

/-- Formats with a step shape and without, spans that are in order, and the last place of the queue. -/
theorem witness_MatrixForms :
    let s := fr (fun f => { f with fmt := 0x11 }) (sregs [(1, 0x20000), (2, 0x30000), (3, 0x0008000800040004)] base)
    let t := fr (fun f => { f with fmt := 0x12 }) s
    let full := gr (fun g => { g with eng := { g.eng with mx := 254, matrix := { g.eng.matrix with
      queue := List.replicate 31 ⟨3, .mxstep (args (.v 0) (.v 0) (.v 0) 0), 0, 0, 0, 0, 0, 0, none⟩ } } }) s
    let x := args (.s 1) (.s 2) (.s 3) 0x00000002
    let rec_ := word 0x4001C 4 0x3F800000 (gr (fun g => { g with trtab := 0x40000 }) s)
    (freeB s = true ∧ (me s).g.eng.matrix.queue.length < 32 ∧ (me s).g.eng.mx < 255 ∧ s.settled 0 = true) ∧
    (freeB full = true ∧ (me full).g.eng.matrix.queue.length < 32 ∧ (me full).g.eng.mx < 255) ∧
    (stepShape (me s).f.fmt = some ⟨32, 64, 64⟩ ∧ stepShape (me t).f.fmt = none) ∧
    (s.engineCheck 0 (me s).g 0x20000 ((2 - 1) * loopField 0x0008000800040004 2 + 31 * loopField 0x0008000800040004 0 + 64) false
      = none ∧ (0x20000 : W64).toNat % 4 = 0 ∧ loopField 0x0008000800040004 0 % 4 = 0) ∧
    (mxldBytes .acc (stepShape (me s).f.fmt) 32 = some 128 ∧ s.rowsFail (me s) 0x20000 256 32 128 false = none ∧
      s.rowsFail (me s) 0x20000 256 32 128 true = none ∧ s.rowsFail (me s) 0x30000 0 1 128 false = none) ∧
    (okAnd (rec_.tensorRecord (me rec_) (.mxst .cvt x)) (fun r => r.1 == 0x3F800000 && (cvtFmt r.2).isSome) = true ∧
      rec_.settled 0 = true) := by decide +kernel

/-- The shapes of QSCALE at both ends, without a held tile, and QCVT of a held one of one block. -/
theorem witness_MatrixForms_blocks :
    let s := sregs [(1, 0x20000), (2, 1024)] base
    let h : State := { s with halves := s.halves.upd 0 (fun h => { h with staging := some (0, .bs8e, [List.replicate 32 0]) }) }
    let x (imm : W32) := args (.s 1) (.s 2) (.v 0) imm
    (freeB s = true ∧ s.settled 0 = true ∧ s.stagedFor 0 (me s).g = none ∧
      s.rowsFail (me s) 0x20000 (s.strideOf (me s) (x 0x840)) 64 (128 * 8) false = none ∧
      s.rowsFail (me s) 0x20000 (s.strideOf (me s) (x 0x101)) 1 128 false = none) ∧
    (freeB h = true ∧ h.settled 0 = true ∧ h.stagedFor 0 (me h).g = some ⟨.bs8e, 1, 1⟩ ∧
      h.rowsFail (me h) 0x20000 (h.strideOf (me h) (x 0)) 1 33 true = none) := by decide +kernel

/-! ### Order -/

/-- A range of 200 bytes; no bytes in a region; a word that differs and one that is equal, in global memory and in the
group's own register window. -/
theorem witness_OrderingForms :
    let s := sregs [(1, 0x20000), (2, 200)] base
    let r := inRegion openRegion base
    let a : AccForm := ⟨4, .load, ⟨.group, .acquire, .normal, false, false⟩, true⟩
    (issueB s (me s) = true ∧ s.settled 0 = true ∧ (me s).g.tryR = none ∧ (s.srcS (me s) 0 (.s 2)).toNat ≠ 0 ∧
      regionFail (s.launchOf (me s).g.task) 0x20000 200 true = none) ∧
    (issueB r (me r) = true ∧ (me r).g.tryR ≠ none ∧ (r.srcS (me r) 0 (.s 2)).toNat = 0) ∧
    (s.mwaitCheck (me s) 0x20000 = .ok () ∧ s.heldUnits 0 < 4 ∧
      orderedBehind s.ops 0 (me s).g.who a [⟨(me s).f.lowLane, 0x20000, [], 0⟩] = false ∧ (me s).f.afterJoin = false ∧
      (s.afterPaths (me s)).readWord (me s) 0x20000 = .value 0 ∧ (0 : W32) ≠ (s.srcS (me s) 0 (.s 2)).setWidth 32 ∧
      (0 : W32) = (s.srcS (me s) 0 (.s 3)).setWidth 32 ∧ apertureOf 0x20000 = .global) := by decide +kernel

/-- A barrier of two groups of which none, or one, has arrived; a group that has arrived already; phases that are over. -/
theorem witness_BarrierForms :
    let launch (s : State) : State := { s with tasks := s.tasks.upd 0 (fun t => { t with launch := { t.launch with ncomp := 2 } }) }
    let bar (b : Barrier) (s : State) : State := { s with teams := s.teams.upd 0 (fun t => { t with barriers := setAt b t.barriers 0 b }) }
    let s := launch base
    let one := bar ⟨3, 1, 2, [9]⟩ s
    let again := bar ⟨3, 1, 2, [0]⟩ s
    let past := gr (fun g => { g with barWait := [⟨(me s).f.pc, 0, 2, false⟩], arrivals := [(0, 2)] }) one
    let ok (s : State) : Bool := freeB s && s.settled 0 && (s.teams.get 0).isSome
    let b (s : State) : Barrier := (s.teams.get 0).elim Barrier.fresh (fun t => barrierAt t 0)
    (ok s = true ∧ (me s).holdsAll = true ∧ (s.launchOf 0).ncomp = 2 ∧ (b s).count = 0 ∧ (b s).count + 1 ≠ 2 ∧ 0 ∉ (b s).arrived ∧
      (me s).g.barWait = []) ∧
    (ok one = true ∧ (b one).expected = 2 ∧ (b one).count + 1 = 2 ∧ 0 ∉ (b one).arrived) ∧
    (ok again = true ∧ 0 ∈ (b again).arrived) ∧
    (ok past = true ∧ (me past).g.barWait.find? (fun z => decide (z.pc = (me past).f.pc ∧ z.bar = 0 ∧ z.hm = (me past).g.hm)) = some ⟨(me past).f.pc, 0, 2, false⟩ ∧
      (b past).phase ≠ 2 ∧ (me past).g.arrivals.find? (fun e => e.1 == 0) = some (0, 2) ∧ (me past).holdsAll = true) ∧
    (me s).g.arrivals.find? (fun e => e.1 == 0) = none := by decide +kernel

/-! ### Tasks -/

/-- A valid record with three and with four tasks queued; quiet engines; a counter that has reached its target and one that
has not. -/
theorem witness_TaskForms :
    let s := launchAt 0x40000 (word 0x30000 8 7 (sregs [(1, 0x40000), (2, 0x30000), (3, 7), (4, 8)] base))
    let q (n : Nat) (s : State) : State := { s with teams := s.teams.upd 0 (fun t => { t with pendingQ := List.replicate n 50 }) }
    let w := me s
    let s1 := (s.release 0 w.g .device).acquire w.g .device
    let a : AccForm := ⟨8, .load, ⟨.device, .acquire, .normal, false, false⟩, true⟩
    let s0 := s.afterPaths w
    (freeB s = true ∧ s.settled 0 = true ∧ passB s w (scalShape (ops (.s 6) (.s 1) (.v 0) (.v 0) 0)) = true ∧
      s.enqFail w 0x40000 = none ∧ s1.mem.poison = [] ∧
      okAnd (s1.engineLocs 0 w.g 0x40000 512 .load) (fun l =>
        (parseLaunch (l.map s1.homeByte)).any (childOk (s.launchOf w.g.task))) = true) ∧
    (((q 3 s).teams.get 0).any (fun t => decide (t.pendingQ.length < 4) && !t.olderEnq 0 0) = true ∧
      ((q 4 s).teams.get 0).any (fun t => decide (4 ≤ t.pendingQ.length)) = true) ∧
    (w.g.eng.quiet = true ∧ w.g.partner = none) ∧
    (s.joinFail w 0x30000 = none ∧ s.droppedCause w = none ∧ s.heldUnits 0 < 4 ∧
      orderedBehind s.ops 0 w.g.who a [⟨w.f.lowLane, 0x30000, [], 0⟩] = false ∧ w.f.afterJoin = false ∧
      s0.readAt w 0x30000 8 = .value [7, 0, 0, 0, 0, 0, 0, 0] ∧ (s.srcS w 0 (.s 3)).toNat ≤ bytesNat [7, 0, 0, 0, 0, 0, 0, 0] ∧
      ¬ (s.srcS w 0 (.s 4)).toNat ≤ bytesNat [7, 0, 0, 0, 0, 0, 0, 0]) := by decide +kernel

/-! ### Blocks and regions -/

/-- A group of 16 blocks in an octet with 16 free: GROW by 0, 1, 16 and 17; SHRINK by 0, 15 and 16; a request before it; a
region; a pair and a group alone. -/
theorem witness_BlockForms :
    let s := sregs [(1, 16), (2, 17), (3, 1), (4, 15)] (gr (fun g => { g with blocks := 16, v := g.v.take 128 }) base)
    let busy : State := { s with cores := s.cores.upd 0 (fun c => { c with waiters := [(0, 7, 7)] }) }
    let r := inRegion openRegion s
    let x := ops (.s 6) (.s 1) (.v 0) (.v 0) 0
    let n (k : BitVec 6) : Nat := (s.srcS (me s) 0 (.s k)).toNat
    let p := pair base
    (freeB s = true ∧ passB s (me s) (scalShape x) = true ∧ n 5 = 0) ∧
    (n 1 ≠ 0 ∧ (me s).g.blocks + n 1 ≤ 32 ∧ s.blocksHeld (me s).g + n 1 ≤ 48 ∧ n 1 ≤ s.freeIn 0 0 ∧ s.olderWaiters (me s) = false) ∧
    (freeB busy = true ∧ busy.olderWaiters (me busy) = true) ∧ (n 2 ≠ 0 ∧ ¬ (me s).g.blocks + n 2 ≤ 32) ∧
    (n 4 < (me s).g.blocks ∧ s.pendingRegs 0 = false ∧ (me s).g.blocks ≤ n 1) ∧
    (issueB r (me r) = true ∧ (me r).g.tryR.isSome) ∧
    (issueB p (me p) = true ∧ (me p).g.partner.isSome ∧ passB p (me p) (scalShape x) = true) ∧ (me s).g.partner = none := by
  decide +kernel

/-- A label that is a target, nine registers in two more blocks; regions of depth 1 and 2; one slice missing. -/
theorem witness_RegionForms :
    let s := gr (fun g => { g with blocks := 8 }) base
    let x : Args := { args (.v 0) (.v 0) (.v 0) 0 with d := .s 9 }
    let in_ (d : Nat) := inRegion { openRegion with depth := d } base
    let part (s : State) := fr (fun f => { f with slices := 0x7F }) s
    (Issues s (me s) ∧ (me s).g.tryR = none ∧ Lands s (me s) (tryLabel (me s).f.pc x) ⟨0x10000, 0⟩ ∧
      (∀ n ∈ tryRegs x, n < 8 * (me s).g.blocks) ∧ (me s).holdsAll = true ∧
      s.blocksHeld (me s).g + (4 + ((tryRegs x).length + 7) / 8) ≤ 48 ∧
      4 + ((tryRegs x).length + 7) / 8 ≤ s.freeIn (me s).g.core (me s).g.octet ∧ s.olderWaiters (me s) = false) ∧
    (Issues (in_ 1) (me (in_ 1)) ∧ (me (in_ 1)).g.tryR = some { openRegion with depth := 1 } ∧ (me (in_ 1)).holdsAll = true) ∧
    (Issues (in_ 2) (me (in_ 2)) ∧ (me (in_ 2)).g.tryR = some { openRegion with depth := 2 } ∧ (me (in_ 2)).holdsAll = true) ∧
    (Issues (part (in_ 1)) (me (part (in_ 1))) ∧ (me (part (in_ 1))).holdsAll = false) :=
  ⟨⟨issues (by decide +kernel), by decide +kernel, lands (by decide +kernel), by decide +kernel⟩,
    ⟨issues (by decide +kernel), by decide +kernel⟩, ⟨issues (by decide +kernel), by decide +kernel⟩,
    ⟨issues (by decide +kernel), by decide +kernel⟩⟩

/-- A region of depth 1 with one buffered store, whose access is performed at COMMIT. -/
theorem witness_RegionForms_commit :
    let st := mem 0 (.v 0) (.s 1) (.v 6) 0
    let o : MemOp := { logged 4 (.st .b32 st) 0x20000 with stage := .sideLogged }
    let s := inRegion { openRegion with stores := [o] } base
    let s1 := ((gr (fun g => { g with tryR := none }) s).freeBlocks 0 0 4).putScalar (me s) (scalShape (ops (.s 6) (.v 0) (.v 0) (.v 0) 0)) 0
    Issues s (me s) ∧ (me s).g.tryR = some { openRegion with stores := [o] } ∧ (me s).holdsAll = true ∧ o.pins = [] ∧ o.lanes ≠ [] ∧
      (∀ y ∈ o.lanes, apertureOf y.addr ≠ .core) ∧ (∀ p ∈ s.ops, p.gid ≠ 0) ∧
      (accForm o.instr).any (fun a => match s1.perform 0 (me s1).g o.instr a (fun _ b => b) o.lanes with
        | .done _ _ => true
        | _ => false) = true ∧ (s1.groups.get 0).isSome = true :=
  ⟨issues (by decide +kernel), by decide +kernel⟩

/-- One lane's store and load in a region at the last bytes of a granule: with no load of its granule, with one, with 63 and with 64
other lines buffered, with seven and with eight other granules loaded. -/
theorem witness_RegionForms_accesses :
    let line (k : Nat) : Nat × Nat × Nat × Byte := (0, 64 * (0x2000 + k), 0, 1)
    let gran (k : Nat) : Nat × Nat × W64 := (0, 0, BitVec.ofNat 64 (0x30000 + k))
    let r (lines loads : Nat) (hit : Bool) : TryRegion := { openRegion with
      buffer := (List.range lines).map line,
      loads := (List.range loads).map gran ++ (if hit then [(0, 0, 0x4000)] else []),
      saved := [(6, 0, 9)] }
    let s (t : TryRegion) : State := inRegion t (sregs [(1, 0x20004), (5, 1)] base)
    let st : MArgs := { mem 0 (.v 0) (.s 1) (.v 6) 0 with msk := 5 }
    let ld : MArgs := { mem 0 (.v 4) (.s 1) (.v 0) 0 with msk := 5, attrs := { plain with spec := true } }
    let ok (t : TryRegion) (i : Instr) (x : MArgs) : Bool :=
      let s := s t
      let l := s.lanesOf (me s) i x false
      issueB s (me s) && opMArgs i == some x && (me s).g.tryR == some t && !(me s).wideUnprotected i x && l.length == 1 &&
        (accForm i).any (fun a => passB s (me s) (accShape (me s) x a) && okB (s.checkLanes 0 (me s).g a.kind l) &&
          !orderedBehind s.ops 0 (me s).g.who a l && !s.windowWaits (me s) a l && !a.scalar &&
          okAnd (s.resolveLanes 0 (me s).g a l) (fun q => q.length == 1)) &&
        decide (s.heldUnits 0 < 4) && decide (s.logged 0 < 48) && !(me s).f.afterJoin
    let locs : List Loc := [.spa 0x20004, .spa 0x20005, .spa 0x20006, .spa 0x20007]
    let new : List (Nat × Nat × Nat × Byte) := locs.map (fun z => (z.key.1, z.key.2, 0, 0))
    let used (t : TryRegion) (l : List (Nat × Nat × Nat × Byte)) : Nat := ((t.buffer ++ l).map (fun e => (e.1, e.2.1 / 64))).eraseDups.length
    (ok (r 63 0 false) (.st .b32 st) st = true ∧ used (r 63 0 false) new = 64) ∧
    (ok (r 64 0 false) (.st .b32 st) st = true ∧ used (r 64 0 false) new = 65) ∧
    (ok (r 64 0 true) (.st .b32 st) st = true ∧ used (r 64 0 true) [] ≤ 64 ∧
      ∃ z ∈ locs, ∃ e ∈ (r 64 0 true).loads, e.1 = 0 ∧ e.2.1 = z.key.1 ∧ e.2.2.toNat = z.key.2 / 8) ∧
    (r 64 0 true).saved.filter (fun e => e.1 == 6 && e.2.1 == 0) = [(6, 0, 9)] ∧
    (ok (r 0 7 false) (.ld .b32 ld) ld = true ∧ ((r 0 7 false).loads.filter (fun e => e.1 == 0)).length = 7) ∧
    (ok (r 0 8 false) (.ld .b32 ld) ld = true ∧ ((r 0 8 false).loads.filter (fun e => e.1 == 0)).length = 8) ∧
    ((accForm (.ld .b32 ld)).any (fun a => match (s (r 0 8 false)).performPast (me (s (r 0 8 false))).g.buffers 0
          (me (s (r 0 8 false))).g (.ld .b32 ld) a (fun _ b => b)
          ((s (r 0 8 false)).lanesOf (me (s (r 0 8 false))) (.ld .b32 ld) ld false) with
        | .done _ old => old.map (·.1) == [0]
        | _ => false) = true) := by decide +kernel

/-- A region that saved lane 31 of v255, in a group whose pending causes are none. -/
theorem witness_RegionAborts :
    let r : TryRegion := { openRegion with saved := [(255, 31, 6)], protected_ := [255] }
    let s := inRegion r base
    s.groups.get 0 = some (me s).g ∧ (me s).g.tryR = some r ∧ (me s).g.cause = 0 ∧ (me s).g.handling = none ∧
      r.saved.filter (fun e => e.1 == 255 && e.2.1 == 31) = [(255, 31, 6)] ∧
      r.saved.filter (fun e => e.1 == 255 && e.2.1 == 30) = [] := by decide +kernel

end Sys2Proof.Tests
end

