-- ==== Sys2Proof/Tests/Witness4.lean ====
section
/-! SUPPORT. For each statement about the market, the control registers, causes and waits, states that meet its hypotheses,
clause by clause. -/

namespace Sys2Proof.Tests

open Sys2Proof Sys2Proof.Machine

set_option Elab.async false

/-! ### Market and system -/

/-- A lease of one unit of each class at home, of die 0; before and after the publication; a reach of 2 and one of 3. -/
theorem witness_MarketForms :
    let hold : Holding := { Holding.none with units := PerClass.all [0] }
    let s := cx (fun c => { c with held := hold, next := hold }) (sregs [(1, 2), (2, 3)] base)
    let p : State := { s with market := { s.market with stage := .published } }
    let x (imm : W32) := ops (.s 6) (.s 1) (.s 2) (.v 0) imm
    let sel (c : Ctx) : Bool := c.home.toNat == coreDie 0 && c.moveTo.isNone &&
      [MktClass.clu, .bank, .way, .slot, .link].all (fun k => c.held.units.at_ k != [] && c.next.units.at_ k != [])
    (issueB s (me s) = true ∧ (me s).g.tryR = none ∧ (s.ctxs.get 0).any sel = true ∧ s.published = false) ∧
    (issueB p (me p) = true ∧ p.published = true) ∧
    ((s.srcS (me s) 0 (.s 1)).toNat % 4 ≠ 3 ∧ (s.srcS (me s) 0 (.s 2)).toNat % 4 = 3) ∧
    passB s (me s) (scalShape (x 3)) = true ∧ (x 3).imm.toNat % 4 = 3 ∧ (x 3).imm.toNat % 2 = 1 := by decide +kernel

/-- In handler mode, in a region of depth 2. -/
theorem witness_ControlRegisterReads :
    let s := gr (fun g => { g with hm := true, code := 0x7F }) (inRegion { openRegion with depth := 2 } base)
    issueB s (me s) = true ∧ passB s (me s) (scalShape (ops (.s 6) (.v 0) (.v 0) (.v 0) 0x032)) = true ∧
      (s.ctxs.get (me s).g.ctx).isSome = true ∧ (s.halves.get (halfNo (me s).g.core)).isSome = true ∧
      (me s).g.tryR.any (fun r => r.depth ≤ 2) = true ∧ (me s).g.hm = true := by decide +kernel

/-- Legal values for each register in handler mode; outside it. -/
theorem witness_ControlRegisterWrites :
    let s := sregs [(1, 0x10030)] base
    let h := gr (fun g => { g with hm := true }) s
    let x := args (.s 1) (.v 0) (.v 0) 0x002
    let red : W64 := 0x3FFFFFFFF80
    (issueB h (me h) = true ∧ (me h).g.tryR = none ∧ (me h).g.hm = true ∧ (h.ctxs.get (me h).g.ctx).isSome = true) ∧
    (issueB s (me s) = true ∧ (me s).g.hm = false) ∧ x.imm.toNat % 2 ^ 12 = 2 ∧
    (h.srcS (me h) 0 (.s 1)).toNat % 64 % 12 = 0 ∧ (h.srcS (me h) 0 (.s 1)).toNat % 64 < 60 ∧
    (me h).g.trtab.toNat % 64 = 0 ∧ red.toNat < 2 ^ 42 ∧ red.toNat % 128 = 0 := by decide +kernel

/-- Values that are refused: 0x1003C, which is no slot; 0x10020, no table's address; bit 42 and bit 6 in CR.RED; and numbers beside
those that are listed. -/
theorem witness_ControlRegisterWrites_refused :
    let s := sregs [(1, 0x1003C), (2, 0x10020), (3, 0x40000000000), (4, 64)] base
    let h := gr (fun g => { g with hm := true }) s
    let x := args (.s 1) (.v 0) (.v 0) 0x002
    let v (n : BitVec 6) : Nat := (h.srcS (me h) 0 (.s n)).toNat
    (issueB h (me h) = true ∧ (me h).g.tryR = none ∧ (me h).g.hm = true ∧ (h.ctxs.get (me h).g.ctx).isSome = true ∧
      ¬ (v 1 % 64 % 12 = 0 ∧ v 1 % 64 < 60) ∧ v 2 % 64 ≠ 0 ∧ 2 ^ 42 ≤ v 3 ∧ v 4 % 128 ≠ 0) ∧
    (issueB s (me s) = true ∧ (me s).g.hm = false) ∧
    Instr.wf (.ctlw .write x) = true ∧ Instr.wf (.ctlr (ops (.s 6) (.v 0) (.v 0) (.v 0) 3)) = true ∧
    (0 ∉ [0x001, 0x002, 0x003, 0x004, 0x006, 0x007, 0x030, 0x031, 0x032]) ∧
    (0x033 ∉ [0x000, 0x001, 0x002, 0x003, 0x004, 0x005, 0x006, 0x007, 0x010, 0x011, 0x012, 0x013, 0x020, 0x030, 0x031, 0x032]) := by
  decide +kernel

theorem witness_RestartPoints :
    let p := fr (fun f => { f with slices := 0x7F }) base
    (issueB base (me base) = true ∧ (me base).g.tryR = none ∧ (me base).holdsAll = true ∧ base.settled 0 = true) ∧
    (issueB p (me p) = true ∧ (me p).g.tryR = none ∧ (me p).holdsAll = false) := by decide +kernel

/-- With a handler at the group's own line; in a region. -/
theorem witness_SoftwareTraps :
    let s := cx (fun c => { c with trapvec := 0x10000 }) base
    let r := inRegion openRegion s
    (issueB s (me s) = true ∧ (me s).g.tryR = none ∧ (me s).g.hm = false ∧ (me s).g.access = false ∧ (me s).g.stopped = none ∧
      s.handlerPc (me s).g = some (⟨0x10000, 0⟩, false)) ∧ (issueB r (me r) = true ∧ (me r).g.tryR.isSome) := by decide +kernel

/-- A handler; in handler mode with cause 63 clear and pending; CR.TRAPVEC 0 with 503 records in the trap queue. -/
theorem witness_CauseTakenOrHeld :
    let s := cx (fun c => { c with trapvec := 0x10000 }) base
    let h (n : W64) := gr (fun g => { g with hm := true, cause := n }) s
    let full : State := { base with mgmt := { base.mgmt with traps := List.replicate 503 (noRegionRecord 0) } }
    (s.who? 0 0 = some (me s) ∧ (me s).g.hm = false ∧ (me s).g.stopped = none ∧ s.handlerPc (me s).g = some (⟨0x10000, 0⟩, false) ∧
      s.ops = []) ∧
    ((h 0).groups.get 0 = some (me (h 0)).g ∧ (me (h 0)).g.hm = true ∧ (me (h 0)).g.cause.getLsbD 63 = false) ∧
    (me (h 0x8000000000000000)).g.cause.getLsbD 63 = true ∧
    (full.groups.get 0 = some (me full).g ∧ full.trapvec (me full).g = 0 ∧ full.mgmt.traps.length < 504) := by decide +kernel

/-- VFCMP of a signalling NaN, VCVT of one, and VTSEL of the reserved code, with every flag enabled; the last lane alone runs. -/
theorem witness_CauseTakenOrHeld_flags :
    let s := fr (fun f => { f with fmt := 0xFF0000 }) (sregs [(5, 0x80000000)] (vregs [(2, 0x7F800001), (3, 2)] base))
    let x : Args := { ops (.v 1) (.v 2) (.v 3) (.v 0) 0 with msk := 5 }
    let y : Args := { ops (.v 1) (.v 3) (.v 3) (.v 0) 0 with msk := 5 }
    Issues s (me s) ∧ Passes s (me s) (vecShape (me s) x [x.a, x.b]) ∧
      ¬ NoEnabledFlag (me s) x (fun l => (cmpF32 .lt (fmtFZ (me s).f.fmt) (s.srcV (me s) x.imm x.a l) (s.srcV (me s) x.imm x.b l)).2) ∧
      NumFmt.ofCode (immField x.imm 0 4) = some .f32 ∧
      ¬ NoEnabledFlag (me s) x (fun l => (convert .f32 .bf16 .rne false (s.srcV (me s) x.imm x.a l) (s.srcV (me s) x.imm x.b l)).2) ∧
      Passes s (me s) (vecShape (me s) y [y.a, y.b, y.c]) ∧
      ¬ NoEnabledFlag (me s) y (fun l => (t2Select (s.srcV (me s) y.imm y.a l) (s.srcV (me s) y.imm y.b l) 0).2) :=
  ⟨issues (by decide +kernel), passes (by decide +kernel), by unfold NoEnabledFlag; decide +kernel, by decide,
    by unfold NoEnabledFlag; decide +kernel, passes (by decide +kernel), by unfold NoEnabledFlag; decide +kernel⟩

/-- A return to the group's own line, with and without a fragment named as the handler's; causes 5 and 9 pending. -/
theorem witness_HandlerReturns :
    let s := gr (fun g => { g with hm := true, epc := 0x10030 }) (cx (fun c => { c with trapvec := 0x10000 }) base)
    let k := gr (fun g => { g with handling := some ⟨0, false⟩ }) s
    let c := gr (fun g => { g with cause := 0x220 }) s
    (issueB s (me s) = true ∧ (me s).g.tryR = none ∧ (me s).g.hm = true ∧ (me s).g.replay = none ∧ (me s).g.partner = none ∧
      (me s).g.cause = 0 ∧ Pc.ofAddr (me s).g.epc = some ⟨0x10000, 4⟩ ∧ (me s).f.dormant = [] ∧ (me s).f.slices ≠ 0 ∧
      (me s).g.handling = none) ∧
    (issueB k (me k) = true ∧ (me k).g.handling = some ⟨0, false⟩) ∧
    (issueB c (me c) = true ∧ (me c).g.cause.getLsbD 5 = true ∧ (∀ j, j < 5 → (me c).g.cause.getLsbD j = false) ∧
      c.handlerPc (me c).g = some (⟨0x10000, 0⟩, false)) := by decide +kernel

/-- A request block whose last byte is the last of the region, with one free entry; requests answered either way. -/
theorem witness_ServiceCalls :
    let s := sregs [(1, 0x3FFFFFC0)] { base with mgmt := { base.mgmt with traps := List.replicate 503 (noRegionRecord 0) } }
    let a (yes : Bool) := gr (fun g => { g with sent := [⟨0, false, ⟨0x10000, 0⟩, 4, some yes⟩] }) s
    let here (s : State) (r : Sent) : Bool := r.fid == (me s).fid && r.hm == (me s).g.hm && r.pc == (me s).f.pc
    (freeB s = true ∧ (me s).g.sent = [] ∧ (s.srcS (me s) 0 (.s 1)).toNat % 64 = 0 ∧
      (s.srcS (me s) 0 (.s 1)).toNat < 2 ^ 56 ∧ regionCause (s.launchOf (me s).g.task) 0x3FFFFFC0 64 true = none ∧
      s.settled 0 = true ∧ s.mgmt.traps.length < 504) ∧
    (freeB (a true) = true ∧ (me (a true)).g.sent.all (here (a true)) = true) ∧
    (freeB (a false) = true ∧ (me (a false)).g.sent.all (here (a false)) = true) := by decide +kernel

/-! ### Waits -/

/-- The group's fragment waits in this way. -/
def waits (w : Wait) (s : State) : State := fr (fun f => { f with status := .waiting w }) s

theorem witness_WaitsEnd :
    let there (s : State) : Bool := s.who? 0 0 == some (me s)
    let crc := fr (fun f => { f with crcTries := 2 }) base
    let q := waits .queue base
    let park := waits .park (fr (fun f => { f with stack := [.park 3 0 0xF0 ⟨0x10000, 1⟩ 0 false] }) base)
    let bar := waits (.bar 15 2) base
    let grow := waits (.grow 16) { base with cores := base.cores.upd 0 (fun c => { c with waiters := [(0, 0, 0)] }) }
    let past := waits (.grow 17) (gr (fun g => { g with blocks := 16, v := g.v.take 128 }) { base with
      cores := base.cores.upd 0 (fun c => { c with waiters := [(0, 0, 0)], free := setAt 0 c.free 0 32 }) })
    let area := waits (.area 16) { base with cores := base.cores.upd 0 (fun c => { c with waiters := [(0, 0, 0)] }) }
    let fit := waits (.grow 16) (gr (fun g => { g with blocks := 16, v := g.v.take 128 }) { base with
      cores := base.cores.upd 0 (fun c => { c with waiters := [(0, 0, 0)], free := setAt 0 c.free 0 32 }) })
    let y := fr (fun f => { f with status := .yielding 0 [] }) base
    let m := waits (.mwait .ne 0x20000 1 0 (some 0)) base
    let wc := waits (.waitc .gth 0) base
    let j := waits (.counter 0x20000 0) base
    there crc = true ∧ (me crc).f.crcTries < 3 ∧ there q = true ∧ there park = true ∧
    (there bar = true ∧ (bar.teams.get 0).any (fun t => decide (0 ∈ t.groups) && (barrierAt t 15).phase != 2) = true ∧
      (me bar).g.dead = false) ∧
    (there grow = true ∧ (grow.cores.get 0).any (fun c => c.waiters.find? (fun x => x.1 == 0) == some (0, 0, 0)) = true ∧
      16 ≤ grow.freeIn 0 0) ∧
    (there fit = true ∧ 16 ≤ fit.freeIn 0 0 ∧ fit.growFits (me fit).g 16 = true) ∧
    (there past = true ∧ 17 ≤ past.freeIn 0 0 ∧ past.growFits (me past).g 17 = false ∧ (me past).g.hm = false) ∧
    (there area = true ∧ 16 ≤ area.freeIn 0 0 ∧ (me area).f.status = .waiting (.area 16)) ∧
    (there y = true ∧ (0 : W64).toNat ≤ y.clock.toNat) ∧
    (there m = true ∧ m.readWord (me m) 0x20000 = .value 0 ∧ mwaitStops .ne 0 1 = true ∧ (0 : W64).toNat ≤ m.clock.toNat) ∧
    (there wc = true ∧ (me wc).g.eng.owed = [] ∧ (me wc).g.eng.count .gth ≤ 0) ∧
    (there j = true ∧ j.droppedCause (me j) = none ∧ j.readAt (me j) 0x20000 8 = .value (List.replicate 8 0)) := by
  decide +kernel

/-- Two fragments of one record; a fourth failed check; a stuck window; a stuck barrier; a region; a side-logged store through a
malformed entry. -/
theorem witness_JoinsAndLateCauses :
    let there (s : State) : Bool := s.who? 0 0 == some (me s)
    let a := waits (.join 7) (fr (fun f => { f with stack := [.fork 7 9], slices := 0x0F }) base)
    let o : Frag := { Frag.first 5 ⟨0x10000, 2⟩ with slices := 0xF0, stack := [.fork 7 9], status := .waiting (.join 7) }
    let join := gr (fun g => { g with frags := g.frags ++ [o], bindings := [(7, 1, ⟨0x10000, 0⟩)] }) a
    let crc := fr (fun f => { f with crcTries := 3 }) base
    let q := pair (waits .queue base)
    let stuck : State := { q with groups := q.groups.upd 1 (fun g => { g with frags := g.frags.map (fun f => { f with status := .waiting .queue }) }) }
    let bar := waits (.bar 0 0) base
    let bad := word 0x3000 8 3 (sregs [(1, 0x20000)] base)
    let late : State := { bad with ops := [{ logged 4 (.st .b32 (mem 0 (.v 0) (.s 1) (.v 6) 0)) 0x20000 with stage := .sideLogged }] }
    (there join = true ∧ (me join).g.frags = [(me join).f, o] ∧ (me join).f.id ≠ o.id ∧ (me join).g.handling = none ∧
      (me join).g.bound 7 = some (1, ⟨0x10000, 0⟩)) ∧
    (there crc = true ∧ (me crc).f.crcTries = 3) ∧
    (there stuck = true ∧ (me stuck).g.frags = [(me stuck).f] ∧ stuck.queueStuck (me stuck).g = true) ∧
    (there bar = true ∧ (bar.teams.get 0).bind bar.barrierStuck = some (me bar)) ∧
    (there late = true ∧ (late.lateEntry late.ops).isSome = true) := by decide +kernel

end Sys2Proof.Tests
end

