-- ==== Sys2Proof/Tests/Witness5.lean ====
section
/-! SUPPORT. For each statement about events, queues, the market's instants and management, states that meet its hypotheses,
clause by clause. -/

namespace Sys2Proof.Tests

open Sys2Proof Sys2Proof.Machine

set_option Elab.async false

/-! ### Engines, issue and retirement -/

def eng (f : Engines → Engines) (s : State) : State := gr (fun g => { g with eng := f g.eng }) s

/-- A batch of one copy; a gather; an entry of the send queue; a full reduction; a full collective of one; a form and the two steps
of a loop. The ring's waits have a witness of their own. -/
theorem witness_EnginesComplete :
    let there (s : State) : Bool := s.groups.get 0 == some (me s).g && s.onCore (me s).g
    let c : CopyOp := ⟨4, .spans [⟨0x20000, 0x30000, 3⟩], none, none, false⟩
    let batch := eng (fun e => { e with closed := [(1, [c])] }) base
    let gth := eng (fun e => { e with gth := 1, gathers := [⟨4, false, 8, [(31, 0x20000, 0x30000)], none⟩] }) base
    let send := eng (fun e => { e with net := 1, sends := [⟨4, 0x20000, zeroRow, none⟩] }) base
    let red : State := { base with clusters := base.clusters.upd 0 (fun k => { k with reds := [⟨0, 0x80, 0, 1, [(0, 4, zeroRow)], false⟩] }) }
    let g1 : CollGen := ⟨(0, 0x40000), 1, 0, .gath, 1, [⟨0, 0, 4, 0x30000, [(7, false)]⟩], false⟩
    let coll : State := { base with colls := [(3, g1)] }
    let mx (i : Instr) := eng (fun e => { e with mx := 1, matrix := { e.matrix with
      queue := [⟨4, i, 0x11, 0, 0, 0x20000, 0x30000, 0x0008000800040004, none⟩] } }) base
    let head (s : State) : Option MxDone := (s.mxHead 0 (me s).g).map (s.runMx 0 (me s).g)
    (there batch = true ∧ (((me batch).g.eng.batch 1).filter (batch.copyLive (me batch).g)).length = 1 ∧
      okB (batch.copyMoves 0 (me batch).g c) = true) ∧
    (there gth = true ∧ gth.stillHeld (me gth).g none = false ∧
      (me gth).g.eng.gathers.all (fun o => okB (gth.spansMoves 0 (me gth).g o.spans)) = true) ∧
    (there send = true ∧ okB (send.entryMoves 0 (me send).g 0x20000 zeroRow) = true) ∧
    (there red = true ∧ (red.clusters.get 0).any (fun k => k.reds.any (fun r => decide (r.count ≤ r.rows.length) && !r.mixed)) = true) ∧
    (there coll = true ∧ g1.full = true ∧ g1.mixed = false ∧
      (match coll.collDst 0 0x30000 (coll.collResult g1) with | .ready _ => true | _ => false) = true) ∧
    (there (mx (.mxzero .one (args (.v 0) (.v 0) (.v 0) 0))) = true ∧
      (match head (mx (.mxzero .one (args (.v 0) (.v 0) (.v 0) 0))) with | some (.done _) => true | _ => false) = true) ∧
    (match head (mx (.mxloop (args (.v 0) (.v 0) (.v 0) 0x40002))) with | some (.more _) => true | _ => false) = true ∧
    ((me gth).g.eng.gathers.length = 1 ∧ (me gth).g.eng.copies = []) := by decide +kernel

/-- A ready fragment of age 1024; a logged load; a held one, whole or not; a side-logged store; a dirty line of 64 µs; a foreign
one. -/
theorem witness_IssueAndRetirement :
    let s := fr (fun f => { f with age := 1024 }) { base with cur := none }
    let i := Instr.ld .b32 (mem 3 (.v 4) (.s 1) (.v 0) 0)
    let st := Instr.st .b32 (mem 3 (.v 0) (.s 1) (.v 4) 0)
    let log (o : MemOp) : State := { base with ops := [o] }
    let done (s : State) (i : Instr) (o : MemOp) : Bool := (accForm i).any (fun a =>
      (match s.performOp (me s).g o a fadd32 with | .done _ _ => true | _ => false) && !s.windowWaits (me s) a o.lanes)
    let issuer (s : State) : Bool :=
      let p := s.parkQueues 0 false
      (p.cores.get 0).any (fun c => (p.nextIssuer 0 (p.urgentNow 0 false c) (p.idleNow (p.lastNow (c.last false) (c.starts false)))
        (c.takenBy true p.clock) (p.reserved 0 false c) (p.readySide 0 false)).isSome)
    let hurry : State := { s with cores := s.cores.upd 0 (fun c => { c with urgentC := [(me s).key] }) }
    let o := logged 4 i 0x20000
    let h : MemOp := { o with stage := .held }
    let w : MemOp := { h with whole := true }
    let wh := fr (fun f => { f with status := .waiting (.access 4) }) (log w)
    let d : MemOp := { logged 4 st 0x20000 with stage := .sideLogged }
    let dirty : State := { ((base.ensure 0 0 0x400 false).writeBytes 0 0 0 .normal [.spa 0x20000] [1]) with clock := 115200 }
    let foreign : State := { ((cx (fun c => { c with home := 1 }) base).ensure 0 0 0x400 false) with clock := 115200 }
    (issuer s = true ∧ s.mgmt.thermal = .none ∧ issuer hurry = true) ∧
    (s.who? 0 0 = some (me s) ∧ (me s).f.age = 1024 ∧ s.isReady (me s) = true ∧
      (s.cores.get 0).all (fun c => !(c.urgent false).contains (me s).key) = true) ∧
    ((log o).op? 4 = some o ∧ ((log o).opWho o).isSome = true ∧ orderedBehind (olderThan 4 (log o).ops) 0 (me (log o)).g.who
      ⟨4, .load, plain, false⟩ o.lanes = false ∧ done (log o) i o = true ∧ done ((log o).resent 4) i o = true) ∧
    ((log h).op? 4 = some h ∧ (log h).accessHeld h (me (log h)) = false ∧ wh.op? 4 = some w ∧
      wh.accessHeld w (me wh) = false ∧ (me wh).f.status = .waiting (.access 4)) ∧
    (done (log d) st d = true ∧ (log d).onCore (me (log d)).g = true) ∧
    (memsOk dirty = true ∧ (dirty.l1At 0 0x400).any (fun l => l.isDirty && decide (115200 ≤ (dirty.clock - l.written).toNat)) = true) ∧
    ((foreign.l1At 0 0x400).any (fun l => foreign.homeDie l.ctx 0x400 != coreDie 0 &&
      decide (115200 ≤ (foreign.clock - l.filled).toNat)) = true) := by decide +kernel

/-- A packet in order, one whose payload is corrupt and one at a full buffer, of a logged access and of none, on a route without
timeouts and with two. -/
theorem witness_IssueAndRetirement_packets :
    let o := logged 4 (.ld .b32 (mem 3 (.v 4) (.s 1) (.v 0) 0)) 0x20000
    let s : State := { base with ops := [o] }
    let h : List Byte := [0x31, 0x32, 0x33, 0x34, 0x35, 0x36, 0x37, 0x38, 0x39]
    let good (op : Nat) : PacketLoss := ⟨op, 0, 0, 1, 0, h, crc32 h, [], crc32 [], false⟩
    let bad : PacketLoss := { good 4 with payload := [1] }
    let full : PacketLoss := { good 9 with full := true }
    let route : Route := ⟨0, 1, 0⟩
    let late : State := { s with fabric := { s.fabric with timeouts := [(route.number, 2)] } }
    crc32 h = 0xCBF43926 ∧ (isCorrupt (good 4) = false ∧ (good 4).full = false) ∧ isCorrupt bad = true ∧ isCorrupt full = false ∧
      (s.op? 4 = some o ∧ (s.groups.get 0).isSome = true) ∧ s.op? 9 = none ∧ s.fabric.timeouts.get route.number = none ∧
      late.fabric.timeouts.get route.number = some 2 := by decide +kernel

/-! ### Ends, placement and pre-emption -/

/-- The context holds one half-cluster and may place the loaded task. -/
def leased (s : State) : State :=
  cx (fun c => { c with held := { c.held with units := { c.held.units with clu := [0] } } }) s

/-- A task of the same context that is to be placed, with its command. -/
def waiting (s : State) : State :=
  let t : Task := { Task.fresh 0 5 none { loadedLaunch with vregc := 8, reads := [], writes := [] } with cmd := 5 }
  { leased s with tasks := s.tasks.set 7 t, cmds := s.cmds.set 5 ⟨0, 0, false, 0, false, none⟩,
                  fe := { s.fe with cands := [⟨0, .hostQueue 0, 7, 0, 0, some 0, false, false⟩] }, clock := 115200 }

/-- A group at its last EXIT; an edge; a command; a dependence and a task without DONE, and with; a candidate that fits, that has
waited 64 µs, and that has no region. -/
theorem witness_EndsAndPlacement :
    let e := fr (fun f => { f with status := .waiting .exit }) base
    let edge : State := { base with edges := [(3, ⟨0, 7, [(0x20000, 256)]⟩)] }
    let cmd : State := { base with tasks := base.tasks.upd 0 (fun t => { t with completed := true }),
                                   cmds := [(0, ⟨0, 0, true, 0, false, none⟩)], fe := { base.fe with queues := [(0, Queue.fresh)] } }
    let dep : State := { base with tasks := base.tasks.upd 0 (fun t =>
      { t with launch := { t.launch with deps := [(0x20000, 0)] }, deps := [false] }) }
    let trig (done : W64) := gr (fun g => { g with triggered := true }) { base with tasks := base.tasks.upd 0 (fun t =>
      { t with launch := { t.launch with done := done } }) }
    let p := waiting base
    let s0 := (((p.forwardAll 0).seekEntries 0).refresh 0).startWaiting 0
    let none_ : State := { p with ctxs := base.ctxs }
    let wide : Task := { Task.fresh 0 6 none { loadedLaunch with vregc := 8, ncomp := 64, reads := [], writes := [] } with cmd := 6 }
    let two : State := { p with
      tasks := p.tasks.set 6 wide, cmds := p.cmds.set 6 ⟨1, 0, false, 0, false, none⟩,
      fe := { p.fe with cands := [⟨0, .hostQueue 1, 6, 0, 0, none, false, false⟩, ⟨0, .hostQueue 0, 7, 0, 1, none, false, false⟩] } }
    let seen := ((two.forwardAll 0).seekEntries 0).refresh 0
    let s3 := seen.startWaiting 0
    let stuck : State := { two with tasks := base.tasks.set 6 wide, fe := { two.fe with cands := two.fe.cands.take 1 } }
    let s4 := (((stuck.forwardAll 0).seekEntries 0).refresh 0).startWaiting 0
    let nth (k : Nat) (s : State) : Candidate := ((s.ordered 0)[k]?).getD ⟨0, .hostQueue 0, 0, 0, 0, none, false, false⟩
    (e.groups.get 0 = some (me e).g ∧ (me e).g.exitWait = some (me e).f ∧ e.onCore (me e).g = true ∧
      (e.pairOf 0 (me e).g).all e.mayLeave = true ∧ (e.teams.get 0).any (fun t => t.dropped.isEmpty && t.pendingQ.isEmpty) = true) ∧
    ((edge.edges.get 3).isSome = true ∧ (edge.tasks.get 0).isSome = true) ∧
    ((cmd.cmds.get 0).any (fun c => !c.completed && c.placed && c.count == 0 && c.edges == 0) = true ∧
      cmd.tasks.all (fun e => e.2.cmd != 0 || e.2.completed) = true ∧ (cmd.fe.queues.get 0).isSome = true ∧ cmd.blockOf 0 = none) ∧
    ((dep.tasks.get 0).any (fun t => t.launch.deps[0]? == some (0x20000, 0) && t.deps[0]? == some false) = true ∧
      okB (dep.feLocs 0 0x20000 8 .load) = true) ∧
    ((trig 0).triggerReady 0 = true ∧ (trig 0x20000).triggerReady 0 = true ∧ okB ((trig 0x20000).feLocs 0 0x20000 8 .atomic) = true) ∧
    (p.mode = .up ∧ p.mgmt.thermal ≠ .sevenEighths ∧ (s0.ordered 0).length = 1 ∧
      (s0.tasks.get 7).any (fun t => s0.entrySeen t && (s0.spot (s0.askNew 7 t) []).any (fun x => !s0.deciding (x.cluster / 22))) = true) ∧
    (seen.passedOver 0 ≠ [] ∧ seen.fe.cands.any (fun c => !(seen.passedOver 0).contains c) = true ∧ (s4.ordered 0).length = 1 ∧
      s4.firstFit (s4.ordered 0) [] = none) ∧
    ((s3.ordered 0).length = 2 ∧ s3.candSpot (nth 0 s3) [] = none ∧ s3.waited (nth 0 s3) = false ∧
      (s3.candSpot (nth 1 s3) []).any (fun x => !s3.deciding (x.cluster / 22)) = true) ∧
    ((p.fe.cands[0]?).any (fun c => !c.aged && p.candRegion c != [] && decide (115200 ≤ (p.clock - 0).toNat)) = true) ∧
    ((none_.fe.cands[0]?).any (fun c => !c.noRegion && none_.candRegion c == []) = true ∧ none_.mgmt.traps.length < 504) := by
  decide +kernel

/-- A resident team; one drained for 100 µs; a saved one with room; one that waits for its child; one to swap in. -/
theorem witness_PreemptionAndSwap :
    let st (x : TeamState) (s : State) : State := { s with teams := s.teams.upd 0 (fun t => { t with state := x }) }
    let d : State := { st (.draining 0) base with clock := 180000 }
    let room (why : SaveReason) : State := (leased base).saveTeam 0 why
    let fits (s : State) : Bool := (s.teams.get 0).any (fun t => (match t.state with | .saved _ => true | _ => false) &&
      s.mgmt.thermal != .sevenEighths && t.pendingQ.isEmpty && (s.spot (s.askSaved t) (s.closedTo 0)).any (s.stagingFree t))
    let big := fr (fun f => { f with status := .waiting (.counter 0x20000 1) }) (leased base)
    let swap : State := { big with
      cores := big.cores.upd 0 (fun c => { c with free := List.replicate 8 16 }),
      teams := big.teams.upd 0 (fun t => { t with pendingQ := [7] }),
      tasks := big.tasks.set 7 (Task.fresh 0 0 (some 0) loadedLaunch) }
    let mode (hint n : Nat) : Option PreemptMode :=
      let s : State := { gr (fun g => { g with retired := n }) base with tasks := base.tasks.upd 0 (fun t =>
        { t with launch := { t.launch with hint := hint, idem := true } }) }
      (s.teams.get 0).map s.preemptMode
    (base.teams.get 0).any (fun t => t.state == .resident && t.onCores) = true ∧
    (mode 0 0 = some .save ∧ mode 100 91 = some .drain ∧ mode 100 24 = some .flush) ∧
    ((base.setThermal .sevenEighths).teams.get 0).isSome = true ∧
    ((d.teams.get 0).any (fun t => t.state == .draining 0) = true ∧ 180000 ≤ (d.clock - 0).toNat) ∧
    fits (room .operator) = true ∧ fits (room .swapOut) = true ∧ (swap.teams.get 0).any (fun t => swap.swapReady 0 t) = true := by
  decide +kernel

/-! ### Queues and hosts -/

/-- VI 0 is bound to context 0, whose host is address 9; queue 0 is enabled and mapped, with this packet at HEAD. -/
def served (tag len : Nat) (s : State) : State :=
  let t := cx (fun c => { c with vi := some 0, hostAddr := 9, ip4 := 8 }) s
  { word 0x50000 4 (headerOf false tag len) t with
    fe := { t.fe with queues := [(0, { Queue.fresh with en := true, base := 0x50000, size := 4096, tail := 4096, lane := some (0, 0) })] } }

def packetB (tag : Nat) (s : State) : Bool :=
  s.cpRuns && (s.viCtx 0).isSome && (s.fe.queues.get 0).any (fun q => q.serving && okB (s.putQueue 0 q) &&
    (match s.viewHead 0 q with
     | .packet t len _ _ body => t == tag && len == payloadBytes tag && okB (s.feLocs 0 body len .load)
     | _ => false))

/-- A packet of each type, with addresses and a record in order; two mapped queues, the lower with the higher type; a queue that
waits for a lane; one that has nothing to do; one whose timeslice is over. -/
theorem witness_QueuesAndPackets :
    let at_ (tag len : Nat) := served tag len (word 0x50004 8 0x40000 base)
    let launch := launchAt 0x40000 (at_ 1 8)
    let idle (s : State) : State := { s with fe := { s.fe with queues := s.fe.queues.upd 0 (fun q => { q with tail := 0 }) } }
    let bad (s : State) : State := { s with fe := { s.fe with queues := s.fe.queues.upd 0 (fun q => { q with size := 4097 }) } }
    let late : State := { at_ 0 0 with clock := 90000, fe := { (at_ 0 0).fe with waiting := [1] } }
    let line : State := { at_ 0 0 with fe := { (at_ 0 0).fe with waiting := [0], queues := (at_ 0 0).fe.queues.upd 0 (fun q =>
      { q with lane := none }) } }
    let both : State := word 0x60000 4 (headerOf false 1 8) { at_ 2 16 with fe := { (at_ 2 16).fe with
      queues := (at_ 2 16).fe.queues.set 1 { Queue.fresh with en := true, base := 0x60000, size := 4096, tail := 4096, lane := some (1, 0) } } }
    let ready (s : State) (v tag : Nat) : Bool := (s.fe.queues.get v).any (fun q => q.serving && q.latch.isNone && okB (s.putQueue v q) &&
      (match s.viewHead 0 q with
       | .packet t len _ _ body => t == tag && len == payloadBytes tag && okB (s.feLocs 0 body len .load)
       | _ => false))
    packetB 0 (at_ 0 0) = true ∧ (at_ 0 0).mappedQueues = [0] ∧
    (both.cpRuns = true ∧ both.mappedQueues = [0, 1] ∧ (both.viCtx 0).isSome = true ∧ ready both 0 2 = true ∧ ready both 1 1 = true) ∧
    (packetB 1 launch = true ∧ okAnd (launch.feLocs 0 0x40000 512 .load) (fun l =>
      (parseLaunch (l.map launch.homeByte)).isSome) = true) ∧
    (packetB 2 (at_ 2 16) = true ∧ okB ((at_ 2 16).feLocs 0 0x40000 8 .load) = true) ∧
    (packetB 3 (at_ 3 16) = true ∧ okB ((at_ 3 16).feLocs 0 0x40000 8 .store) = true) ∧
    (packetB 4 (at_ 4 16) = true ∧ okB ((at_ 4 16).feLocs 0 0x40000 8 .atomic) = true) ∧ packetB 5 (at_ 5 0) = true ∧
    (line.cpRuns = true ∧ (line.fe.queues.get 0).any (fun q => q.wants) = true ∧ line.freeLane = some 0) ∧
    ((idle (at_ 0 0)).fe.queues.get 0).any (fun q => q.idle && !q.badRing) = true ∧
    ((bad (at_ 0 0)).fe.queues.get 0).any (fun q => q.badRing) = true ∧
    (90000 ≤ (late.clock - 0).toNat ∧ late.fe.waiting ≠ []) := by decide +kernel

/-- A frame from the bound host, asked for the first time and again; a queue to enable, to disable and to clear. -/
theorem witness_HostRequests :
    let s := word 0x40008 8 4096 (word 0x40000 8 0x50000 (served 0 0 base))
    let f : Frame := ⟨9, 8, 0, 1, 0⟩
    let b := cx (fun c => { c with qcb := [(63, 0x40000)] }) s
    let known := cx (fun c => { c with replies := [(5, 0, 0)] }) s
    let c (s : State) : Ctx := (s.ctxs.get 0).getD Ctx.fresh
    FromHost s f 0 5 0 (c s) ∧ s.fe.cpGated = false ∧
    (known.viCtx 0 = some (0, c known) ∧ known.mode = .up ∧ (c known).takes f = true ∧
      (c known).replies.find? (fun r => r.1 == 5) = some (5, 0, 0) ∧ (c known).pendingSeqs.contains 5 = false ∧
      known.fe.resuming = false) ∧
    (FromHost b f 0 5 0 (c b) ∧ b.blockOf 63 = some (0, 0x40000) ∧ (b.queueOf 63).en = false ∧
      okAnd (b.feLocs 0 0x40000 64 .atomic) (fun l => ringLimits (b.homeNat l 0 8) (b.homeNat l 8 8)) = true ∧
      okAnd (b.feLocs 0 0x40000 64 .atomic) (fun l => okB ((b.feRead 0 0x40000 l).feLocs 0 0x40000 64 .store)) = true) ∧
    (s.fe.queues.get 0).any (fun q => q.en && okB (s.putQueue 0 { q with en := false, held := none }) &&
      okB (s.putQueue 0 { q with stop := false, err := 0 })) = true := by
  unfold FromHost
  decide +kernel

/-- A window of 16 bytes, its last ones and one beyond; a held operation before it, 1 ms old; gated domains. -/
theorem witness_RdmaAndDomains :
    let s := cx (fun c => { c with windows := [(0x20000, 16)] }) (served 0 0 base)
    let f : Frame := ⟨9, 8, 0, 1, 0⟩
    let c (s : State) : Ctx := (s.ctxs.get 0).getD Ctx.fresh
    let held : State := { s with clock := 1800000, fe := { s.fe with hostHeld := [(3, 0, .rdmaRead ⟨f, 0⟩ 0x20000 4)] } }
    let gated : State := { s with fe := { s.fe with cpGated := true }, dies := s.dies.upd 0 (fun d => { d with gated := true }) }
    (s.viCtx 0 = some (0, c s) ∧ s.mode = .up ∧ (c s).onVlan f = true ∧ s.fe.replay.any (onPair 0) = false ∧
      s.fe.hostHeld.any (fun h => onPair 0 h.2.2) = false ∧ (c s).inWindow 0x2000C 4 = true ∧ (c s).inWindow 0x2000D 4 = false ∧
      okAnd (s.feLocs 0 0x2000C 4 .store) (fun l => (s.gatedDie 0 l).isNone) = true ∧
      okAnd (s.feLocs 0 0x2000C 4 .load) (fun l => (s.gatedDie 0 l).isNone) = true) ∧
    ((c s).onVlan { f with vlan := 1 } = false) ∧
    (held.fe.hostHeld.any (fun h => onPair 0 h.2.2) = true ∧ held.fe.resuming = false ∧
      held.fe.hostHeld.find? (fun h => h.1 == 3) = some (3, 0, .rdmaRead ⟨f, 0⟩ 0x20000 4) ∧
      1800000 ≤ (held.clock - 0).toNat) ∧
    (gated.fe.cpGated = true ∧ (gated.dies.get 0).any (fun d => d.gated) = true) ∧ s.ctxs.all (fun e => !e.2.holdsOn 0) = true := by
  decide +kernel

/-! ### The interval -/

/-- The market runs, at a stage, so many cycles after the interval's start. -/
def interval (x : Stage) (n : W64) (s : State) : State :=
  { s with clock := n, market := { s.market with started := true, stage := x } }

theorem witness_IntervalAndMarket :
    let c (s : State) : Ctx := (s.ctxs.get 0).getD Ctx.fresh
    let a := interval .bidding 414000 base
    let b := interval .snapshotted 423000 base
    let p := interval .published 423000 base
    let r := interval .released 450000 base
    let o := cx (fun c => { c with offer := some (3, 1) }) p
    let away := cx (fun c => { c with away := some 3 }) p
    let full : State := { p with ctxs := (List.range 256).map (fun k => (k, Ctx.fresh)) }
    (∃ y ∈ ([⟨1, 9, 3, false⟩, ⟨2, 5, 3, true⟩] : List Bid), y.kept ≠ 0 ∧ wonBy (clearing 3 2 [⟨1, 9, 3, false⟩, ⟨2, 5, 3, true⟩]).won y.ctx < y.kept) ∧
    (a.mode = .up ∧ a.market.started = true ∧ a.market.stage = .bidding ∧ 414000 ≤ a.elapsed) ∧
    (b.market.stage = .snapshotted ∧ 423000 ≤ b.elapsed ∧ (b.dies.get 0).isSome = true) ∧
    (p.market.stage = .published ∧ 423000 ≤ p.elapsed ∧ p.ctxs.all (fun e => e.2.offer.isNone && e.2.lostHalves.isEmpty &&
      decide (e.2.held.units.bank.length ≤ e.2.keptBanks) && e.2.moveTo.isNone && e.2.held.units.way.isEmpty) = true) ∧
    (r.market.stage = .released ∧ 450000 ≤ r.elapsed ∧ r.ctxs.all (fun e => e.2.away.isNone) = true) ∧
    ((c o).offer = some (3, 1) ∧ o.ctxs.get 0 = some (c o)) ∧
    (p.freeCtx = some 1 ∧ full.market.stage = .published ∧ full.freeCtx = none ∧ p.market.pkg.toNat + 1 ≠ p.market.pkg.toNat) ∧
    (away.ctxs.get 0 = some (c away) ∧ (c away).away.isSome = true) := by decide +kernel

/-! ### Memory units, reliability, management -/

/-- A page of context 0, of 64 KiB at 0x20000, in a state. -/
def paged (x : PageState) (s : State) : State :=
  { s with mem := { s.mem with pages := [{
    ctx := 0, gpa := 0x20000, size := 65536, frame := 0x20000, die := 0, state := x, age := 3, accessed := false, farHits := 0,
    pinned := false, queued := [], remote := none }] } }

/-- Pages that stay, move and arrive, near and far; a die short of frames and one that is not; a channel and a slice in service; a
line flagged 14 and 15 times. -/
theorem witness_PagesAndMemoryUnits :
    let n := paged .near base
    let f := paged .far base
    let m := paged (.inFlight true 0 0x400000) base
    let page (s : State) : Page := (s.mem.pages[0]?).getD
      { ctx := 0, gpa := 0, size := 0, frame := 0, die := 0, state := .near, age := 0, accessed := false, farHits := 0,
        pinned := false, queued := [], remote := none }
    let short : State := { n with dies := n.dies.upd 0 (fun d => { d with lostBytes := nearCapacity - 65536 }) }
    let twin : State := { base with dies := base.dies.upd 0 (fun d => { d with retiredSlices := [4] }) }
    let flag (k : Nat) : State := { base with mgmt := { base.mgmt with flags := [(Config.rowOf 5, k)] } }
    let back : State := { f with ctxs := f.ctxs.upd 0 (fun c => { c with
      held := { c.held with units := { c.held.units with bank := [9] } }, slotBase := [0x20001] }) }
    let fullStack : State := { base with dies := base.dies.upd 0 (fun d => { d with retiredChans := [(1, 0), (1, 1), (1, 2), (1, 3)] }) }
    ((page n).inFlight = false ∧ (page n).state = .near ∧ n.backsBank (page n) = false ∧ (page n).size ≤ n.farFree ∧
      (page n).size ≤ n.nearFree 1 ∧ (page n).die ≠ 1 ∧ n.frameOk (page n).size (0x400000 : W64).toNat = true ∧
      f.frameOk (page f).size (0x400000 : W64).toNat = true ∧ f.frameLost 0 0x400000 = false ∧ back.backsBank (page back) = true) ∧
    ((page m).inFlight = true ∧ (page m).state = .inFlight true 0 0x400000 ∧ (page m).queued = []) ∧
    (n.evicts 0 = false ∧ short.evicts 0 = true ∧ oldestPage (short.victims 0) = some (0, page short)) ∧
    ((page n).state = .near ∧ (page f).state = .far ∧ (page f).size ≤ f.nearFree (f.homeOf (page f).ctx (page f).die)) ∧
    ((base.dies.get 0).any (fun d => !d.retiredChans.contains (1, 7) && !d.retiredSlices.contains 5 && !d.failed.contains (3, 1)) = true ∧
      (twin.dies.get 0).any (fun d => !d.retiredSlices.contains 5 && slicesBeyond (d.retiredSlices ++ [5])) = true ∧
      (fullStack.dies.get 0).any (fun d => decide (4 ≤ (d.retiredChans.filter (fun c => c.1 == 1)).length)) = true) ∧
    ((flag 14).mgmt.flags.get (Config.rowOf 5) = some 14 ∧ (flag 15).mgmt.flags.get (Config.rowOf 5) = some 15) := by
  refine ⟨?_, ?_, ?_, ?_, ?_, ?_, ?_⟩
  case refine_6 => simp [Table.get]
  case refine_7 => simp [Table.get]
  all_goals decide +kernel

theorem one_entry {α : Type} (k : Nat) (x : α) : Table.get [(k, x)] k = some x := by simp [Table.get]

theorem filter_same {α : Type} (p : α → Bool) (n : Nat) (x : α) (h : p x = true) :
    ((List.replicate n x).filter p).length = n := by simp [h]

/-- A plan with one link between the first two routers, a port without a far end, and the hub's last link and a die-to-die port. -/
theorem witness_PagesAndMemoryUnits_links :
    let plan : List Byte := [(routerAt 0 + 1, (1 : Byte)), (routerAt 0 + 4, 2), (routerAt 1 + 3, 0xC0), (routerAt 1 + 4, 8),
      (routerAt 63 + 4, 1)].foldl (fun b e => setAt 0 b e.1 e.2) (List.replicate 2112 0)
    let s : State := { base with dies := base.dies.upd 0 (fun d => { d with plan := { d.plan with bytes := plan } }) }
    ((s.dies.get 0).any (fun d => portOn d.plan.bytes 0 1 && !d.failed.contains (0, 1) && portOn d.plan.bytes 63 0) = true ∧
      (0 : Nat) ≠ hubDie) ∧ (hubNext 15 0 = some 11 ∧ s.hubUp 15 0 = true) ∧ (s.portUp 0 4 = true ∧ s.portUp 3 0 = true) := by
  decide +kernel

/-- A die whose pseudo-channel has seen 256 corrections, wherever the line lies. -/
theorem witness_PagesAndMemoryUnits_fixes :
    let z := Config.rowPlace (Config.rowOf 5)
    let d : Die := { Die.fresh with fixes := List.replicate 256 (z.2.1, z.2.2.1, 0) }
    let s : State := { base with dies := [(z.1, d)] }
    s.lineTier 5 ≠ 1 ∧ s.dies.get z.1 = some d ∧
      256 ≤ (d.fixes.filter (fun x => x.1 == z.2.1 && x.2.1 == z.2.2.1 && (s.clock - x.2.2).toNat < 3240000000000)).length := by
  refine ⟨?_, one_entry _ _, le_of_eq (filter_same _ _ _ ?_).symm⟩
  · change base.lineTier 5 ≠ 1
    decide +kernel
  · change (_ == _ && _ == _ && decide ((base.clock - 0).toNat < 3240000000000)) = true
    rw [show base.clock = 0 from by decide +kernel]
    simp

/-- An access to a page of a package that is given up, and none; a pipe with 14 and with 16 late transitions; an idempotent group, and one that wrote
over what an error lost; a draining team; a core under test for 50 ms. -/
theorem witness_ReliabilityAndHeat :
    let o := logged 4 (.ld .b32 (mem 3 (.v 4) (.s 1) (.v 0) 0)) 0x20000
    let r : State := { base with ops := [o], mem := { base.mem with
      pages := [{ ctx := 0, gpa := 0x20000, size := 65536, frame := 0x20000, die := 0, state := .near, age := 0, accessed := false,
                  farHits := 0, pinned := false, queued := [], remote := some 6, lost := true }] } }
    let hot : State := { base with mgmt := { base.mgmt with heatNoted := true } }
    let clean : State := base.ensure 0 0 0x400 false
    let pipe (n : Nat) : State := { base with cores := base.cores.upd 0 (fun c => { c with replays := [(2, List.replicate n 0)] }) }
    let idem := gr (fun g => { g with idem := true, restarts := 2, written := [8 * 3 + 1] }) base
    let limit := gr (fun g => { g with idem := true, restarts := 3, homePoison := true }) base
    let drain : State := { limit with teams := base.teams.upd 0 (fun t => { t with state := .draining 0 }) }
    let off : State := { base with teams := base.teams.upd 0 (fun t => { t with state := .saved .operator }) }
    let dirty : L1Line := ⟨0x400, List.replicate 128 0, List.replicate 128 true, 0, 0, 0, [0]⟩
    let lost : State := { base with cores := base.cores.upd 0 (fun c => { c with l1 := [dirty] }) }
    let test : State := { base with clock := 90000000, cores := base.cores.upd 0 (fun c => { c with state := .underTest 0 }) }
    ((r.lostLane o).isSome = true ∧ r.ops = [o] ∧ (r.opWho o).isSome = true ∧ (accForm o.instr).isSome = true ∧ o.whole = false ∧
      base.heldLost = false) ∧
    ((clean.cores.get 0).bind (fun c => c.copy? 0x400)).any (fun l => !l.isDirty) = true ∧
    (base.mode = .up ∧ base.mgmt.thermal ≠ .sevenEighths ∧ base.mgmt.heatNoted = false ∧ hot.mgmt.thermal ≠ .sevenEighths ∧
      hot.mgmt.heatNoted = true) ∧
    ((lost.cores.get (me lost).g.core).bind (fun c => c.copy? 0x400) = some dirty ∧ dirty.isDirty = true) ∧
    (base.ctxsOn 0 = [0] ∧ ((pipe 14).cores.get 0).any (fun c => decide ((c.replaysOf 2 0).length < 15)) = true ∧
      ((pipe 16).cores.get 0).any (fun c => c.state != .retired && decide (16 ≤ (c.replaysOf 2 0).length)) = true) ∧
    ((me idem).g.dead = false ∧ (me idem).g.idem = true ∧ (me idem).g.covered (.vreg 3 1) = true ∧ (me idem).g.restarts < 3 ∧
      (me idem).g.cause = 0 ∧ (me idem).g.partner = none ∧
      (me idem).g.covered (.vreg 4 1) = false ∧ (me base).g.idem = false) ∧
    ((me limit).g.idem = true ∧ 3 ≤ (me limit).g.restarts ∧ (me limit).g.homePoison = true ∧ (me limit).g.covered (.pipe 0) = true) ∧
    (drain.teams.get 0).any (fun t => t.state == .draining 0) = true ∧ off.onCore (me off).g = false ∧
    ((test.cores.get 0).any (fun c => c.state == .underTest 0) = true ∧ 90000000 ≤ (test.clock - 0).toNat) := by decide +kernel

/-- The request that the management network carries. -/
def request : MgmtMsg := ⟨Config.managementVlan base.mgmt.image, 1, 0, 0, 3⟩

/-- A first request; each object in its place; records of both kinds that wait for an answer; the group's own place; a region that
pins a translation, and none. -/
theorem witness_ManagementActions :
    let w : Who := me base
    let s : State := { base with mgmt := { base.mgmt with traps :=
      [{ w.record 0x1B .replayable .operator 0x20000 0 0 with fault := true }, { w.record 0x2C .replayable .operator 0x20000 0 1 with id := 1 }] } }
    let stop := gr (fun g => { g with stopped := some 0 }) s
    let held := inRegion { openRegion with pins := [⟨0, 0x20000, 65536, 0x20000, true, true, true⟩] } s
    Managed s request ∧
      ((s.object 0x20).isSome = true ∧ (s.ctxs.get 0).isSome = true ∧ s.object 0x900 = none ∧ (s.dies.get 0).isSome = true ∧
        (s.mgmt.record? 0).any TrapRec.isFault = true ∧ (s.mgmt.record? 1).any (fun r => r.isSvc && !r.isFault) = true ∧
        s.groupAt 0 0 0 0 0 = some (0, (me s).g) ∧ (me stop).g.stopped = some 0) ∧
      Managed held request ∧ held.pinned 0 1 0x20000 65536 = true ∧ held.pinned 0 1 0x40000 65536 = false := by
  have hv : ∀ t : State, t.mgmt.image = base.mgmt.image → t.accepts request = true := by
    intro t h
    simp [State.accepts, request, h]
  exact ⟨⟨by decide +kernel, hv _ rfl, by decide +kernel⟩, by decide +kernel,
    ⟨by decide +kernel, hv _ rfl, by decide +kernel⟩, by decide +kernel, by decide +kernel⟩

end Sys2Proof.Tests
end

/-! SUPPORT. Bytes read back after writes at every level, and fills of an L1 (R12, R126, R227, R237). -/

section

namespace Sys2Proof.Machine

open Sys2Proof

/-! ### Bytes of a register -/

theorem byteOf_getLsbD {n : Nat} (x : BitVec n) (k i : Nat) (hi : i < 8) :
    (byteOf x k).getLsbD i = x.getLsbD (8 * k + i) := by
  have low : Nat.testBit (x.toNat >>> (8 * k) % 2 ^ 8) i = Nat.testBit (x.toNat >>> (8 * k)) i := by
    rw [Nat.testBit_mod_two_pow]; simp [hi]
  rw [byteOf, BitVec.getLsbD, BitVec.toNat_ofNat, low, Nat.testBit_shiftRight, BitVec.testBit_toNat]

theorem withByte_getLsbD {n : Nat} (x : BitVec n) (k i : Nat) (b : Byte) :
    (withByte x k b).getLsbD i =
      if 8 * k ≤ i ∧ i < 8 * k + 8 then decide (i < n) && b.getLsbD (i - 8 * k) else x.getLsbD i := by
  have ones : Nat.testBit 255 (i - 8 * k) = decide (i - 8 * k < 8) := Nat.testBit_two_pow_sub_one 8 _
  simp only [withByte, BitVec.getLsbD_or, BitVec.getLsbD_and, BitVec.getLsbD_not, BitVec.getLsbD_ofNat,
    Nat.testBit_shiftLeft, ones, BitVec.testBit_toNat, ge_iff_le]
  by_cases hn : i < n
  · by_cases hk : 8 * k ≤ i
    · by_cases h8 : i < 8 * k + 8
      · simp [hn, hk, h8, show i - 8 * k < 8 by omega]
      · simp [hn, hk, h8, show ¬ i - 8 * k < 8 by omega, BitVec.getLsbD_of_ge b (i - 8 * k) (by omega)]
    · simp [hn, hk]
  · simp [hn, BitVec.getLsbD_of_ge x i (by omega)]

theorem byteOf_withByte_same {n : Nat} (x : BitVec n) (k : Nat) (b : Byte) (h : 8 * k + 8 ≤ n) :
    byteOf (withByte x k b) k = b := by
  apply BitVec.eq_of_getLsbD_eq
  intro i hi
  rw [byteOf_getLsbD _ _ _ hi, withByte_getLsbD, if_pos (by omega)]
  simp [show 8 * k + i < n by omega]

theorem byteOf_withByte_ne {n : Nat} (x : BitVec n) (k j : Nat) (b : Byte) (h : j ≠ k) :
    byteOf (withByte x k b) j = byteOf x j := by
  apply BitVec.eq_of_getLsbD_eq
  intro i hi
  rw [byteOf_getLsbD _ _ _ hi, byteOf_getLsbD _ _ _ hi, withByte_getLsbD, if_neg (by omega)]

/-! ### Bytes of a table of memories -/

theorem memOf_set (t : Table Mem) (k j : Nat) (m : Mem) : memOf (t.set k m) j = if j = k then m else memOf t j := by
  unfold memOf
  rw [Table.get_set]
  split <;> rfl

theorem read_memOf_set_same {t : Table Mem} (k a : Nat) (b : Byte) (h : t.all (fun e => e.2.wf) = true) :
    (memOf (t.set k ((memOf t k).write a b)) k).read a = b := by
  rw [memOf_set, if_pos rfl]
  exact Mem.read_write_same a b (memOf_wf t k h)

theorem read_memOf_set_ne (t : Table Mem) (k a j i : Nat) (b : Byte) (h : ¬ (j = k ∧ i = a)) :
    (memOf (t.set k ((memOf t k).write a b)) j).read i = (memOf t j).read i := by
  rw [memOf_set]
  split
  · rename_i hj
    subst hj
    exact Mem.read_write_ne _ _ _ _ (fun hi => h ⟨rfl, hi⟩)
  · rfl

/-! ### Bytes of an L1 -/

/-- What a core reads of a system byte depends on its copy of the line and on the byte at home. -/
theorem sysByte_eq (s : State) (core a : Nat) : s.sysByte core a =
    match s.l1At core (a / 128) with | some l => l.bytes.getD (a % 128) 0 | none => s.mem.sys.read a := rfl

theorem sysByte_eq_map (s : State) (core a : Nat) : s.sysByte core a =
    (((s.l1At core (a / 128)).map (·.bytes)).map (·.getD (a % 128) 0)).getD (s.mem.sys.read a) := by
  rw [sysByte_eq]
  cases s.l1At core (a / 128) <;> rfl

theorem sysByte_congr {s t : State} {core a : Nat} (h : (t.l1At core (a / 128)).map (·.bytes) =
    (s.l1At core (a / 128)).map (·.bytes)) (hm : t.mem.sys = s.mem.sys) : t.sysByte core a = s.sysByte core a := by
  rw [sysByte_eq_map, sysByte_eq_map, h, hm]

theorem l1At_updCore_ne (s : State) (core k line : Nat) (f : Core → Core) (h : k ≠ core) :
    (s.updCore core f).l1At k line = s.l1At k line := by
  simp only [State.l1At, State.updCore_cores, Table.get_upd_ne _ _ _ _ h]

/-- A change of an L1's lines, each in its place, is a change of the copies. -/
theorem l1At_updCore_map (s : State) (core line : Nat) (f : L1Line → L1Line) (hf : ∀ l, (f l).line = l.line) :
    (s.updCore core (fun c => { c with l1 := c.l1.map f })).l1At core line = (s.l1At core line).map f := by
  simp only [State.l1At, State.updCore_cores, Table.get_upd_same]
  cases s.cores.get core with
  | none => rfl
  | some c => simp [Core.copy?, List.find?_map, hf]

/-- The line of a stored byte after the store (R237). -/
def L1Line.stored (l : L1Line) (a : Nat) (b : Byte) (now : W64) : L1Line :=
  if l.line == a / 128 then
    { l with bytes := setAt 0 l.bytes (a % 128) b, dirty := setAt false l.dirty (a % 128) true,
             written := if l.isDirty then l.written else now }
  else l

theorem L1Line.stored_line (l : L1Line) (a : Nat) (b : Byte) (now : W64) : (l.stored a b now).line = l.line := by
  unfold L1Line.stored
  split <;> rfl

theorem l1At_line {s : State} {core line : Nat} {l : L1Line} (h : s.l1At core line = some l) : l.line = line := by
  obtain ⟨c, -, hc⟩ := Option.bind_eq_some_iff.1 h
  simpa using List.find?_some hc

theorem l1At_l1Put (s : State) (core a line : Nat) (b : Byte) :
    (s.l1Put core a b).l1At core line = (s.l1At core line).map (fun l => l.stored a b s.clock) :=
  l1At_updCore_map s core line (fun l => l.stored a b s.clock) (fun l => l.stored_line a b s.clock)

/-- Every copy stays where it was. -/
theorem l1At_isSome_l1Put (s : State) (core k a line : Nat) (b : Byte) :
    ((s.l1Put core a b).l1At k line).isSome = (s.l1At k line).isSome := by
  by_cases h : k = core
  · subst h
    rw [l1At_l1Put, Option.isSome_map]
  · exact congrArg _ (l1At_updCore_ne s core k line _ h)

theorem sysByte_l1Put_same {s : State} {core a : Nat} (b : Byte) (h : (s.l1At core (a / 128)).isSome = true) :
    (s.l1Put core a b).sysByte core a = b := by
  obtain ⟨l, hl⟩ := Option.isSome_iff_exists.1 h
  simp only [sysByte_eq, l1At_l1Put, hl, Option.map_some, L1Line.stored, l1At_line hl, beq_self_eq_true, if_true,
    getD_setAt_same]

theorem sysByte_l1Put_ne (s : State) (core k a i : Nat) (b : Byte) (h : ¬ (k = core ∧ i = a)) :
    (s.l1Put core a b).sysByte k i = s.sysByte k i := by
  by_cases hk : k = core
  · subst hk
    have hi : i ≠ a := fun e => h ⟨rfl, e⟩
    rw [sysByte_eq, sysByte_eq, l1At_l1Put]
    cases hl : s.l1At k (i / 128) with
    | none => rfl
    | some l =>
      simp only [Option.map_some, L1Line.stored, l1At_line hl, beq_iff_eq]
      split
      · exact getD_setAt_ne _ _ _ _ _ (by omega)
      · rfl
  · exact sysByte_congr (by rw [State.l1Put, l1At_updCore_ne _ _ _ _ _ hk]) rfl

/-! ### One byte written at its level (R227) -/

/-- What is read of an entry changes only where the entry written changes it. -/
theorem Table.map_get_upd {α β : Type} (t : Table α) (k j : Nat) (f : α → α) (r : α → β)
    (h : j = k → ∀ y, r (f y) = r y) : ((t.upd k f).get j).map r = (t.get j).map r := by
  by_cases hj : j = k
  · subst hj
    rw [Table.get_upd_same]
    cases t.get j with
    | none => rfl
    | some y => exact congrArg some (h rfl y)
  · rw [Table.get_upd_ne _ _ _ _ hj]

theorem readLoc_vreg (s : State) (core g n l b : Nat) :
    s.readLoc core (.vreg g n l b) = ((s.groups.get g).map (fun x => byteOf (x.lane n l) b)).getD 0 := by
  simp only [State.readLoc]
  cases s.groups.get g <;> rfl

theorem readLoc_sreg (s : State) (core g n b : Nat) :
    s.readLoc core (.sreg g n b) = ((s.groups.get g).map (fun x => byteOf (x.s? n) b)).getD 0 := by
  simp only [State.readLoc]
  cases s.groups.get g <;> rfl

theorem readLoc_sram (s : State) (core c t a : Nat) :
    s.readLoc core (.sram c t a) = ((s.clusters.get c).map (fun x => (memOf x.sram t).read a)).getD 0 := by
  simp only [State.readLoc]
  cases s.clusters.get c <;> rfl

theorem readLoc_bank (s : State) (core d k a : Nat) :
    s.readLoc core (.bank d k a) = ((s.dies.get d).map (fun x => (memOf x.banks k).read a)).getD 0 := by
  simp only [State.readLoc]
  cases s.dies.get d <;> rfl

/-- The group after a byte of a vector register has been written. -/
def Group.putByte (x : Group) (n ln k : Nat) (b : Byte) : Group :=
  { x with v := setAt [] x.v n (setAt 0 (x.row n) ln (withByte (x.lane n ln) k b)),
           written := addMark x.written (8 * n + ln / 4) }

theorem Group.lane_putByte_same (x : Group) (n ln k : Nat) (b : Byte) :
    (x.putByte n ln k b).lane n ln = withByte (x.lane n ln) k b := by
  simp only [Group.putByte, Group.lane, Group.row, getD_setAt_same]

theorem Group.lane_putByte_ne (x : Group) (n ln k n' ln' : Nat) (b : Byte) (h : ¬ (n' = n ∧ ln' = ln)) :
    (x.putByte n ln k b).lane n' ln' = x.lane n' ln' := by
  simp only [Group.putByte, Group.lane, Group.row]
  by_cases hn : n' = n
  · subst hn
    rw [getD_setAt_same, getD_setAt_ne _ _ _ _ _ (fun e => h ⟨rfl, e⟩)]
  · rw [getD_setAt_ne _ _ _ _ _ hn]

theorem writeLoc_vreg (s : State) (core : Nat) (cached : Bool) (g n ln k : Nat) (b : Byte) :
    s.writeLoc core cached (.vreg g n ln k) b = s.updGroup g (fun x => x.putByte n ln k b) := rfl

theorem writeLoc_sreg (s : State) (core : Nat) (cached : Bool) (g n k : Nat) (b : Byte) :
    s.writeLoc core cached (.sreg g n k) b = s.updGroup g (fun x => x.setS n (withByte (x.s? n) k b)) := rfl

/-- A store into an L1 or a scratchpad changes one byte, for every core. -/
theorem readLoc_writeLoc_ne (s : State) (core k : Nat) (l x : Loc) (b : Byte) (h : x ≠ l) :
    (s.writeLoc core true l b).readLoc k x = s.readLoc k x := by
  cases l with
  | gva a => rfl
  | spa a =>
    cases x with
    | spa i => exact sysByte_l1Put_ne s core k a i b (fun e => h (by rw [e.2]))
    | _ => rfl
  | priv j a =>
    cases x with
    | priv j' i => exact read_memOf_set_ne s.mem.priv j a j' i b (fun e => h (by rw [e.1, e.2]))
    | _ => rfl
  | vreg g n ln j =>
    cases x with
    | vreg g' n' ln' j' =>
      rw [writeLoc_vreg, readLoc_vreg, readLoc_vreg, State.updGroup_groups, Table.map_get_upd]
      rintro rfl y
      by_cases e : n' = n ∧ ln' = ln
      · obtain ⟨rfl, rfl⟩ := e
        rw [Group.lane_putByte_same, byteOf_withByte_ne _ _ _ _ (fun e => h (by rw [e]))]
      · rw [Group.lane_putByte_ne _ _ _ _ _ _ _ e]
    | sreg g' n' j' =>
      rw [writeLoc_vreg, readLoc_sreg, readLoc_sreg, State.updGroup_groups, Table.map_get_upd]
      exact fun _ _ => rfl
    | _ => rfl
  | sreg g n j =>
    cases x with
    | sreg g' n' j' =>
      rw [writeLoc_sreg, readLoc_sreg, readLoc_sreg, State.updGroup_groups, Table.map_get_upd]
      rintro rfl y
      by_cases e : n' = n
      · subst e
        rw [Group.s?_setS_same, byteOf_withByte_ne _ _ _ _ (fun e => h (by rw [e]))]
      · rw [Group.s?_setS_ne _ _ _ _ e]
    | vreg g' n' ln' j' =>
      rw [writeLoc_sreg, readLoc_vreg, readLoc_vreg, State.updGroup_groups, Table.map_get_upd]
      exact fun _ _ => rfl
    | _ => rfl
  | sram c t a =>
    cases x with
    | sram c' t' i =>
      rw [State.writeLoc, readLoc_sram, readLoc_sram, State.updCluster_clusters, Table.map_get_upd]
      rintro rfl y
      exact read_memOf_set_ne y.sram t a t' i b (fun e => h (by rw [e.1, e.2]))
    | _ => rfl
  | bank d j a =>
    cases x with
    | bank d' j' i =>
      rw [State.writeLoc, readLoc_bank, readLoc_bank, State.updDie_dies, Table.map_get_upd]
      rintro rfl y
      exact read_memOf_set_ne y.banks j a j' i b (fun e => h (by rw [e.1, e.2]))
    | _ => rfl

/-- What lets a byte be stored by a core: it exists, and a system byte has a copy of its line in the core's L1. -/
def Storable (s : State) (core : Nat) (x : Loc) : Prop :=
  Exists s x ∧ ∀ a, x = .spa a → (s.l1At core (a / 128)).isSome = true

/-- A byte stored reads back for the core that stored it. -/
theorem readLoc_writeLoc_same {s : State} {core : Nat} {x : Loc} (b : Byte) (hs : memsOk s = true)
    (hx : Storable s core x) : (s.writeLoc core true x b).readLoc core x = b := by
  obtain ⟨-, hpriv, -, hsram, hbank, -⟩ := (memsOk_iff s).1 hs
  obtain ⟨hex, hcopy⟩ := hx
  cases x with
  | gva a => exact hex.elim
  | spa a => exact sysByte_l1Put_same b (hcopy a rfl)
  | priv k a => exact read_memOf_set_same k a b hpriv
  | vreg g n ln k =>
    obtain ⟨hg, hk⟩ := hex
    obtain ⟨y, hy⟩ := Option.isSome_iff_exists.1 hg
    simp only [readLoc_vreg, writeLoc_vreg, State.updGroup_groups, Table.get_upd_same, hy, Option.map_some,
      Group.lane_putByte_same, byteOf_withByte_same _ k _ (show 8 * k + 8 ≤ 32 by omega), Option.getD_some]
  | sreg g n k =>
    obtain ⟨hg, hk⟩ := hex
    obtain ⟨y, hy⟩ := Option.isSome_iff_exists.1 hg
    simp only [readLoc_sreg, writeLoc_sreg, State.updGroup_groups, Table.get_upd_same, hy, Option.map_some,
      Group.s?_setS_same, byteOf_withByte_same _ k _ (show 8 * k + 8 ≤ 64 by omega), Option.getD_some]
  | sram c t a =>
    obtain ⟨y, hy⟩ := Option.isSome_iff_exists.1 (show (s.clusters.get c).isSome = true from hex)
    simp only [readLoc_sram, State.writeLoc, State.updCluster_clusters, Table.get_upd_same, hy, Option.map_some,
      Option.getD_some]
    exact read_memOf_set_same t a b (Table.get_of_all (fun x : Cluster => x.sram.all (fun e => e.2.wf)) _ _ _ hsram hy)
  | bank d k a =>
    obtain ⟨y, hy⟩ := Option.isSome_iff_exists.1 (show (s.dies.get d).isSome = true from hex)
    simp only [readLoc_bank, State.writeLoc, State.updDie_dies, Table.get_upd_same, hy, Option.map_some,
      Option.getD_some]
    exact read_memOf_set_same k a b (Table.get_of_all (fun x : Die => x.banks.all (fun e => e.2.wf)) _ _ _ hbank hy)

theorem Table.isSome_get_upd {α : Type} (t : Table α) (k j : Nat) (f : α → α) :
    ((t.upd k f).get j).isSome = (t.get j).isSome := by
  by_cases h : j = k
  · subst h
    rw [Table.get_upd_same, Option.isSome_map]
  · rw [Table.get_upd_ne _ _ _ _ h]

theorem isSome_groups_writeLoc (s : State) (core : Nat) (l : Loc) (b : Byte) (g : Nat) :
    ((s.writeLoc core true l b).groups.get g).isSome = (s.groups.get g).isSome := by
  cases l with
  | vreg g' n ln k => exact Table.isSome_get_upd _ _ _ _
  | sreg g' n k => exact Table.isSome_get_upd _ _ _ _
  | _ => rfl

theorem isSome_clusters_writeLoc (s : State) (core : Nat) (l : Loc) (b : Byte) (c : Nat) :
    ((s.writeLoc core true l b).clusters.get c).isSome = (s.clusters.get c).isSome := by
  cases l with
  | sram c' t a => exact Table.isSome_get_upd _ _ _ _
  | _ => rfl

theorem isSome_dies_writeLoc (s : State) (core : Nat) (l : Loc) (b : Byte) (d : Nat) :
    ((s.writeLoc core true l b).dies.get d).isSome = (s.dies.get d).isSome := by
  cases l with
  | bank d' k a => exact Table.isSome_get_upd _ _ _ _
  | _ => rfl

theorem isSome_l1At_writeLoc (s : State) (core : Nat) (l : Loc) (b : Byte) (line : Nat) :
    ((s.writeLoc core true l b).l1At core line).isSome = (s.l1At core line).isSome := by
  cases l with
  | spa a => exact l1At_isSome_l1Put s core core a line b
  | _ => rfl

/-- A store takes no group, cluster, die or copy away. -/
theorem storable_writeLoc {s : State} {core : Nat} {x : Loc} (l : Loc) (b : Byte) (hx : Storable s core x) :
    Storable (s.writeLoc core true l b) core x := by
  obtain ⟨hex, hcopy⟩ := hx
  refine ⟨?_, fun a e => (isSome_l1At_writeLoc s core l b _).trans (hcopy a e)⟩
  cases x with
  | gva a => exact hex
  | spa a => trivial
  | priv k a => trivial
  | vreg g n ln k => exact ⟨(isSome_groups_writeLoc s core l b g).trans hex.1, hex.2⟩
  | sreg g n k => exact ⟨(isSome_groups_writeLoc s core l b g).trans hex.1, hex.2⟩
  | sram c t a => exact (isSome_clusters_writeLoc s core l b c).trans hex
  | bank d k a => exact (isSome_dies_writeLoc s core l b d).trans hex

/-! ### Lists of bytes -/

theorem readLoc_writeList_outside (s : State) (core k : Nat) (l : List Loc) (b : List Byte) (x : Loc) (h : x ∉ l) :
    (s.writeList core true l b).readLoc k x = s.readLoc k x := by
  induction l generalizing s b with
  | nil => rfl
  | cons y l ih =>
    obtain ⟨hy, hl⟩ := not_or.1 (mt List.mem_cons.2 h)
    cases b with
    | nil => rfl
    | cons v b => exact (ih (s.writeLoc core true y v) b hl).trans (readLoc_writeLoc_ne s core k y x v hy)

theorem readLoc_writeList {s : State} {core : Nat} {l : List Loc} {b : List Byte} (hs : memsOk s = true) (hl : l.Nodup)
    (hx : ∀ x ∈ l, Storable s core x) {k : Nat} {x : Loc} {y : Byte} (hk : l[k]? = some x) (hy : b[k]? = some y) :
    (s.writeList core true l b).readLoc core x = y := by
  induction l generalizing s b k with
  | nil => cases hk
  | cons z l ih =>
    obtain ⟨hz, hl⟩ := List.nodup_cons.1 hl
    cases b with
    | nil => cases hy
    | cons v b =>
      cases k with
      | zero =>
        obtain rfl : z = x := Option.some.inj hk
        obtain rfl : v = y := Option.some.inj hy
        exact (readLoc_writeList_outside _ core core l b z hz).trans
          (readLoc_writeLoc_same v hs (hx z List.mem_cons_self))
      | succ k =>
        exact ih (memsOk_writeLoc s core true z v hs) hl
          (fun x h => storable_writeLoc z v (hx x (List.mem_cons_of_mem _ h))) hk hy

/-- What a core stores into its L1 changes no system byte for another. -/
theorem sysByte_writeList_core_ne (s : State) (core k : Nat) (l : List Loc) (b : List Byte) (a : Nat) (h : k ≠ core) :
    (s.writeList core true l b).sysByte k a = s.sysByte k a := by
  induction l generalizing s b with
  | nil => rfl
  | cons x l ih =>
    cases b with
    | nil => rfl
    | cons v b =>
      refine (ih (s.writeLoc core true x v) b).trans ?_
      cases x with
      | spa i => exact sysByte_l1Put_ne s core k i a v (fun e => h e.1)
      | _ => rfl

theorem mem_linesOf (l : List Loc) (k : Nat) : k ∈ linesOf l ↔ ∃ a, Loc.spa a ∈ l ∧ a / 128 = k := by
  have gen : ∀ acc : List Nat, k ∈ l.foldl (fun a x => match x with
      | .spa p => if a.contains (p / 128) then a else a ++ [p / 128]
      | _ => a) acc ↔ k ∈ acc ∨ ∃ a, Loc.spa a ∈ l ∧ a / 128 = k := by
    induction l with
    | nil => simp
    | cons x l ih =>
      intro acc
      rw [List.foldl_cons, ih]
      cases x with
      | spa p =>
        by_cases hp : p / 128 ∈ acc
        · simp only [List.contains_iff_mem, hp, if_true, List.mem_cons, Loc.spa.injEq]
          grind
        · simp only [List.contains_iff_mem, hp, if_false, List.mem_append, List.mem_cons, Loc.spa.injEq]
          grind
      | _ => simp
  exact (gen []).trans (or_iff_right List.not_mem_nil)

/-! ### Fills (R237) -/

theorem ensure_of_copy {s : State} {core ctx line : Nat} (ro : Bool) (h : (s.l1At core line).isSome = true) :
    s.ensure core ctx line ro = s := by
  obtain ⟨l, hl⟩ := Option.isSome_iff_exists.1 h
  obtain ⟨c, hc, hl⟩ := Option.bind_eq_some_iff.1 hl
  simp only [State.ensure, hc, hl]

theorem ensureAll_of_copies {s : State} {core ctx : Nat} {ro : Bool} {lines : List Nat}
    (h : ∀ k ∈ lines, (s.l1At core k).isSome = true) : s.ensureAll core ctx ro lines = s := by
  induction lines with
  | nil => rfl
  | cons k lines ih =>
    obtain ⟨hk, hl⟩ := List.forall_mem_cons.1 h
    exact (congrArg (State.ensureAll · core ctx ro lines) (ensure_of_copy ro hk)).trans (ih hl)

theorem shrinkL1_of_fits {s : State} {core : Nat} {c : Core} (n : Nat) (hc : s.cores.get core = some c)
    (h : c.l1.length ≤ c.l1Capacity) : s.shrinkL1 core n = s := by
  cases n with
  | zero => rfl
  | succ n => simp only [State.shrinkL1, hc, h, if_true]

/-- The line that a fill from home brings. -/
def State.filled (s : State) (ctx line : Nat) : L1Line :=
  ⟨line, s.homeLine line, List.replicate 128 false, ctx, s.clock, s.clock, []⟩

/-- The core after a fill. -/
def Core.fill (c : Core) (new : L1Line) : Core := { c.touchHome new.line new.filled with l1 := c.l1 ++ [new] }

/-- The slices' lines change, and nothing else. -/
theorem l2Use_eq (s : State) (ctx : Nat) (d : Bool) (line : Nat) :
    ∃ l2, s.l2Use ctx d line = { s with mem := { s.mem with l2 := l2 } } := by
  simp only [State.l2Use]
  split
  · exact ⟨_, rfl⟩
  · split
    · exact ⟨s.mem.l2, rfl⟩
    · exact ⟨_, rfl⟩

/-- A fill of an L1 with room adds one line, and the slice behind it notes the read. -/
theorem ensure_of_room {s : State} {core : Nat} {c : Core} (ctx line : Nat) (hc : s.cores.get core = some c)
    (hl : c.copy? line = none) (hr : c.l1.length < c.l1Capacity) :
    s.ensure core ctx line false = (s.l2Use ctx false line).updCore core (fun c => c.fill (s.filled ctx line)) := by
  have hget : ((s.l2Use ctx false line).updCore core (fun c => c.fill (s.filled ctx line))).cores.get core =
      some (c.fill (s.filled ctx line)) := by
    obtain ⟨l2, h2⟩ := l2Use_eq s ctx false line
    rw [State.updCore_cores, Table.get_upd_same, h2, hc, Option.map_some]
  have hfit : (c.fill (s.filled ctx line)).l1.length ≤ (c.fill (s.filled ctx line)).l1Capacity := by
    simpa [Core.fill, Core.l1Capacity, Core.touchHome] using hr
  exact Eq.trans (by simp only [State.ensure, hc, hl]; rfl) (shrinkL1_of_fits 1 hget hfit)

theorem Core.copy?_fill (c : Core) (new : L1Line) (line : Nat) :
    (c.fill new).copy? line = (c.copy? line).or (if new.line = line then some new else none) := by
  simp only [Core.copy?, Core.fill, List.find?_append, List.find?_singleton, beq_iff_eq]

theorem Mem.getD_readN (m : Mem) (k n i : Nat) (h : i < n) : (m.readN k n).getD i 0 = m.read (k + i) := by
  induction n generalizing k i with
  | zero => omega
  | succ n ih =>
    cases i with
    | zero => rfl
    | succ i => exact (ih (k + 1) i (by omega)).trans (by congr 1; omega)

/-- R237: a line filled from its point of coherence reads as home does. -/
theorem sameBytes_fill {s : State} {core : Nat} {c : Core} (ctx line : Nat) (hc : s.cores.get core = some c)
    (hl : c.copy? line = none) :
    SameBytes s ((s.l2Use ctx false line).updCore core (fun c => c.fill (s.filled ctx line))) (fun _ => false) := by
  obtain ⟨l2, h2⟩ := l2Use_eq s ctx false line
  rw [h2]
  intro k x _
  cases x with
  | spa a =>
    change State.sysByte _ k a = s.sysByte k a
    by_cases hk : k = core
    · subst hk
      rw [sysByte_eq, sysByte_eq]
      simp only [State.l1At, State.updCore_cores, Table.get_upd_same, hc, Option.map_some, Option.bind_some, Core.copy?_fill]
      by_cases ha : a / 128 = line
      · subst ha
        simp only [hl, Option.none_or, State.filled, if_true, State.homeLine]
        rw [Mem.getD_readN _ _ _ _ (by omega)]
        congr 1
        omega
      · rw [if_neg (fun e => ha e.symm), Option.or_none]
        rfl
    · exact sysByte_congr (by rw [l1At_updCore_ne _ _ _ _ _ hk]; rfl) rfl
  | _ => rfl

/-! ### Stores (R12, R126, R237) -/

theorem pushConflicts_eq (s : State) (l : List Nat) : ∃ d, s.pushConflicts l = { s with due := d } := by
  unfold State.pushConflicts
  induction l generalizing s with
  | nil => exact ⟨s.due, rfl⟩
  | cons a l ih =>
    obtain ⟨d, h⟩ := ih (s.push (.conflict a))
    exact ⟨d, h⟩

theorem readLoc_noteWriter (s : State) (core gid : Nat) (lines : List Nat) (k : Nat) (x : Loc) :
    (s.noteWriter core gid lines).readLoc k x = s.readLoc k x := by
  cases x with
  | spa a =>
    refine sysByte_congr ?_ rfl
    by_cases hk : k = core
    · subst hk
      rw [State.noteWriter, l1At_updCore_map s k _ _ (fun l => by split <;> rfl), Option.map_map]
      congr 1
      funext l
      simp only [Function.comp_apply]
      split <;> rfl
    · rw [State.noteWriter, l1At_updCore_ne _ _ _ _ _ hk]
  | _ => rfl

/-- A plain store whose lines the L1 holds writes its bytes there; beside them it queues CONFLICTs and notes the writer. -/
theorem readLoc_writeBytes {s : State} {core ctx gid : Nat} {l : List Loc} {b : List Byte} (h : Held s core l) :
    ∃ d, ∀ k x, (s.writeBytes core ctx gid .normal l b).readLoc k x =
      (State.writeList { s with due := d } core true l b).readLoc k x := by
  obtain ⟨d, hd⟩ := pushConflicts_eq s (s.storeConflicts core gid l)
  refine ⟨d, fun k x => ?_⟩
  have hfill : State.ensureAll { s with due := d } core ctx false (linesOf l) = { s with due := d } :=
    ensureAll_of_copies h
  simp only [State.writeBytes, hd, reduceCtorEq, if_false, hfill]
  exact readLoc_noteWriter _ _ _ _ _ _

end Sys2Proof.Machine

namespace Sys2Proof

open Sys2Proof.Machine

theorem sameBytes_refl (s : State) (out : Loc → Bool) : SameBytes s s out := fun _ _ _ => .refl _

/-- Settles O28: a fill adds a copy of home's bytes, and a store into held lines is a list of bytes written each at its level. -/
theorem fillsAndStoredBytes : Obligations.FillsAndStoredBytes := by
  constructor
  · intro s core ctx line c hc hr
    cases hl : c.copy? line with
    | some l =>
      have hcopy : (s.l1At core line).isSome = true := by simp [State.l1At, hc, hl]
      rw [ensure_of_copy false hcopy]
      exact ⟨sameBytes_refl s _, hcopy⟩
    | none =>
      rw [ensure_of_room ctx line hc hl hr]
      refine ⟨sameBytes_fill ctx line hc hl, ?_⟩
      obtain ⟨l2, h2⟩ := l2Use_eq s ctx false line
      simp [h2, Table.get_upd_same, hc, Core.copy?_fill, hl, State.filled]
  · intro s core ctx gid l b hs hnd hlen hheld hex
    obtain ⟨d, hread⟩ := readLoc_writeBytes (ctx := ctx) (gid := gid) (b := b) hheld
    have hst : ∀ x ∈ l, Storable { s with due := d } core x := fun x hx =>
      ⟨hex x hx, fun a e => hheld _ ((mem_linesOf l _).2 ⟨a, e ▸ hx, .refl _⟩)⟩
    refine ⟨fun k x y hx hy => ?_, fun k x hx => ?_, fun k hk a => ?_⟩
    · rw [hread]
      exact readLoc_writeList (s := { s with due := d }) hs hnd hst hx hy
    · rw [hread]
      exact readLoc_writeList_outside _ core k l b x (by simpa using hx)
    · rw [hread]
      exact sysByte_writeList_core_ne _ core k l b a hk

end Sys2Proof
end

/-! SUPPORT. What the operations of caches, of memory accesses and of a team's save may change at all (R237, R376, R454). -/

section

namespace Sys2Proof.Machine

open Sys2Proof

/-! ### Work of the caches -/

/-- Nothing but memory, the cores and the queue of due events differs. -/
def CacheWork (s t : State) : Prop :=
  ∃ mem cores due, t = { s with mem := mem, cores := cores, due := due }

theorem CacheWork.rfl (s : State) : CacheWork s s := ⟨s.mem, s.cores, s.due, .refl _⟩

theorem CacheWork.trans {s t u : State} (h : CacheWork s t) (k : CacheWork t u) : CacheWork s u := by
  obtain ⟨m, c, d, rfl⟩ := h
  obtain ⟨m', c', d', rfl⟩ := k
  exact ⟨m', c', d', .refl _⟩

/-- Both branches of a choice do no more. -/
theorem CacheWork.ite {c : Prop} {d : Decidable c} {s t u : State} (ht : CacheWork s t) (hu : CacheWork s u) :
    CacheWork s (if c then t else u) := by
  split
  · exact ht
  · exact hu

theorem cacheWork_mem (s : State) (m : MemSys) : CacheWork s { s with mem := m } := ⟨m, s.cores, s.due, .refl _⟩
theorem cacheWork_updCore (s : State) (k : Nat) (f : Core → Core) : CacheWork s (s.updCore k f) :=
  ⟨s.mem, s.cores.upd k f, s.due, .refl _⟩
theorem cacheWork_push (s : State) (i : Instr) : CacheWork s (s.push i) := ⟨s.mem, s.cores, s.due ++ [i], .refl _⟩

theorem cacheWork_foldl {α : Type} (l : List α) (f : State → α → State) (hf : ∀ s a, CacheWork s (f s a)) (s : State) :
    CacheWork s (l.foldl f s) := by
  induction l generalizing s with
  | nil => exact .rfl s
  | cons a l ih => exact (hf s a).trans (ih _)

theorem cacheWork_pushConflicts (s : State) (l : List Nat) : CacheWork s (s.pushConflicts l) :=
  cacheWork_foldl l _ (fun s _ => cacheWork_push s _) s

theorem cacheWork_noteSeen (s : State) (core : Nat) (l : List Nat) : CacheWork s (s.noteSeen core l) :=
  cacheWork_foldl l _ (fun s _ => cacheWork_updCore s core _) s

theorem cacheWork_l2Use (s : State) (ctx : Nat) (d : Bool) (line : Nat) : CacheWork s (s.l2Use ctx d line) := by
  obtain ⟨l2, h⟩ := l2Use_eq s ctx d line
  exact h ▸ cacheWork_mem s _

theorem cacheWork_l2Lines (s : State) (ctx : Nat) (d : Bool) (l : List Nat) : CacheWork s (s.l2Lines ctx d l) :=
  cacheWork_foldl l _ (fun s k => cacheWork_l2Use s ctx d k) s

theorem cacheWork_l2Drop (s : State) (p : L2Line → Bool) : CacheWork s (s.l2Drop p) := cacheWork_mem s _

theorem cacheWork_flushCopy (s : State) (l : L1Line) : CacheWork s (s.flushCopy l) := by
  simp only [State.flushCopy]
  split
  · exact (cacheWork_mem s _).trans (cacheWork_l2Use _ _ _ _)
  · exact cacheWork_mem s _

theorem cacheWork_leaveL1 (s : State) (core line : Nat) : CacheWork s (s.leaveL1 core line) := by
  unfold State.leaveL1
  split
  · exact .rfl s
  · split
    · exact .rfl s
    · exact (cacheWork_flushCopy s _).trans (cacheWork_updCore _ _ _)

theorem cacheWork_dropCopy (s : State) (core line : Nat) : CacheWork s (s.dropCopy core line) :=
  CacheWork.ite
    ((cacheWork_leaveL1 s core line).trans (cacheWork_pushConflicts _ _)) (.rfl s)

theorem cacheWork_invalidateHome (s : State) (ctx line : Nat) (e : Option Nat) : CacheWork s (s.invalidateHome ctx line e) :=
  cacheWork_foldl _ _ (fun s k => cacheWork_dropCopy s k line) s

theorem cacheWork_writeBack (s : State) (core line : Nat) : CacheWork s (s.writeBack core line) := by
  unfold State.writeBack
  split
  · exact .rfl s
  · split
    · exact .rfl s
    · rename_i l _
      have inv := cacheWork_invalidateHome s l.ctx line (some core)
      refine CacheWork.ite ?_ (.rfl s)
      exact CacheWork.ite (inv.trans (cacheWork_dropCopy _ _ _))
        ((inv.trans (cacheWork_flushCopy _ _)).trans (cacheWork_updCore _ _ _))

theorem cacheWork_evictCopy (s : State) (core line : Nat) : CacheWork s (s.evictCopy core line) :=
  (cacheWork_writeBack s core line).trans (cacheWork_dropCopy _ _ _)

theorem cacheWork_shrinkL1 (n : Nat) (s : State) (core : Nat) : CacheWork s (s.shrinkL1 core n) := by
  induction n generalizing s with
  | zero => exact .rfl s
  | succ n ih =>
    unfold State.shrinkL1
    split
    · exact .rfl s
    · split
      · exact .rfl s
      · split
        · exact .rfl s
        · exact ((cacheWork_writeBack s core _).trans (cacheWork_leaveL1 _ _ _)).trans (ih _)

theorem cacheWork_notePeer (s : State) (core line : Nat) : CacheWork s (s.notePeer core line) := by
  unfold State.notePeer
  split
  · exact .rfl s
  · exact ⟨s.mem, _, s.due, .refl _⟩

theorem cacheWork_ensure (s : State) (core ctx line : Nat) (ro : Bool) : CacheWork s (s.ensure core ctx line ro) := by
  unfold State.ensure
  split
  · exact .rfl s
  · split
    · exact .rfl s
    · refine CacheWork.trans ?_ (cacheWork_shrinkL1 1 _ core)
      refine CacheWork.trans ?_ (cacheWork_updCore _ core _)
      have filled : CacheWork s (match (if ro then s.peerCopy core ctx line else none) with
          | some l => ({ l with written := s.clock }, s)
          | none => (s.filled ctx line, s.l2Use ctx false line)).2 := by
        split
        · exact .rfl s
        · exact cacheWork_l2Use s ctx false line
      exact CacheWork.ite (filled.trans (cacheWork_notePeer _ core line)) filled

theorem cacheWork_ensureAll (s : State) (core ctx : Nat) (ro : Bool) (l : List Nat) :
    CacheWork s (s.ensureAll core ctx ro l) :=
  cacheWork_foldl l _ (fun s k => cacheWork_ensure s core ctx k ro) s

theorem cacheWork_prepareHome (s : State) (core ctx : Nat) (own : Bool) (l : List Nat) :
    CacheWork s (s.prepareHome core ctx own l) := by
  refine cacheWork_foldl l _ (fun s k => ?_) s
  have mine : CacheWork s (if own = true then (s.evictCopy core k).noteSeen core [k] else s) :=
    CacheWork.ite
      ((cacheWork_evictCopy s core k).trans (cacheWork_noteSeen _ _ _)) (.rfl s)
  exact (mine.trans (cacheWork_invalidateHome _ _ _ _)).trans (cacheWork_l2Use _ _ _ _)

theorem cacheWork_noteWriter (s : State) (core gid : Nat) (l : List Nat) : CacheWork s (s.noteWriter core gid l) :=
  cacheWork_updCore s core _

theorem cacheWork_cleanCore (s : State) (core gid : Nat) : CacheWork s (s.cleanCore core gid) := by
  unfold State.cleanCore
  split
  · exact .rfl s
  · exact cacheWork_foldl _ _ (fun s k => cacheWork_writeBack s core k) s

theorem cacheWork_cleanTeam (s : State) (core gid : Nat) : CacheWork s (s.cleanTeam core gid) :=
  (cacheWork_cleanCore s core gid).trans (cacheWork_foldl _ _ (fun s k => cacheWork_cleanCore s core k) _)

theorem cacheWork_cleanCtx (s : State) (core ctx : Nat) : CacheWork s (s.cleanCtx core ctx) := by
  unfold State.cleanCtx
  split
  · exact .rfl s
  · exact cacheWork_foldl _ _ (fun s k => cacheWork_writeBack s core k) s

theorem cacheWork_dropForeign (s : State) (core : Nat) : CacheWork s (s.dropForeign core) := by
  unfold State.dropForeign
  split
  · exact .rfl s
  · exact (cacheWork_foldl _ _ (fun s k => cacheWork_evictCopy s core k) s).trans (cacheWork_updCore _ _ _)

theorem cacheWork_release (s : State) (gid : Nat) (g : Group) (sc : Scope) : CacheWork s (s.release gid g sc) :=
  CacheWork.ite (cacheWork_cleanCore _ _ _) (.rfl s)

theorem cacheWork_acquire (s : State) (g : Group) (sc : Scope) : CacheWork s (s.acquire g sc) :=
  CacheWork.ite (cacheWork_dropForeign _ _) (.rfl s)

theorem cacheWork_touch (s : State) (core : Nat) (l : List Loc) : CacheWork s (s.touch core l) :=
  CacheWork.ite (.rfl s)
    ((cacheWork_mem s _).trans (cacheWork_foldl _ _ (fun s _ => cacheWork_push s _) _))

theorem cacheWork_fetchUse (s : State) (ctx spa : Nat) : CacheWork s (s.fetchUse ctx spa) :=
  (cacheWork_touch s _ _).trans (cacheWork_l2Use _ _ _ _)

theorem cacheWork_readBytes (s : State) (core ctx : Nat) (hint : Hint) (ro : Bool) (l : List Loc) :
    CacheWork s (s.readBytes core ctx hint ro l).2 :=
  CacheWork.ite
    ((cacheWork_noteSeen s _ _).trans (cacheWork_l2Lines _ _ _ _)) (cacheWork_ensureAll _ _ _ _ _)

theorem cacheWork_loadLanes (s : State) (g : Group) (hint : Hint) (ro : Bool) (l : List (LaneAccess × List Loc)) :
    CacheWork s (s.loadLanes g hint ro l).1 := by
  induction l generalizing s with
  | nil => exact .rfl s
  | cons x l ih => exact (cacheWork_readBytes s g.core g.ctx hint ro x.2).trans (ih _)

theorem cacheWork_walkUse2 (s : State) (ctx core gpa : Nat) : CacheWork s (s.walkUse2 ctx core gpa) := by
  unfold State.walkUse2
  split
  · exact .rfl s
  · split
    · exact .rfl s
    · exact cacheWork_foldl _ _ (fun s a => cacheWork_fetchUse s ctx a) s

theorem cacheWork_walkUse (s : State) (ctx core gpa : Nat) : CacheWork s (s.walkUse ctx core gpa) := by
  unfold State.walkUse
  split
  · exact .rfl s
  · exact (cacheWork_walkUse2 s ctx core gpa).trans (cacheWork_fetchUse _ _ _)

theorem cacheWork_walkReads (s : State) (ctx core gva : Nat) : CacheWork s (s.walkReads ctx core gva) :=
  (cacheWork_foldl _ _ (fun s a => cacheWork_walkUse s ctx core a) s).trans
    (cacheWork_foldl _ _ (fun s a => cacheWork_walkUse2 s ctx core a) _)

theorem cacheWork_flushCore (s : State) (core : Nat) (p : Nat → Bool) : CacheWork s (s.flushCore core p) := by
  unfold State.flushCore
  split
  · exact .rfl s
  · exact cacheWork_foldl _ _ (fun s k => (cacheWork_writeBack s core k).trans (cacheWork_evictCopy _ core k)) s

theorem cacheWork_flushRegion (s : State) (ctx : Nat) (r : List (W64 × W64)) : CacheWork s (s.flushRegion ctx r) :=
  cacheWork_foldl _ _ (fun s c => cacheWork_flushCore s c _) s

theorem cacheWork_quitCore (s : State) (core : Nat) (p : Nat → Bool) : CacheWork s (s.quitCore core p) := by
  unfold State.quitCore
  split
  · exact .rfl s
  · exact cacheWork_foldl _ _ (fun s k => (cacheWork_writeBack s core k).trans (cacheWork_leaveL1 _ core k)) s

theorem cacheWork_cleanPage (s : State) (p : Page) : CacheWork s (s.cleanPage p) := by
  refine (cacheWork_foldl _ _ (fun t c => ?_) s).trans (cacheWork_l2Drop _ _)
  exact CacheWork.ite (cacheWork_flushCore _ _ _) (cacheWork_quitCore _ _ _)

theorem cacheWork_updPage (s : State) (k : Nat) (f : Page → Page) : CacheWork s (s.updPage k f) := by
  unfold State.updPage
  split
  · exact .rfl s
  · exact cacheWork_mem s _

theorem cacheWork_pagesAway (s : State) (ctx pkg : Nat) : CacheWork s (s.pagesAway ctx pkg) :=
  cacheWork_foldl _ _ (fun s (e : Nat × Page) => (cacheWork_cleanPage s e.2).trans (cacheWork_updPage _ _ _)) s

/-! ### Work of memory accesses -/

/-- Nothing but memory, the cores, the queue of due events, registers, scratchpads, TLBs and free values differs. -/
def MemWork (s t : State) : Prop :=
  ∃ mem cores due groups clusters dies free, t = { s with
    mem := mem, cores := cores, due := due, groups := groups, clusters := clusters, dies := dies, free := free }

theorem CacheWork.memWork {s t : State} (h : CacheWork s t) : MemWork s t := by
  obtain ⟨m, c, d, rfl⟩ := h
  exact ⟨m, c, d, s.groups, s.clusters, s.dies, s.free, .refl _⟩

theorem MemWork.rfl (s : State) : MemWork s s := (CacheWork.rfl s).memWork

theorem MemWork.trans {s t u : State} (h : MemWork s t) (k : MemWork t u) : MemWork s u := by
  obtain ⟨m, c, d, g, cl, di, fr, rfl⟩ := h
  obtain ⟨m', c', d', g', cl', di', fr', rfl⟩ := k
  exact ⟨m', c', d', g', cl', di', fr', .refl _⟩

theorem MemWork.ite {c : Prop} {d : Decidable c} {s t u : State} (ht : MemWork s t) (hu : MemWork s u) :
    MemWork s (if c then t else u) := by
  split
  · exact ht
  · exact hu

theorem memWork_updGroup (s : State) (k : Nat) (f : Group → Group) : MemWork s (s.updGroup k f) :=
  ⟨s.mem, s.cores, s.due, s.groups.upd k f, s.clusters, s.dies, s.free, .refl _⟩
theorem memWork_updCluster (s : State) (k : Nat) (f : Cluster → Cluster) : MemWork s (s.updCluster k f) :=
  ⟨s.mem, s.cores, s.due, s.groups, s.clusters.upd k f, s.dies, s.free, .refl _⟩
theorem memWork_updDie (s : State) (k : Nat) (f : Die → Die) : MemWork s (s.updDie k f) :=
  ⟨s.mem, s.cores, s.due, s.groups, s.clusters, s.dies.upd k f, s.free, .refl _⟩
theorem memWork_free (s : State) (n : Nat) : MemWork s { s with free := n } :=
  ⟨s.mem, s.cores, s.due, s.groups, s.clusters, s.dies, n, .refl _⟩

theorem memWork_foldl {α : Type} (l : List α) (f : State → α → State) (hf : ∀ s a, MemWork s (f s a)) (s : State) :
    MemWork s (l.foldl f s) := by
  induction l generalizing s with
  | nil => exact .rfl s
  | cons a l ih => exact (hf s a).trans (ih _)

theorem memWork_writeLoc (s : State) (core : Nat) (cached : Bool) (l : Loc) (b : Byte) :
    MemWork s (s.writeLoc core cached l b) := by
  cases l with
  | gva a => exact .rfl s
  | spa a =>
    exact MemWork.ite (c := cached = true) (cacheWork_updCore s core _).memWork (cacheWork_mem s (s.mem.put a b)).memWork
  | priv k a => exact (cacheWork_mem s _).memWork
  | vreg g n ln k => exact memWork_updGroup s g _
  | sreg g n k => exact memWork_updGroup s g _
  | sram c t a => exact (cacheWork_mem s _).memWork.trans (memWork_updCluster _ c _)
  | bank d k a => exact (cacheWork_mem s _).memWork.trans (memWork_updDie _ d _)

theorem memWork_writeList (s : State) (core : Nat) (cached : Bool) (l : List Loc) (b : List Byte) :
    MemWork s (s.writeList core cached l b) := by
  induction l generalizing s b with
  | nil => exact .rfl s
  | cons x l ih =>
    cases b with
    | nil => exact .rfl s
    | cons y b => exact (memWork_writeLoc s core cached x y).trans (ih _ b)

theorem memWork_writeBytes (s : State) (core ctx gid : Nat) (hint : Hint) (l : List Loc) (b : List Byte) :
    MemWork s (s.writeBytes core ctx gid hint l b) := by
  have pushed := cacheWork_pushConflicts s (s.storeConflicts core gid l)
  exact MemWork.ite
    ((pushed.trans (cacheWork_prepareHome _ _ _ _ _)).memWork.trans (memWork_writeList _ _ _ _ _))
    (((pushed.trans (cacheWork_ensureAll _ _ _ _ _)).memWork.trans (memWork_writeList _ _ _ _ _)).trans
      (cacheWork_noteWriter _ _ _ _).memWork)

theorem memWork_writeHome (s : State) (core ctx gid : Nat) (own : Bool) (l : List Loc) (b : List Byte) :
    MemWork s (s.writeHome core ctx gid own l b) :=
  ((cacheWork_pushConflicts s _).trans (cacheWork_prepareHome _ _ _ _ _)).memWork.trans (memWork_writeList _ _ _ _ _)

theorem memWork_writeUnits (s : State) (gid : Nat) (g : Group) (hint : Hint) (l : List (Nat × List Loc × List Byte)) :
    MemWork s (s.writeUnits gid g hint l) := by
  induction l generalizing s with
  | nil => exact .rfl s
  | cons x l ih => exact (memWork_writeBytes s _ _ _ _ _ _).trans (ih _)

theorem memWork_storeLanes (s : State) (gid : Nat) (g : Group) (a : AccForm) (l : List (LaneAccess × List Loc)) :
    MemWork s (s.storeLanes gid g a l) :=
  MemWork.ite ((memWork_writeUnits s gid g _ _).trans (memWork_free _ _))
    (memWork_writeUnits _ _ _ _ _)

theorem memWork_atomSteps (s : State) (gid : Nat) (g : Group) (i : Instr) (bytes : Nat) (fadd : W32 → W32 → W32)
    (l : List (LaneAccess × List Loc)) : MemWork s (s.atomSteps gid g i bytes fadd l).1 := by
  induction l generalizing s with
  | nil => exact .rfl s
  | cons x l ih =>
    exact ((cacheWork_prepareHome s _ _ _ _).memWork.trans (memWork_writeHome _ _ _ _ _ _ _)).trans (ih _)

theorem memWork_noteGpa (s : State) (ctx core : Nat) (walked : Bool) (gpa : Nat) :
    MemWork s (s.noteGpa ctx core walked gpa) := by
  unfold State.noteGpa
  split
  · exact .rfl s
  · rename_i n _
    have paged : MemWork s (s.notePage n) :=
      MemWork.ite (.rfl s) (cacheWork_mem s _).memWork
    exact MemWork.ite (paged.trans (memWork_updDie _ _ _)) paged

theorem memWork_noteGva (s : State) (ctx core gva : Nat) : MemWork s (s.noteGva ctx core gva) := by
  have noted := memWork_foldl ((s.gpaOf ctx core gva).toList ++ s.walkGpas ctx core gva) _
    (fun s a => memWork_noteGpa s ctx core false a) s
  exact MemWork.ite noted
    (noted.trans (cacheWork_walkReads _ _ _ _).memWork)

theorem memWork_cacheTlb (s : State) (ctx core gva : Nat) (need : Need) : MemWork s (s.cacheTlb ctx core gva need) := by
  unfold State.cacheTlb
  split
  · exact .rfl s
  · split
    · exact memWork_noteGva _ _ _ _
    · exact ((((memWork_foldl _ _ (fun s a => memWork_noteGpa s ctx core false a) s).trans
        (cacheWork_walkReads _ _ _ _).memWork).trans (memWork_foldl _ _ (fun s a => memWork_noteGpa s ctx core true a) _)).trans
        (cacheWork_updCore _ _ _).memWork).trans (memWork_updCluster _ _ _)

theorem memWork_cacheLane (s : State) (g : Group) (a : AccForm) (addr : Nat) : MemWork s (s.cacheLane g a addr) :=
  MemWork.ite (memWork_cacheTlb _ _ _ _ _)
    ((memWork_cacheTlb _ _ _ _ _).trans (memWork_cacheTlb _ _ _ _ _))

/-- An access form performed changes memory and what stands in front of it (R131, R227, R446). -/
theorem memWork_performPast {s t : State} {own : Loc → Bool} {gid : Nat} {g : Group} {i : Instr} {a : AccForm}
    {fadd : W32 → W32 → W32} {lanes : List LaneAccess} {old : List (Nat × List Byte)}
    (h : s.performPast own gid g i a fadd lanes = .done t old) : MemWork s t := by
  unfold State.performPast at h
  split at h
  · cases h
  · rename_i l _
    dsimp only at h
    generalize hs0 : State.touch _ g.core (l.flatMap (·.2)) = s0 at h
    have h0 : MemWork s s0 := by
      rw [← hs0]
      refine (memWork_foldl l _ (fun t x => ?_) s).trans (cacheWork_touch _ _ _).memWork
      exact MemWork.ite (memWork_cacheLane _ _ _ _) (.rfl t)
    generalize hs1 : (if (a.isRelease && lanes.any fun x => sharedLevel x.addr) = true then s0.release gid g a.attrs.scope else s0)
      = s1 at h
    have h1 : MemWork s s1 := by
      rw [← hs1]
      exact MemWork.ite (h0.trans (cacheWork_release _ _ _ _).memWork) h0
    have fin : ∀ u : State, MemWork u
        (if (a.isAcquire && lanes.any fun x => sharedLevel x.addr) = true then u.acquire g a.attrs.scope else u) := fun u =>
      MemWork.ite (cacheWork_acquire _ _ _).memWork (.rfl u)
    split at h
    · split at h
      · cases h
      · cases h
        exact ((h1.trans (fin _)).trans (cacheWork_loadLanes _ _ _ _ _).memWork).trans (fin _)
    · cases h
      exact (h1.trans (memWork_storeLanes _ _ _ _ _)).trans (fin _)
    · split at h
      · cases h
      · split at h
        · cases h
          exact ((h1.trans (memWork_free _ _)).trans (memWork_atomSteps _ _ _ _ _ _ _)).trans (fin _)
        · cases h
          exact (h1.trans (memWork_atomSteps _ _ _ _ _ _ _)).trans (fin _)

theorem memWork_performOp {s t : State} {g : Group} {o : MemOp} {a : AccForm} {fadd : W32 → W32 → W32}
    {old : List (Nat × List Byte)} (h : s.performOp g o a fadd = .done t old) : MemWork s t := by
  unfold State.performOp at h
  split at h
  · exact memWork_performPast h
  · dsimp only at h
    split at h
    · rename_i hp
      cases h
      exact ((cacheWork_updCore s _ _).memWork.trans (memWork_performPast hp)).trans (cacheWork_updCore _ _ _).memWork
    · rename_i hp
      exact absurd h (hp t old)

end Sys2Proof.Machine
end

/-! SUPPORT. A team's save changes no context and no market, and brings no team back to its cores (R452-R456). -/

section

namespace Sys2Proof.Machine

open Sys2Proof

/-! ### Contexts and the market -/

/-- The contexts and the market are the same. -/
def SameMarket (s t : State) : Prop := t.ctxs = s.ctxs ∧ t.market = s.market

theorem SameMarket.rfl (s : State) : SameMarket s s := ⟨.refl _, .refl _⟩

theorem SameMarket.trans {s t u : State} (h : SameMarket s t) (k : SameMarket t u) : SameMarket s u :=
  ⟨k.1.trans h.1, k.2.trans h.2⟩

theorem MemWork.sameMarket {s t : State} (h : MemWork s t) : SameMarket s t := by
  obtain ⟨m, c, d, g, cl, di, fr, rfl⟩ := h
  exact ⟨.refl _, .refl _⟩

theorem CacheWork.sameMarket {s t : State} (h : CacheWork s t) : SameMarket s t := h.memWork.sameMarket

theorem SameMarket.ite {c : Prop} {d : Decidable c} {s t u : State} (ht : SameMarket s t) (hu : SameMarket s u) :
    SameMarket s (if c then t else u) := by
  split
  · exact ht
  · exact hu

theorem sameMarket_foldl {α : Type} (l : List α) (f : State → α → State) (hf : ∀ s a, SameMarket s (f s a)) (s : State) :
    SameMarket s (l.foldl f s) := by
  induction l generalizing s with
  | nil => exact .rfl s
  | cons a l ih => exact (hf s a).trans (ih _)

/-! ### Teams that stay off their cores -/

/-- No team is new or of another context, and none is on its cores that was not before. -/
def TeamsStay (a b : Table Team) : Prop :=
  ∀ k y, b.get k = some y → ∃ x, a.get k = some x ∧ y.ctx = x.ctx ∧ (y.onCores = true → x.onCores = true)

theorem TeamsStay.rfl (a : Table Team) : TeamsStay a a := fun _ y h => ⟨y, h, .refl _, id⟩

theorem TeamsStay.trans {a b c : Table Team} (h : TeamsStay a b) (k : TeamsStay b c) : TeamsStay a c := by
  intro n z hz
  obtain ⟨y, hy, hc, ho⟩ := k n z hz
  obtain ⟨x, hx, hc', ho'⟩ := h n y hy
  exact ⟨x, hx, hc.trans hc', fun e => ho' (ho e)⟩

theorem teamsStay_upd (a : Table Team) (n : Nat) (f : Team → Team)
    (hf : ∀ x, (f x).ctx = x.ctx ∧ ((f x).onCores = true → x.onCores = true)) : TeamsStay a (a.upd n f) := by
  intro k y hy
  by_cases h : k = n
  · subst h
    rw [Table.get_upd_same] at hy
    obtain ⟨x, hx, rfl⟩ := Option.map_eq_some_iff.1 hy
    exact ⟨x, hx, hf x⟩
  · rw [Table.get_upd_ne _ _ _ _ h] at hy
    exact ⟨y, hy, .refl _, id⟩

/-- What the save of a team and the work it finishes may do to contexts, market and teams. -/
def Calm (s t : State) : Prop := SameMarket s t ∧ TeamsStay s.teams t.teams

theorem Calm.rfl (s : State) : Calm s s := ⟨.rfl s, .rfl _⟩

theorem Calm.trans {s t u : State} (h : Calm s t) (k : Calm t u) : Calm s u := ⟨h.1.trans k.1, h.2.trans k.2⟩

theorem Calm.ite {c : Prop} {d : Decidable c} {s t u : State} (ht : Calm s t) (hu : Calm s u) :
    Calm s (if c then t else u) := by
  split
  · exact ht
  · exact hu

theorem calm_foldl {α : Type} (l : List α) (f : State → α → State) (hf : ∀ s a, Calm s (f s a)) (s : State) :
    Calm s (l.foldl f s) := by
  induction l generalizing s with
  | nil => exact .rfl s
  | cons a l ih => exact (hf s a).trans (ih _)

theorem calm_of_eq {s t : State} (h1 : t.ctxs = s.ctxs) (h2 : t.market = s.market) (h3 : t.teams = s.teams) : Calm s t :=
  ⟨⟨h1, h2⟩, h3 ▸ .rfl _⟩

theorem MemWork.calm {s t : State} (h : MemWork s t) : Calm s t := by
  obtain ⟨m, c, d, g, cl, di, fr, rfl⟩ := h
  exact calm_of_eq (.refl _) (.refl _) (.refl _)

theorem CacheWork.calm {s t : State} (h : CacheWork s t) : Calm s t := h.memWork.calm

theorem calm_updGroup (s : State) (k : Nat) (f : Group → Group) : Calm s (s.updGroup k f) := (memWork_updGroup s k f).calm
theorem calm_updCluster (s : State) (k : Nat) (f : Cluster → Cluster) : Calm s (s.updCluster k f) :=
  (memWork_updCluster s k f).calm
theorem calm_updCore (s : State) (k : Nat) (f : Core → Core) : Calm s (s.updCore k f) := (cacheWork_updCore s k f).calm
theorem calm_push (s : State) (i : Instr) : Calm s (s.push i) := (cacheWork_push s i).calm
theorem calm_setGroup (s : State) (k : Nat) (g : Group) : Calm s (s.setGroup k g) := calm_of_eq rfl rfl rfl
theorem calm_updHalf (s : State) (k : Nat) (f : Half → Half) : Calm s (s.updHalf k f) := calm_of_eq rfl rfl rfl
theorem calm_updTask (s : State) (k : Nat) (f : Task → Task) : Calm s (s.updTask k f) := calm_of_eq rfl rfl rfl
theorem calm_ops (s : State) (o : List MemOp) : Calm s { s with ops := o } := calm_of_eq rfl rfl rfl
theorem calm_nextId (s : State) (n : Nat) : Calm s { s with nextId := n } := calm_of_eq rfl rfl rfl
theorem calm_fatal (s : State) (r : TrapRec) : Calm s (s.fatal r) := calm_of_eq rfl rfl rfl

theorem calm_updTeam (s : State) (id : Nat) (f : Team → Team)
    (hf : ∀ x, (f x).ctx = x.ctx ∧ ((f x).onCores = true → x.onCores = true)) : Calm s (s.updTeam id f) :=
  ⟨⟨rfl, rfl⟩, teamsStay_upd s.teams id f hf⟩

theorem calm_updTeam_of_state (s : State) (k : Nat) (f : Team → Team) (hc : ∀ x, (f x).ctx = x.ctx)
    (hs : ∀ x, (f x).state = x.state) : Calm s (s.updTeam k f) :=
  calm_updTeam s k f (fun x => ⟨hc x, by rw [Team.onCores, Team.onCores, hs]; exact id⟩)

/-! ### Waits, causes and aborts -/

theorem calm_wake (s : State) (k f : Nat) : Calm s (s.wake k f) := calm_updGroup _ _ _

theorem calm_leaveWaits (s : State) (k : Nat) (p : Nat → Bool) : Calm s (s.leaveWaits k p) := by
  unfold State.leaveWaits
  split
  · exact .rfl s
  · rename_i g _
    have woken : ∀ (l : List RingWait) (r : List RingWait), Calm s
        (l.foldl (fun s r => s.push (.ringWaitWake r.gid r.fid)) { s with rings := r }) := fun l r =>
      (calm_of_eq (s := s) (t := { s with rings := r }) (.refl _) (.refl _) (.refl _)).trans
        (calm_foldl l _ (fun s _ => calm_push s _) _)
    have left := fun l r cores (enqs : Team → List (Nat × Nat)) => ((woken l r).trans (calm_updCore _ g.core cores)).trans
      (calm_updTeam_of_state _ g.team (fun t => { t with waitingEnqs := enqs t }) (fun _ => rfl) (fun _ => rfl))
    exact Calm.ite ((left _ _ _ _).trans (calm_push _ _)) (left _ _ _ _)

theorem calm_dropUrgent (s : State) (k : Nat) (p : Nat → Bool) : Calm s (s.dropUrgent k p) := by
  unfold State.dropUrgent
  split
  · exact .rfl s
  · exact calm_updCore _ _ _

theorem calm_opGone (s : State) (core gid : Nat) : Calm s (s.opGone core gid) := by
  have woken := fun l : List (Nat × Nat) => calm_foldl l (fun s x => s.wake x.1 x.2) (fun s x => calm_wake s _ _) s
  unfold State.opGone
  dsimp only
  split
  · exact Calm.ite ((woken _).trans (calm_push _ _)) (woken _)
  · exact woken _

theorem calm_giveBack (s : State) (o : MemOp) : Calm s (s.giveBack o) := by
  unfold State.giveBack
  split
  · exact .rfl s
  · exact calm_updGroup _ _ _

theorem calm_dropWaiting (s : State) (gid fid : Nat) : Calm s (s.dropWaiting gid fid) := by
  unfold State.dropWaiting
  dsimp only
  split
  · exact .rfl s
  · exact ((calm_giveBack s _).trans (calm_ops _ _)).trans (calm_opGone _ _ _)

theorem calm_deliver (s : State) (gid fid code : Nat) (b : Bool) (epc tval : W64) :
    Calm s (s.deliver gid fid code b epc tval) := by
  have leaves : ∀ t, Calm s t →
      Calm s (((t.leaveWaits gid (fun f => f == fid)).dropUrgent gid (fun _ => true)).dropWaiting gid fid) := fun t h =>
    ((h.trans (calm_leaveWaits _ _ _)).trans (calm_dropUrgent _ _ _)).trans (calm_dropWaiting _ _ _)
  unfold State.deliver
  split
  · exact .rfl s
  · split
    · exact calm_setGroup _ _ _
    · split
      · exact leaves _ (calm_setGroup _ _ _)
      · exact (leaves _ (calm_setGroup _ _ _)).trans (calm_fatal _ _)

theorem calm_freeBlocks (s : State) (core octet n : Nat) : Calm s (s.freeBlocks core octet n) :=
  (calm_updCore s core _).trans (calm_push _ _)

/-- A pending cause is taken from the flags of the group or of its bobbin. -/
theorem takePending_setGroup {s t : State} {gid c : Nat} {tv : W64} {b : Bool} (h : s.takePending gid = some (c, tv, b, t)) :
    ∃ k g, t = s.setGroup k g := by
  unfold State.takePending at h
  split at h
  · cases h
  · split at h
    · cases h
      exact ⟨_, _, .refl _⟩
    · split at h
      · cases h
      · split at h
        · cases h
        · split at h
          · cases h
          · split at h
            · cases h
            · cases h
              exact ⟨_, _, .refl _⟩

theorem calm_takePending {s t : State} {gid c : Nat} {tv : W64} {b : Bool} (h : s.takePending gid = some (c, tv, b, t)) :
    Calm s t := by
  obtain ⟨k, g, rfl⟩ := takePending_setGroup h
  exact calm_setGroup s k g

theorem calm_deliverPending (s : State) (gid fid : Nat) (epc : W64) : Calm s (s.deliverPending gid fid epc) := by
  unfold State.deliverPending
  split
  · exact .rfl s
  · rename_i h
    exact (calm_takePending h).trans (calm_deliver _ _ _ _ _ _ _)

theorem calm_unstall (s : State) (gid : Nat) : Calm s (s.unstall gid) := by
  unfold State.unstall
  split
  · exact .rfl s
  · exact (calm_updGroup s gid _).trans (calm_ops _ _)

theorem calm_resumeBobbin (s : State) (g : Group) : Calm s (s.resumeBobbin g) := by
  unfold State.resumeBobbin
  split
  · exact .rfl s
  · exact Calm.ite (.rfl s) ((calm_updGroup _ _ _).trans (calm_unstall _ _))

theorem calm_abortGroup (s : State) (gid code user : Nat) (tval : Option W64) : Calm s (s.abortGroup gid code user tval) := by
  unfold State.abortGroup
  split
  · exact .rfl s
  · rename_i g _
    split
    · exact .rfl s
    · rename_i t _
      have begun : ∀ (x : Group) (n : Nat) (o : List MemOp), Calm s { s.setGroup gid x with nextId := n, ops := o } :=
        fun x n o => calm_of_eq (.refl _) (.refl _) (.refl _)
      have freed := fun x n o {c : Prop} {d : Decidable c} =>
        ((Calm.ite (c := c) (d := d) ((begun x n o).trans (calm_opGone _ g.core gid)) (begun x n o)).trans
          (calm_leaveWaits _ gid (fun _ => true))).trans (calm_freeBlocks _ g.core g.octet t.blocks)
      have ends : ∀ u : State, Calm s u → Calm s (if (g.hm && t.hm) = true then u
          else (u.unstall gid).deliverPending gid s.nextId t.label.addr) := fun u h =>
        Calm.ite h ((h.trans (calm_unstall _ _)).trans (calm_deliverPending _ _ _ _))
      refine ends _ ?_
      split
      · exact Calm.ite ((freed _ _ _).trans (calm_resumeBobbin _ _)) (freed _ _ _)
      · exact freed _ _ _

/-! ### Entries of the logs -/

theorem calm_dropOp (s : State) (id : Nat) : Calm s (s.dropOp id) := calm_ops s _

/-- Some consumers accept an entry, with the ids that they take (R257-R260, R327). -/
theorem calm_accept (s : State) (gid : Nat) (g : Group) (cm : Consumers) (o : Owing) : Calm s (s.accept gid g cm o) := by
  have sent : ∀ (u : State) (f : Group → Group) (n : Nat),
      Calm u { (u.cleanTeam g.core gid).updGroup gid f with nextId := n } := fun u f n =>
    ((cacheWork_cleanTeam u g.core gid).calm.trans (calm_updGroup _ _ _)).trans (calm_nextId _ _)
  have joined : ∀ (u : State) (f : Cluster → Cluster) (h : Group → Group) (n : Nat),
      Calm u { (u.updCluster (clusterNo g.core) f).updGroup gid h with nextId := n } := fun u f h n =>
    ((calm_updCluster u _ f).trans (calm_updGroup _ _ _)).trans (calm_nextId _ _)
  unfold State.accept
  refine Calm.trans ?_ (Calm.ite (sent _ _ _) (.rfl _))
  refine Calm.trans ?_ (Calm.ite (Calm.ite ((joined _ _ _ _).trans (calm_push _ _)) (joined _ _ _ _)) (.rfl _))
  refine Calm.trans ?_ (Calm.ite (sent _ _ _) (.rfl _))
  exact Calm.ite (calm_updGroup _ _ _) (.rfl _)

theorem calm_offer (s : State) (gid : Nat) (o : Owing) : Calm s (s.offer gid o) := by
  unfold State.offer
  split
  · exact .rfl s
  · exact Calm.ite ((calm_accept s gid _ _ o).trans (calm_updGroup _ _ _)) (calm_accept s gid _ _ o)

theorem calm_offerOwed (s : State) (gid : Nat) : Calm s (s.offerOwed gid) := by
  unfold State.offerOwed
  split
  · exact .rfl s
  · exact (calm_updGroup s gid _).trans (calm_foldl _ _ (fun s o => calm_offer s gid o) _)

theorem calm_opDone (s : State) (core gid : Nat) : Calm s (s.opDone core gid) :=
  (calm_opGone s core gid).trans (calm_offerOwed _ _)

theorem replay_of_ite {c : Prop} {d : Decidable c} {x : Replay} {t : State} (h : (if c then .wait else x) = Replay.done t) :
    x = .done t := by
  split at h
  · cases h
  · exact h

theorem calm_replayEntry {s t : State} {o : MemOp} (h : s.replayEntry o = .done t) : Calm s t := by
  unfold State.replayEntry at h
  split at h
  · replace h := replay_of_ite (replay_of_ite (replay_of_ite h))
    split at h
    · rename_i hp
      cases h
      exact ((memWork_performOp hp).calm.trans (calm_dropOp _ _)).trans (calm_opDone _ _ _)
    · split at h <;> cases h
    · cases h
  · cases h

theorem calm_replayEntries (s : State) (l : List MemOp) : Calm s (s.replayEntries l) := by
  induction l generalizing s with
  | nil => exact .rfl s
  | cons o l ih =>
    unfold State.replayEntries
    split
    · rename_i h
      exact (calm_replayEntry h).trans (ih _)
    · exact .rfl s

theorem calm_replayGroup (s : State) (gid : Nat) : Calm s (s.replayGroup gid) := calm_replayEntries _ _

/-! ### The save of a team (R454) -/

theorem calm_quiesce (s : State) (gid : Nat) : Calm s (s.quiesce gid) := by
  have before := (calm_abortGroup s gid 0x07 0 none).trans (calm_replayGroup _ gid)
  unfold State.quiesce
  dsimp only
  split
  · exact before
  · rename_i g _
    exact ((before.trans ((cacheWork_cleanCore _ g.core gid).trans (cacheWork_cleanCtx _ g.core g.ctx)).calm).trans
      (calm_updGroup _ gid _)).trans (calm_ops _ _)

theorem calm_saveTiles (s : State) (id : Nat) (t : Team) : Calm s (s.saveTiles id t) := by
  refine calm_foldl _ _ (fun s h => ?_) s
  refine Calm.ite (.rfl s) ?_
  split
  · exact .rfl s
  · refine Calm.trans ?_ (calm_updHalf _ _ _)
    exact calm_updTeam_of_state s id _ (fun _ => rfl) (fun _ => rfl)

theorem calm_saveStagings (s : State) (id : Nat) (t : Team) : Calm s (s.saveStagings id t) := by
  refine calm_foldl _ _ (fun s h => ?_) s
  split
  · refine Calm.ite (Calm.trans ?_ (calm_updHalf _ _ _)) (.rfl s)
    exact calm_updTeam_of_state s id _ (fun _ => rfl) (fun _ => rfl)
  · exact .rfl s

theorem calm_saveSram (s : State) (id : Nat) (t : Team) : Calm s (s.saveSram id t) := by
  refine Calm.ite (.rfl s) ?_
  dsimp only
  split
  · exact .rfl s
  · exact (calm_updTask s _ _).trans (calm_updCluster _ _ _)

theorem calm_releaseGroup (s : State) (gid : Nat) (g : Group) : Calm s (s.releaseGroup gid g) :=
  (((calm_leaveWaits s gid _).trans (calm_updCore _ _ _)).trans (calm_freeBlocks _ _ _ _)).trans (calm_updHalf _ _ _)

theorem calm_unitsFree (s : State) (gid : Nat) (g : Group) : Calm s (s.unitsFree gid g) := calm_opGone s g.core gid

theorem calm_writeImage (s : State) (id : Nat) : Calm s (s.writeImage id) := by
  unfold State.writeImage
  split
  · exact .rfl s
  · split
    · exact .rfl s
    · exact Calm.ite (.rfl s) ((memWork_writeHome s _ _ _ _ _ _).calm.trans
        (calm_updTeam_of_state _ id _ (fun _ => rfl) (fun _ => rfl)))

theorem onCores_saved (t : Team) (why : SaveReason) :
    ({ t with state := .saved why, waitingEnqs := [] } : Team).onCores = false := rfl

/-- A save: every team stays as it is, or comes off its cores; the saved one does. -/
theorem saveTeam_spec (s : State) (id : Nat) (why : SaveReason) :
    Calm s (s.saveTeam id why) ∧ ∀ y, (s.saveTeam id why).teams.get id = some y → y.onCores = false := by
  unfold State.saveTeam
  split
  · rename_i h
    exact ⟨.rfl s, fun y hy => by simp [h] at hy⟩
  · rename_i t ht
    split
    · rename_i hoff
      exact ⟨.rfl s, fun y hy => by simpa [← Option.some.inj (ht.symm.trans hy)] using hoff⟩
    · dsimp only
      generalize hs3 : List.foldl _ (State.saveSram _ id t) (s.liveGroups t) = s3
      have h3 : Calm s s3 := by
        rw [← hs3]
        refine ((((?_ : Calm s _).trans (calm_saveStagings _ id t)).trans (calm_saveTiles _ id t)).trans
          (calm_saveSram _ id t)).trans (calm_foldl _ _ (fun u e => ?_) _)
        · exact (calm_of_eq (.refl _) (.refl _) (.refl _)).trans
            (calm_foldl _ _ (fun u (e : Nat × Group) => calm_quiesce u e.1) _)
        · split
          · exact calm_releaseGroup _ _ _
          · exact .rfl u
      have rest : ∀ u : State, Calm u (((s.liveGroups t).foldl (fun s e => s.unitsFree e.1 e.2) u).writeImage id) := fun u =>
        (calm_foldl (s.liveGroups t) _ (fun u e => calm_unitsFree u e.1 e.2) u).trans (calm_writeImage _ id)
      refine ⟨(h3.trans (calm_updTeam _ id (fun t => { t with state := .saved why, waitingEnqs := [] })
        (fun x => ⟨rfl, fun h => absurd h (by simp [onCores_saved])⟩))).trans (rest _), fun y hy => ?_⟩
      obtain ⟨x, hx, -, hon⟩ := (rest _).2 id y hy
      rw [State.updTeam_teams, Table.get_upd_same] at hx
      obtain ⟨z, -, rfl⟩ := Option.map_eq_some_iff.1 hx
      exact Bool.eq_false_iff.2 (fun e => absurd (hon e) (by simp [onCores_saved]))

theorem calm_saveWhere (s : State) (ctx : Nat) (why : SaveReason) (p : Team → Bool) : Calm s (s.saveWhere ctx why p) :=
  calm_foldl _ _ (fun s k => (saveTeam_spec s k why).1) s

/-- Saves of some teams leave each of them off its cores. -/
theorem foldl_saveTeam_off (why : SaveReason) (l : List Nat) (s : State) (k : Nat) (hk : k ∈ l) (y : Team)
    (hy : (l.foldl (fun s k => s.saveTeam k why) s).teams.get k = some y) : y.onCores = false := by
  induction l generalizing s with
  | nil => cases hk
  | cons j l ih =>
    obtain ⟨x, hx, -, hon⟩ := (calm_foldl l _ (fun s k => (saveTeam_spec s k why).1) (s.saveTeam j why)).2 k y hy
    rcases List.mem_cons.1 hk with rfl | hk
    · exact Bool.eq_false_iff.2 (fun e => Bool.eq_false_iff.1 ((saveTeam_spec s k why).2 x hx) (hon e))
    · exact ih _ hk hy

theorem Table.mem_of_get {α : Type} {t : Table α} {k : Nat} {x : α} (h : t.get k = some x) : (k, x) ∈ t := by
  induction t with
  | nil => cases h
  | cons e t ih =>
    obtain ⟨j, y⟩ := e
    simp only [Table.get] at h
    split at h
    · rename_i hk
      obtain rfl : y = x := Option.some.inj h
      exact hk ▸ List.mem_cons_self
    · exact List.mem_cons_of_mem _ (ih h)

/-- A context saved whole is on no core (R357). -/
theorem saveWhere_all_off (s : State) (ctx : Nat) (why : SaveReason) (k : Nat) (y : Team)
    (hy : (s.saveWhere ctx why (fun _ => true)).teams.get k = some y) (hc : y.ctx = ctx) : y.onCores = false := by
  obtain ⟨x, hx, hcx, hon⟩ := (calm_saveWhere s ctx why (fun _ => true)).2 k y hy
  by_cases h : x.onCores = true
  · refine foldl_saveTeam_off why _ s k ?_ y hy
    exact List.mem_map.2 ⟨(k, x), List.mem_filter.2 ⟨Table.mem_of_get hx, by simp [h, ← hcx, hc]⟩, .refl _⟩
  · exact Bool.eq_false_iff.2 (fun e => h (hon e))

end Sys2Proof.Machine
end

/-! SUPPORT. An auction, and what the instants of an interval may change (R7, R347, R349-R354, R356-R358). -/

section

namespace Sys2Proof.Machine

open Sys2Proof

/-! ### One auction (R350) -/

theorem sumNat_cons (x : Nat) (l : List Nat) : sumNat (x :: l) = x + sumNat l := by
  simp only [sumNat, ← List.sum_eq_foldl, List.sum_cons]

theorem le_maxNat {l : List Nat} {x : Nat} (h : x ∈ l) : x ≤ maxNat l := by
  have gen : ∀ (l : List Nat) (a : Nat), a ≤ l.foldl max a ∧ ∀ x ∈ l, x ≤ l.foldl max a := by
    intro l
    induction l with
    | nil => simp
    | cons y l ih =>
      intro a
      obtain ⟨ha, hl⟩ := ih (max a y)
      refine ⟨(Nat.le_max_left a y).trans ha, fun x hx => ?_⟩
      rcases List.mem_cons.1 hx with rfl | hx
      · exact (Nat.le_max_right a x).trans ha
      · exact hl x hx
  exact (gen l 0).2 x h

/-- Winners get no more than there is. -/
theorem sumNat_fillBids_le (u : Nat) (l : List Bid) : sumNat ((fillBids u l).map (·.2)) ≤ u := by
  induction l generalizing u with
  | nil => exact Nat.zero_le u
  | cons b l ih =>
    rw [fillBids, List.map_cons, sumNat_cons]
    have rest := ih (u - min b.kept u)
    omega

theorem reserve_le_price (u r : Nat) (bids : List Bid) : r ≤ (clearing u r bids).price := by
  unfold clearing
  dsimp only
  split
  · exact Nat.le_refl r
  · exact Nat.le_max_left _ _

theorem won_add_left (u r : Nat) (bids : List Bid) :
    sumNat ((clearing u r bids).won.map (·.2)) + (clearing u r bids).left = u :=
  Nat.add_sub_cancel' (sumNat_fillBids_le u _)

theorem rejected_le_price {u r : Nat} {bids : List Bid} {b : Bid} (hb : b ∈ bids) (hk : b.kept ≠ 0)
    (hr : wonBy (clearing u r bids).won b.ctx < b.kept) : b.price ≤ (clearing u r bids).price := by
  unfold clearing at hr ⊢
  dsimp only at hr ⊢
  generalize fillBids u _ = won at hr ⊢
  have hmem : b.price ∈ ((bids.filter (fun b => b.kept != 0)).filter (fun b => wonBy won b.ctx < b.kept)).map (·.price) :=
    List.mem_map_of_mem (List.mem_filter.2 ⟨List.mem_filter.2 ⟨hb, by simpa using hk⟩, by simpa using hr⟩)
  rw [if_neg (by simpa using List.ne_nil_of_mem hmem)]
  exact (le_maxNat hmem).trans (Nat.le_max_right _ _)

/-! ### The snapshot (R349-R351, R355, R357) -/

/-- Every context is there and keeps its purse, its lease and its home. -/
def LeasesKept (a b : Table Ctx) : Prop :=
  ∀ id c, a.get id = some c → ∃ d, b.get id = some d ∧ d.purse = c.purse ∧ d.held = c.held ∧ d.home = c.home

theorem LeasesKept.rfl (a : Table Ctx) : LeasesKept a a := fun _ c h => ⟨c, h, .refl _, .refl _, .refl _⟩

theorem LeasesKept.trans {a b c : Table Ctx} (h : LeasesKept a b) (k : LeasesKept b c) : LeasesKept a c := by
  intro id x hx
  obtain ⟨y, hy, h1, h2, h3⟩ := h id x hx
  obtain ⟨z, hz, k1, k2, k3⟩ := k id y hy
  exact ⟨z, hz, k1.trans h1, k2.trans h2, k3.trans h3⟩

theorem leasesKept_upd (a : Table Ctx) (k : Nat) (f : Ctx → Ctx)
    (hf : ∀ c, (f c).purse = c.purse ∧ (f c).held = c.held ∧ (f c).home = c.home) : LeasesKept a (a.upd k f) := by
  intro id c h
  by_cases hk : id = k
  · subst hk
    exact ⟨f c, by rw [Table.get_upd_same, h, Option.map_some], hf c⟩
  · exact ⟨c, by rw [Table.get_upd_ne _ _ _ _ hk, h], rfl, rfl, rfl⟩

/-- The leases are kept; memory and groups are the same, and so is the interval. -/
def KeepsLeases (s t : State) : Prop :=
  t.mem = s.mem ∧ t.groups = s.groups ∧ t.market.interval = s.market.interval ∧ LeasesKept s.ctxs t.ctxs

theorem KeepsLeases.rfl (s : State) : KeepsLeases s s := ⟨.refl _, .refl _, .refl _, .rfl _⟩

theorem KeepsLeases.trans {s t u : State} (h : KeepsLeases s t) (k : KeepsLeases t u) : KeepsLeases s u := by
  obtain ⟨hm, hg, hi, hc⟩ := h
  obtain ⟨km, kg, ki, kc⟩ := k
  exact ⟨km.trans hm, kg.trans hg, ki.trans hi, hc.trans kc⟩

theorem keepsLeases_foldl {α : Type} (l : List α) (f : State → α → State) (hf : ∀ s a, KeepsLeases s (f s a)) (s : State) :
    KeepsLeases s (l.foldl f s) := by
  induction l generalizing s with
  | nil => exact .rfl s
  | cons a l ih => exact (hf s a).trans (ih _)

theorem keepsLeases_updCtx (s : State) (k : Nat) (f : Ctx → Ctx)
    (hf : ∀ c, (f c).purse = c.purse ∧ (f c).held = c.held ∧ (f c).home = c.home) : KeepsLeases s (s.updCtx k f) :=
  ⟨rfl, rfl, rfl, leasesKept_upd s.ctxs k f hf⟩

theorem keepsLeases_updCtx_market (s : State) (k : Nat) (f : Ctx → Ctx) (m : Market) (hm : m.interval = s.market.interval)
    (hf : ∀ c, (f c).purse = c.purse ∧ (f c).held = c.held ∧ (f c).home = c.home) :
    KeepsLeases s { s.updCtx k f with market := m } :=
  ⟨rfl, rfl, hm, leasesKept_upd s.ctxs k f hf⟩

theorem keepsLeases_market (s : State) (m : Market) (h : m.interval = s.market.interval) : KeepsLeases s { s with market := m } :=
  ⟨rfl, rfl, h, .rfl _⟩

/-- Progress grants leave the stage as it is (R355). -/
theorem grantAll_spec (l : List (Nat × Ctx)) (s : State) (free : List Nat) :
    KeepsLeases s (s.grantAll l free) ∧ (s.grantAll l free).market.stage = s.market.stage := by
  induction l generalizing s free with
  | nil => exact ⟨.rfl s, rfl⟩
  | cons e l ih =>
    unfold State.grantAll
    split
    · exact ⟨.rfl s, rfl⟩
    · rename_i d _
      obtain ⟨hk, hs⟩ := ih
        { s.updCtx e.1 (fun c => { c with next := { c.next with
            progress := some (d, ((s.dies.get d).map (·.progressHalf)).getD 0) } })
          with market := { s.market with rotation := e.1 } } (free.filter (fun k => k != d))
      refine ⟨KeepsLeases.trans ?_ hk, hs⟩
      exact keepsLeases_updCtx_market s e.1 _ _ rfl (fun _ => ⟨rfl, rfl, rfl⟩)

/-- The clearing moves no lease and no purse (log 91). -/
theorem clear_spec (s : State) (first : List Snap) :
    KeepsLeases s (s.clear first) ∧ (s.clear first).market.stage = .snapshotted := by
  unfold State.clear State.grantProgress
  dsimp only
  generalize hs2 : List.foldl _ (List.foldl _ s (s.shuttle first first []).2) (s.shuttle first first []).1 = s2
  have h2 : KeepsLeases s s2 := by
    rw [← hs2]
    refine (keepsLeases_foldl _ _ (fun t m => ?_) s).trans (keepsLeases_foldl _ _ (fun t x => ?_) _)
    · exact keepsLeases_updCtx t _ _ (fun c => by cases m.2.pkg <;> exact ⟨rfl, rfl, rfl⟩)
    · exact keepsLeases_updCtx t _ _ (fun c => ⟨rfl, rfl, rfl⟩)
  obtain ⟨hg, hstage⟩ := grantAll_spec _ _ _
  exact ⟨(h2.trans (keepsLeases_market _ _ rfl)).trans hg, hstage⟩

/-! ### Publication (R352) -/

theorem Table.get_map {α β : Type} (t : Table α) (f : Nat → α → β) (k : Nat) :
    Table.get (t.map (fun e => (e.1, f e.1 e.2))) k = (t.get k).map (f k) := by
  induction t with
  | nil => rfl
  | cons e t ih =>
    simp only [List.map_cons, Table.get, ih]
    split
    · rename_i h
      rw [h, Option.map_some]
    · rfl

/-! ### Release (R353, R354) -/

/-- A context with nothing to give up gives up nothing. -/
theorem releaseCtx_of_nothing {s : State} {id : Nat} {c : Ctx} (ho : c.offer = none) (hl : c.lostHalves = [])
    (hb : c.held.units.bank.length ≤ c.keptBanks) (hm : c.moveTo = none)
    (hw : ∀ k ∈ c.held.units.way, k ∈ c.next.units.way) : s.releaseCtx id c = s := by
  have hsave : s.saveWhere id .lease (fun t => t.cores.any (fun k => c.lostHalves.contains (coreHalf k)) ||
      (c.keptBanks < c.held.units.bank.length && decide (c.keptBanks < (s.launchOf t.task).banks))) = s := by
    have none : s.teams.filter (fun e => e.2.ctx == id && e.2.onCores &&
        (e.2.cores.any (fun k => c.lostHalves.contains (coreHalf k)) ||
          (c.keptBanks < c.held.units.bank.length && decide (c.keptBanks < (s.launchOf e.2.task).banks)))) = [] := by
      refine List.filter_eq_nil_iff.2 (fun e _ => ?_)
      simp [hl, Nat.not_lt.2 hb]
    rw [State.saveWhere, none]
    rfl
  have hways : c.held.units.way.filter (fun k => c.moveTo.isSome || !c.next.units.way.contains k) = [] := by
    refine List.filter_eq_nil_iff.2 (fun k hk => ?_)
    simp [hm, hw k hk]
  unfold State.releaseCtx
  dsimp only
  rw [hsave, hways, Nat.sub_eq_zero_of_le hb, ho]
  simp only [range, List.foldl_nil, State.l2Drop, List.contains_nil, Bool.and_false, Bool.not_false, List.filter_true]

theorem foldl_releaseCtx_of_nothing {s : State} {l : List (Nat × Ctx)}
    (h : ∀ e ∈ l, ∀ t : State, t.releaseCtx e.1 e.2 = t) : l.foldl (fun s e => s.releaseCtx e.1 e.2) s = s := by
  induction l with
  | nil => rfl
  | cons e l ih =>
    obtain ⟨he, hl⟩ := List.forall_mem_cons.1 h
    rw [List.foldl_cons, he s]
    exact ih hl

/-! ### The start of an interval (R7, R347, R353) -/

theorem sameMarket_of_eq {s t : State} (h1 : t.ctxs = s.ctxs) (h2 : t.market = s.market) : SameMarket s t := ⟨h1, h2⟩

theorem memWork_startMove {s t : State} {k : Nat} {p : Page} {far : Bool} {die frame : Nat}
    (h : s.startMove k p far die frame = some t) : MemWork s t := by
  unfold State.startMove at h
  obtain ⟨-, e⟩ := Option.ite_none_right_eq_some.1 h
  obtain rfl := Option.some.inj e
  exact ((cacheWork_cleanPage s p).trans (cacheWork_updPage _ _ _)).memWork

theorem memWork_rehome (s : State) (k : Nat) (p : Page) (die : Nat) : MemWork s (s.rehome k p die) :=
  MemWork.ite (.rfl s) ((cacheWork_cleanPage s p).trans (cacheWork_updPage _ _ _)).memWork

theorem memWork_requestMove (s : State) (k : Nat) (m : PageMove) : MemWork s (s.requestMove k m) := by
  unfold State.requestMove
  split
  · exact .rfl s
  · refine MemWork.ite (cacheWork_updPage _ _ _).memWork ?_
    split
    · dsimp only
      split
      · rename_i h
        exact (memWork_free s _).trans (memWork_startMove h)
      · exact (memWork_free s _).trans (cacheWork_updPage _ _ _).memWork
    · split
      · exact MemWork.ite (memWork_rehome _ _ _ _) (.rfl s)
      · exact .rfl s

theorem memWork_decideAgain (s : State) (k : Nat) (l : List PageMove) : MemWork s (s.decideAgain k l) := by
  induction l generalizing s with
  | nil => exact .rfl s
  | cons m l ih =>
    cases m with
    | evict => exact (cacheWork_push s _).memWork.trans (ih _)
    | promote => exact (memWork_requestMove s k _).trans (ih _)
    | migrate d => exact (memWork_requestMove s k _).trans (ih _)

theorem memWork_nextRequest (s : State) (k : Nat) : MemWork s (s.nextRequest k) := by
  unfold State.nextRequest
  split
  · exact .rfl s
  · exact MemWork.ite (.rfl s) ((cacheWork_updPage s k _).memWork.trans (memWork_decideAgain _ _ _))

theorem memWork_retryMoves (s : State) : MemWork s s.retryMoves := by
  refine memWork_foldl _ _ (fun t k => ?_) s
  split
  · exact MemWork.ite (.rfl t) (memWork_nextRequest _ _)
  · exact .rfl t

theorem memWork_movePages (s : State) (ctx old die : Nat) : MemWork s (s.movePages ctx old die) :=
  (memWork_foldl _ _ (fun t (e : Nat × Page) => memWork_rehome t e.1 e.2 die) s).trans
    (memWork_foldl _ _ (fun t (e : Nat × Page) => memWork_requestMove t e.1 _) _)

theorem memWork_loadBank (s : State) (ctx die slot bank : Nat) : MemWork s (s.loadBank ctx die slot bank) := by
  unfold State.loadBank
  split
  · exact .rfl s
  · exact (cacheWork_mem s _).memWork.trans (memWork_updDie _ die _)

theorem memWork_loadBanks (s : State) (id : Nat) (old new : Ctx) : MemWork s (s.loadBanks id old new) :=
  memWork_foldl _ _ (fun t _ => MemWork.ite (.rfl t) (memWork_loadBank _ _ _ _ _)) s

theorem sameMarket_freshCounters (s : State) (old new : Ctx) : SameMarket s (s.freshCounters old new) :=
  sameMarket_foldl _ _ (fun t (_ : Nat × Nat) => (calm_updHalf t _ _).1) s

theorem sameMarket_dropPackets (s : State) (die : Nat) (old new : List Byte) : SameMarket s (s.dropPackets die old new) :=
  SameMarket.ite (.rfl s) (sameMarket_of_eq rfl rfl)

theorem sameMarket_startPlan (s : State) (die : Nat) (d : Die) : SameMarket s (s.startPlan die d) :=
  SameMarket.ite (.rfl s) (SameMarket.ite ((sameMarket_dropPackets s die _ _).trans (sameMarket_of_eq rfl rfl))
    (sameMarket_of_eq rfl rfl))

theorem sameMarket_oweMoved (s : State) (id : Nat) (t : Team) : SameMarket s (s.oweMoved id t) := by
  unfold State.oweMoved
  split
  · exact .rfl s
  · refine SameMarket.ite (.rfl s) ?_
    dsimp only
    split
    · exact sameMarket_of_eq rfl rfl
    · exact sameMarket_of_eq rfl rfl

theorem sameMarket_endEdges (s : State) (ctx : Nat) : SameMarket s (s.endEdges ctx) := by
  refine sameMarket_foldl _ _ (fun t e => ?_) s
  split
  · exact SameMarket.ite ((cacheWork_flushRegion t ctx e.2.ranges).sameMarket.trans (sameMarket_of_eq rfl rfl)) (.rfl t)
  · exact .rfl t

theorem sameMarket_sendWork (s : State) (id : Nat) (c : Ctx) : SameMarket s (s.sendWork id c) := by
  unfold State.sendWork
  split
  · exact .rfl s
  · exact SameMarket.ite (.rfl s)
      (((sameMarket_endEdges s id).trans (cacheWork_pagesAway _ id _).sameMarket).trans (sameMarket_of_eq rfl rfl))

/-- The market is the same, and so is every context of a number that `p` picks. -/
def SameCtxs (p : Nat → Prop) (s t : State) : Prop :=
  (∀ id, p id → t.ctxs.get id = s.ctxs.get id) ∧ t.market = s.market

theorem SameCtxs.rfl {p : Nat → Prop} (s : State) : SameCtxs p s s := ⟨fun _ _ => .refl _, .refl _⟩

theorem SameCtxs.trans {p : Nat → Prop} {s t u : State} (h : SameCtxs p s t) (k : SameCtxs p t u) : SameCtxs p s u :=
  ⟨fun id hp => (k.1 id hp).trans (h.1 id hp), k.2.trans h.2⟩

theorem SameMarket.sameCtxs {s t : State} (h : SameMarket s t) (p : Nat → Prop) : SameCtxs p s t :=
  ⟨fun _ _ => by rw [h.1], h.2⟩

theorem Table.get_del_ne {α : Type} (t : Table α) (k j : Nat) (h : j ≠ k) : (t.del k).get j = t.get j := by
  induction t with
  | nil => rfl
  | cons e t ih =>
    simp only [Table.del]
    split
    · rename_i hk
      rw [Table.get, if_neg (hk ▸ h)]
    · simp only [Table.get, ih]

/-- Only a context that runs elsewhere leaves (R358). -/
theorem sameCtxs_sendAway {p : Nat → Prop} (s : State) (k : Nat) (c : Ctx) (h : p k → c.away = none) :
    SameCtxs p s (s.sendAway k c) := by
  have work := (sameMarket_sendWork s k c).sameCtxs p
  unfold State.sendAway
  dsimp only
  split
  · rename_i hc
    refine work.trans ⟨fun id hp => Table.get_del_ne _ _ _ (fun e => ?_), .refl _⟩
    simp [h (e ▸ hp)] at hc
  · exact work

/-- What the start of an interval does for one context leaves every other as it stands (R353, R358). -/
def State.turnCtx (s : State) (e : Nat × Ctx) : State :=
  let t1 := ((s.sendAway e.1 e.2).loadBanks e.1 e.2 e.2.begin_).freshCounters e.2 e.2.begin_
  match e.2.moveTo with
  | some d => if e.2.away.isSome then t1 else t1.movePages e.1 e.2.home.toNat d
  | none => t1

theorem sameCtxs_turnCtx {p : Nat → Prop} (s : State) (e : Nat × Ctx) (h : p e.1 → e.2.away = none) :
    SameCtxs p s (s.turnCtx e) := by
  have loaded := (sameCtxs_sendAway s e.1 e.2 h).trans
    (((memWork_loadBanks _ e.1 e.2 e.2.begin_).sameMarket.trans (sameMarket_freshCounters _ e.2 e.2.begin_)).sameCtxs p)
  unfold State.turnCtx
  dsimp only
  split
  · split
    · exact loaded
    · exact loaded.trans ((memWork_movePages _ _ _ _).sameMarket.sameCtxs p)
  · exact loaded

theorem sameCtxs_foldl_turnCtx {p : Nat → Prop} (l : List (Nat × Ctx)) (s : State) (h : ∀ e ∈ l, p e.1 → e.2.away = none) :
    SameCtxs p s (l.foldl State.turnCtx s) := by
  induction l generalizing s with
  | nil => exact .rfl s
  | cons e l ih =>
    obtain ⟨he, hl⟩ := List.forall_mem_cons.1 h
    exact (sameCtxs_turnCtx s e he).trans (ih _ hl)

/-- The context of a number, where there is one, runs on this package. -/
def RunsHere (s : State) (id : Nat) : Prop := ∀ e ∈ s.ctxs, e.1 = id → e.2.away = none

/-- The state in which every context's lease has begun and every page is an interval older. -/
def State.leased (s : State) : State :=
  { s with ctxs := s.ctxs.map (fun (e : Nat × Ctx) => (e.1, e.2.begin_)),
           mem := { s.mem with pages := s.mem.pages.map Page.older } }

theorem sameMarket_turned (s old : State) : SameMarket s
    (((((s.retryMoves).resplitSram.reviveCands old).dies.foldl (fun (t : State) e => t.startPlan e.1 e.2)
      ((s.retryMoves).resplitSram.reviveCands old)).oweAll)) := by
  have revived : SameMarket s ((s.retryMoves).resplitSram.reviveCands old) :=
    (memWork_retryMoves s).sameMarket.trans (sameMarket_of_eq rfl rfl)
  exact (revived.trans (sameMarket_foldl _ _ (fun t (e : Nat × Die) => sameMarket_startPlan t e.1 e.2) _)).trans
    (sameMarket_foldl _ _ (fun t (e : Nat × Team) => sameMarket_oweMoved t e.1 e.2) _)

theorem sameMarket_noteHeat (s : State) : SameMarket s s.noteHeat := SameMarket.ite (sameMarket_of_eq rfl rfl) (.rfl s)

/-- The steps of cycle 0 change no market, and no context of this package once its lease has begun. -/
theorem sameCtxs_beginInterval (s : State) : SameCtxs (RunsHere s) s.leased s.beginInterval := by
  refine (sameCtxs_foldl_turnCtx s.ctxs s.leased (fun e he hp => hp e he (.refl _))).trans (SameMarket.sameCtxs ?_ _)
  exact ((sameMarket_turned _ s).trans (sameMarket_of_eq rfl rfl)).trans (sameMarket_noteHeat _)

end Sys2Proof.Machine
end

/-! SUPPORT. The instants of an interval and what the packages tell each other, action by action; O57 settled. -/

section

namespace Sys2Proof.Machine

open Sys2Proof

theorem marketUp_of {s : State} (hm : s.mode = .up) (hs : s.market.started = true) : s.marketUp = true := by
  simp [State.marketUp, hm, hs]

theorem inWindow_of {s : State} (h : s.market.stage = .published ∨ s.market.stage = .released) : s.inWindow = true := by
  simpa [State.inWindow] using h

/-! ### The four instants (R7) -/

theorem bidSnapshot_next {s : State} (hu : s.marketUp = true) (hst : s.market.stage = .bidding) (he : 414000 ≤ s.elapsed) :
    exec .bidSnapshot s =
      .next (s.clear ((s.ctxs.filter (fun e => e.2.away.isNone)).map (fun e => Ctx.snap e.1 e.2))) :=
  congrArg Host.Outcome.next (if_pos ⟨hu, hst, he⟩)

theorem pricePublication_next {s : State} (hu : s.marketUp = true) (hst : s.market.stage = .snapshotted)
    (he : 423000 ≤ s.elapsed) :
    exec .pricePublication s = .next { s with
      dies := s.dies.map (fun (e : Nat × Die) => (e.1, { e.2 with px := s.market.nextPx.getD e.1 e.2.px })),
      market := { s.market with stage := .published, pxLink := s.market.nextPxLink } } :=
  congrArg Host.Outcome.next (if_pos ⟨hu, hst, he⟩)

/-- Each die shows the price that the clearing gave it (R352). -/
theorem get_published (dies : Table Die) (px : List (PerClass W64)) {k : Nat} {d : Die} {p : PerClass W64}
    (hd : dies.get k = some d) (hp : px[k]? = some p) :
    Table.get (dies.map (fun (e : Nat × Die) => (e.1, { e.2 with px := px.getD e.1 e.2.px }))) k = some { d with px := p } := by
  refine (Table.get_map dies (fun k d => { d with px := px.getD k d.px }) k).trans ?_
  rw [hd, Option.map_some, List.getD_eq_getElem?_getD, hp, Option.getD_some]

theorem releaseWindow_next {s : State} (hu : s.marketUp = true) (hst : s.market.stage = .published) (he : 423000 ≤ s.elapsed) :
    exec .releaseWindow s = .next (State.sendPod
      { s.ctxs.foldl (fun s e => s.releaseCtx e.1 e.2) s with
        market := { (s.ctxs.foldl (fun s e => s.releaseCtx e.1 e.2) s).market with stage := .released } }
      podPrices 64 s.market.interval.toNat s.priceTable) :=
  congrArg Host.Outcome.next (if_pos ⟨hu, hst, he⟩)

theorem intervalStart_next {s : State} (hu : s.marketUp = true) (hst : s.market.stage = .released) (he : 450000 ≤ s.elapsed) :
    exec .intervalStart s = .next { s.beginInterval with
      market := { s.beginInterval.market with interval := s.beginInterval.market.interval + 1, stage := .bidding, snaps := [] },
      due := s.beginInterval.due ++ s.beginInterval.ctxs.map (fun e => .placementRound e.1) } :=
  congrArg Host.Outcome.next (if_pos ⟨hu, hst, he⟩)

theorem market_beginInterval (s : State) : s.beginInterval.market = s.market := (sameCtxs_beginInterval s).2

/-- A context of this package begins its lease and pays for it (R347, R353). -/
theorem get_ctxs_beginInterval {s : State} {id : Nat} {c : Ctx} (hc : s.ctxs.get id = some c)
    (h : RunsHere s id) : s.beginInterval.ctxs.get id = some c.begin_ := by
  rw [(sameCtxs_beginInterval s).1 id h]
  exact (Table.get_map s.ctxs (fun _ c => c.begin_) id).trans (by rw [hc, Option.map_some])

theorem begin_purse {c : Ctx} (h : c.away = none) : c.begin_.purse =
    BitVec.ofNat 64 (min ((c.purseWrite.getD c.purse).toNat + c.refill.toNat) (2 ^ 64 - 1) - c.next.cost) := by
  simp only [Ctx.begin_, h, Ctx.payDay, saturate, Option.isSome_none, Bool.false_eq_true, if_false]
  cases c.purseWrite with
  | none => rfl
  | some v => rfl

theorem begin_spent {c : Ctx} (h : c.away = none) : c.begin_.spent = BitVec.ofNat 64 c.next.cost := by
  simp [Ctx.begin_, h, Ctx.payDay]

theorem begin_purseWrite {c : Ctx} (h : c.away = none) : c.begin_.purseWrite = none := by
  simp [Ctx.begin_, h, Ctx.payDay]

/-! ### A context that moves (R357) -/

theorem contextMigrate_next {s : State} {id : Nat} {c : Ctx} (hc : s.ctxs.get id = some c) (hu : s.marketUp = true)
    (hw : s.inWindow = true) (hm : c.moveTo.isSome ∨ c.offer.isSome) :
    exec (.contextMigrate id) s = .next (s.saveWhere id .lease (fun _ => true)) := by
  change execContextMigrate id s = _
  simp only [execContextMigrate, hc, hu, hw, hm, and_self, if_true]

theorem memWork_storeBank (s : State) (ctx die slot bank : Nat) : MemWork s (s.storeBank ctx die slot bank) := by
  unfold State.storeBank
  split
  · dsimp only
    split
    · exact (memWork_updDie s die _).trans (cacheWork_mem _ _).memWork
    · exact (memWork_updDie s die _).trans (cacheWork_mem _ _).memWork
  · exact .rfl s

theorem answered_refused {s : State} {id num : Nat} {c : Ctx} {p d : Nat} (hc : s.ctxs.get id = some c)
    (ho : c.offer = some (p, d)) (hu : s.marketUp = true) (hw : s.inWindow = true) :
    s.answered id false num = s.updCtx id (fun c => { c with offer := none }) := by
  simp [State.answered, hc, ho, hu, hw]

/-- An acceptance is a save, work that is calm, and a mark on the context (R357). -/
theorem answered_accepted {s : State} {id num : Nat} {c : Ctx} {p d : Nat} (hc : s.ctxs.get id = some c)
    (ho : c.offer = some (p, d)) (hu : s.marketUp = true) (hw : s.inWindow = true) :
    ∃ u, Calm (s.saveWhere id .lease (fun _ => true)) u ∧ s.answered id true num = u.updCtx id (fun c =>
      { c with next := Holding.none, offer := none, moveTo := some d, away := some p, awayNo := num, pkg := BitVec.ofNat 6 p }) := by
  simp only [State.answered, hc, ho, hu, hw, Bool.not_true, Bool.or_self, Bool.false_eq_true, if_false]
  exact ⟨_, ((memWork_foldl _ _ (fun t _ => memWork_storeBank t _ _ _ _) _).trans (cacheWork_l2Drop _ _).memWork).calm, .refl _⟩

/-- An accepted context holds nothing in the coming interval, keeps its purse and its VI, and is on no core (R357). -/
theorem answered_accepted_spec {s : State} {id num : Nat} {c : Ctx} {p d : Nat} (hc : s.ctxs.get id = some c)
    (ho : c.offer = some (p, d)) (hu : s.marketUp = true) (hw : s.inWindow = true) :
    (s.answered id true num).ctxs.get id = some { c with
      next := Holding.none, offer := none, moveTo := some d, away := some p, awayNo := num, pkg := BitVec.ofNat 6 p } ∧
    ∀ k x, (s.answered id true num).teams.get k = some x → x.ctx = id → x.onCores = false := by
  obtain ⟨u, ⟨⟨hctxs, -⟩, hteams⟩, hans⟩ := answered_accepted (num := num) hc ho hu hw
  obtain ⟨⟨hsaved, -⟩, -⟩ := calm_saveWhere s id .lease (fun _ => true)
  rw [hans]
  refine ⟨?_, fun k x hx hxc => ?_⟩
  · exact (Table.get_upd_same u.ctxs id _).trans (by rw [hctxs, hsaved, hc]; rfl)
  · obtain ⟨y, hy, hyc, hon⟩ := hteams k x hx
    have off := saveWhere_all_off s id .lease k y hy (hyc.symm.trans hxc)
    exact Bool.eq_false_iff.2 (fun e => Bool.eq_false_iff.1 off (hon e))

/-! ### An offer that comes (R358) -/

theorem offered_noRoom {s : State} {pkg num apkg anchor : Nat} {r : List Byte} {bids : List (W64 × Nat)} {config : List Byte}
    (hu : s.marketUp = true) (hw : s.inWindow = true) :
    s.offered pkg num apkg anchor r bids config false = s.sendPod podAnswer pkg num [0] := by
  simp [State.offered, hu, hw]

theorem offered_noNumber {s : State} {pkg num apkg anchor : Nat} {r : List Byte} {bids : List (W64 × Nat)} {config : List Byte}
    (hu : s.marketUp = true) (hw : s.inWindow = true) (ha : apkg ≠ s.market.pkg.toNat) (hf : s.freeCtx = none) :
    s.offered pkg num apkg anchor r bids config true = s.sendPod podAnswer pkg num [0] := by
  simp [State.offered, hu, hw, ha, hf]

/-- A context of another anchor as it is received, under a number of this package. -/
def State.guest (s : State) (id apkg anchor : Nat) (r : List Byte) (bids : List (W64 × Nat)) (config : List Byte) : Ctx :=
  { (({ Ctx.fresh with born := s.market.interval } : Ctx).configure id config).bring s.market.pkg r with
    vi := none, anchor := some (apkg, anchor), bids := bidsOf bids }

theorem offered_guest {s : State} {pkg num apkg anchor k : Nat} {r : List Byte} {bids : List (W64 × Nat)} {config : List Byte}
    (hu : s.marketUp = true) (hw : s.inWindow = true) (ha : apkg ≠ s.market.pkg.toNat) (hf : s.freeCtx = some k) :
    ∃ out, s.offered pkg num apkg anchor r bids config true = { s with
        ctxs := s.ctxs.set k (s.guest k apkg anchor r bids config), fe := { s.fe with out := out } } ∧
      ⟨podAnswer, num, 0, BitVec.ofNat 32 pkg, 0, 1 :: natBytes 2 k⟩ ∈ out := by
  simp only [State.offered, hu, hw, ha, hf, Bool.not_true, Bool.or_self, Bool.false_eq_true, if_false]
  split
  · exact ⟨_, .refl _, List.mem_append_right _ (List.mem_singleton.2 (.refl _))⟩
  · exact ⟨_, .refl _, List.mem_append_left _ (List.mem_append_right _ (List.mem_singleton.2 (.refl _)))⟩

/-- A context of this anchor that is back with what it brings. -/
def Ctx.backHome (own : BitVec 6) (r : List Byte) (bids : List (W64 × Nat)) (c : Ctx) : Ctx :=
  { c.bring own r with away := none, coming := true, bids := bidsOf bids }

theorem offered_home {s : State} {pkg num anchor : Nat} {r : List Byte} {bids : List (W64 × Nat)} {config : List Byte} {c : Ctx}
    (hu : s.marketUp = true) (hw : s.inWindow = true) (hc : s.ctxs.get anchor = some c) (haway : c.away.isSome = true) :
    s.offered pkg num s.market.pkg.toNat anchor r bids config true = 
      State.sendPod (s.updCtx anchor (Ctx.backHome s.market.pkg r bids)) podAnswer pkg num (1 :: natBytes 2 anchor) := by
  simp only [State.offered, hu, hw, hc, haway, Bool.not_true, Bool.or_self, Bool.false_eq_true, if_false, if_true]
  rfl

end Sys2Proof.Machine

namespace Sys2Proof

open Machine

/-- Settles O57: each action's result is written out by its own lemma; `clear` keeps the leases, the steps of cycle 0 keep the market
and the contexts that run here, and the save of a context leaves its teams off their cores. -/
theorem intervalAndMarket : Obligations.IntervalAndMarket := by
  refine ⟨fun u r bids => ⟨reserve_le_price u r bids, won_add_left u r bids, fun b hb => rejected_le_price hb⟩,
    fun s hmode hstarted => ?_⟩
  have hu := marketUp_of hmode hstarted
  refine ⟨fun hst he => ?snapshot, fun hst he => ?publication, fun hst he => ?release, fun hst he => ?start,
    fun pkg n p u => rfl, fun hst id c hc => ?moves, fun hst pkg num apkg anchor r bids config => ?offers⟩
  case snapshot =>
    obtain ⟨⟨hmem, hgroups, hinterval, hctxs⟩, hstage⟩ :=
      clear_spec s ((s.ctxs.filter (fun e => e.2.away.isNone)).map (fun e => Ctx.snap e.1 e.2))
    exact ⟨_, bidSnapshot_next hu hst he, rfl, hstage, hinterval, hmem, hgroups, hctxs⟩
  case publication =>
    exact ⟨_, pricePublication_next hu hst he, rfl, fun k d p => get_published s.dies s.market.nextPx, rfl, rfl⟩
  case release =>
    refine ⟨_, releaseWindow_next hu hst he, rfl, fun h => ?_⟩
    have kept : s.ctxs.foldl (fun s e => s.releaseCtx e.1 e.2) s = s := foldl_releaseCtx_of_nothing (fun e he t => by
      obtain ⟨ho, hl, hb, hm, hw⟩ := h e he
      exact releaseCtx_of_nothing ho hl hb hm hw)
    rw [kept]
  case start =>
    refine ⟨_, intervalStart_next hu hst he, congrArg (·.interval + 1) (market_beginInterval s), rfl, fun id c hc hhere => ?_⟩
    have haway := hhere _ (Table.mem_of_get hc) rfl
    exact ⟨_, get_ctxs_beginInterval hc hhere, rfl, rfl, begin_purse haway, begin_spent haway, begin_purseWrite haway, rfl⟩
  case moves =>
    have hw := inWindow_of hst
    refine ⟨contextMigrate_next hc hu hw, fun p d ho => ⟨fun num => ?_, fun num =>
      congrArg Host.Outcome.next (answered_refused hc ho hu hw)⟩⟩
    obtain ⟨hctx, hteams⟩ := answered_accepted_spec (num := num) hc ho hu hw
    exact ⟨_, _, rfl, hctx, rfl, rfl, rfl, rfl, rfl, rfl, rfl, hteams⟩
  case offers =>
    have hw := inWindow_of hst
    refine ⟨congrArg Host.Outcome.next (offered_noRoom hu hw), fun k ha hf => ?_,
      fun ha hf => congrArg Host.Outcome.next (offered_noNumber hu hw ha hf), fun c ha hc haway => ?_⟩
    · obtain ⟨out, hout, hsent⟩ := offered_guest (pkg := pkg) (num := num) hu hw ha hf
      exact ⟨_, _, congrArg Host.Outcome.next hout, rfl, rfl, rfl, rfl, rfl, rfl, rfl, rfl, hsent, rfl, rfl⟩
    · subst ha
      have hback := (Table.get_upd_same s.ctxs anchor (Ctx.backHome s.market.pkg r bids)).trans (congrArg _ hc)
      exact ⟨_, _, congrArg Host.Outcome.next (offered_home hu hw hc haway), hback, rfl, rfl, rfl, rfl, rfl, rfl, rfl,
        List.mem_append_right _ (List.mem_singleton.2 rfl), rfl, rfl⟩

end Sys2Proof
end

/-! SUPPORT. The flags that the lanes of a form raise, and what an enabled one does (R110, R177, R372); O17 settled. -/

section

namespace Sys2Proof.Machine

open Sys2Proof

/-! ### Masks and flags of lanes -/

theorem mem_activeList (act : W32) (l : Nat) : l ∈ activeList act ↔ l < 32 ∧ act.getLsbD l = true := by
  simp [activeList, laneIn]

/-- Each lane that `p` names adds its own power of two. -/
theorem foldl_bits (p : Nat → Bool) (n : Nat) :
    (List.range n).foldl (fun a l => if p l then a + 2 ^ l else a) 0 < 2 ^ n ∧
      ∀ k, ((List.range n).foldl (fun a l => if p l then a + 2 ^ l else a) 0).testBit k = (decide (k < n) && p k) := by
  induction n with
  | zero => simp
  | succ n ih =>
    obtain ⟨hlt, hbit⟩ := ih
    rw [List.range_succ, List.foldl_append]
    simp only [List.foldl_cons, List.foldl_nil]
    generalize (List.range n).foldl (fun a l => if p l then a + 2 ^ l else a) 0 = x at hlt hbit
    have above : ∀ k, ¬ k < n → x.testBit k = false := fun k hk => by simp [hbit, hk]
    cases hp : p n with
    | false =>
      refine ⟨by simp; omega, fun k => ?_⟩
      rcases Nat.lt_trichotomy k n with hk | rfl | hk
      · simp [hbit, hk, Nat.lt_succ_of_lt hk]
      · simp [hbit, hp]
      · simp [hbit, show ¬ k < n by omega, show ¬ k < n + 1 by omega]
    | true =>
      refine ⟨by simp; omega, fun k => ?_⟩
      have disjoint : 2 ^ n + x = 2 ^ n ||| x := by simpa using Nat.two_pow_add_eq_or_of_lt hlt 1
      rw [if_pos rfl, Nat.add_comm, disjoint, Nat.testBit_or, Nat.testBit_two_pow]
      rcases Nat.lt_trichotomy k n with hk | rfl | hk
      · simp [hbit, hk, Nat.lt_succ_of_lt hk, show n ≠ k by omega]
      · simp [hp]
      · simp [hbit, show ¬ k < n by omega, show ¬ k < n + 1 by omega, show n ≠ k by omega]

theorem getLsbD_bits32 (p : Nat → Bool) (l : Nat) : (bits32 p).getLsbD l = (decide (l < 32) && p l) := by
  rw [bits32, BitVec.getLsbD_ofNat, (foldl_bits p 32).2, ← Bool.and_assoc, Bool.and_self]

theorem getLsbD_foldl_or (l : List Nat) (fl : Nat → FlagSet) (a : FlagSet) (j : Nat) :
    (l.foldl (fun a l => a ||| fl l) a).getLsbD j = true ↔ a.getLsbD j = true ∨ ∃ k ∈ l, (fl k).getLsbD j = true := by
  induction l generalizing a with
  | nil => simp
  | cons k l ih => simp [ih, or_assoc]

theorem getLsbD_orFlags (act : W32) (fl : Nat → FlagSet) (j : Nat) :
    (orFlags act fl).getLsbD j = true ↔ ∃ l, l < 32 ∧ act.getLsbD l = true ∧ (fl l).getLsbD j = true := by
  rw [orFlags, getLsbD_foldl_or]
  simp [mem_activeList, and_assoc]

theorem orFlags_zero (act : W32) : orFlags act (fun _ => 0) = 0 := by
  apply BitVec.eq_of_getLsbD_eq
  intro j _
  simp [← Bool.not_eq_true, getLsbD_orFlags]

/-! ### The lowest enabled flag -/

theorem lowestOne_spec {n : Nat} (x : BitVec n) (i k : Nat) (h : ∃ j, i ≤ j ∧ j < i + k ∧ x.getLsbD j = true) :
    i ≤ lowestOne x i k ∧ lowestOne x i k < i + k ∧ x.getLsbD (lowestOne x i k) = true ∧
      ∀ j, i ≤ j → j < lowestOne x i k → x.getLsbD j = false := by
  induction k generalizing i with
  | zero => obtain ⟨j, h1, h2, -⟩ := h; omega
  | succ k ih =>
    rw [lowestOne]
    split
    · rename_i hi
      exact ⟨le_rfl, by omega, hi, fun j h1 h2 => by omega⟩
    · rename_i hi
      obtain ⟨j, h1, h2, hj⟩ := h
      have later : i ≠ j := fun e => hi (e ▸ hj)
      obtain ⟨a, b, c, d⟩ := ih (i + 1) ⟨j, by omega, by omega, hj⟩
      refine ⟨by omega, by omega, c, fun m h3 h4 => ?_⟩
      by_cases e : i = m
      · exact e ▸ Bool.not_eq_true _ ▸ hi
      · exact d m (by omega) h4

theorem exists_getLsbD_of_ne_zero {n : Nat} {x : BitVec n} (h : x ≠ 0) : ∃ j, j < n ∧ x.getLsbD j = true := by
  by_contra hc
  refine h (BitVec.eq_of_getLsbD_eq fun i hi => ?_)
  simpa using fun e => hc ⟨i, hi, e⟩

/-- Cause k is that of the lowest flag that fmt enables and an active lane raises; m names the lanes that raise an enabled one
(R110, R372). -/
def LowestEnabled (fmt act : W32) (fl : Nat → FlagSet) (k : Nat) (m : W64) : Prop :=
  0x30 ≤ k ∧ k < 0x38 ∧
    (∃ l, l < 32 ∧ act.getLsbD l = true ∧ (fl l &&& fmtEnables fmt).getLsbD (k - 0x30) = true) ∧
    (∀ l j, l < 32 → act.getLsbD l = true → j < k - 0x30 → (fl l &&& fmtEnables fmt).getLsbD j = false) ∧
    ∀ l, l < 64 → m.getLsbD l = decide (l < 32 ∧ act.getLsbD l = true ∧ fl l &&& fmtEnables fmt ≠ 0)

theorem flagStop_none {fmt act : W32} {fl : Nat → FlagSet} (h : orFlags act fl &&& fmtEnables fmt = 0) :
    flagStop fmt act fl = none := by simp [flagStop, flagCause, h]

theorem flagStop_some {fmt act : W32} {fl : Nat → FlagSet} (h : orFlags act fl &&& fmtEnables fmt ≠ 0) :
    ∃ k m, flagStop fmt act fl = some (k, m) ∧ LowestEnabled fmt act fl k m := by
  obtain ⟨j, hj, hbit⟩ := exists_getLsbD_of_ne_zero h
  obtain ⟨-, hlow, hset, hclear⟩ := lowestOne_spec (orFlags act fl &&& fmtEnables fmt) 0 8 ⟨j, by omega, by omega, hbit⟩
  refine ⟨0x30 + lowestOne (orFlags act fl &&& fmtEnables fmt) 0 8,
    (bits32 (fun l => laneIn act l && (fl l &&& fmtEnables fmt) != 0)).setWidth 64,
    by simp only [flagStop, flagCause, if_neg h, Option.map_some], by omega, by omega, ?_⟩
  generalize lowestOne (orFlags act fl &&& fmtEnables fmt) 0 8 = c at hlow hset hclear
  rw [Nat.add_sub_cancel_left]
  refine ⟨?_, fun l j hl ha hj => ?_, fun l _ => ?_⟩
  · obtain ⟨ho, he⟩ := Bool.and_eq_true_iff.1 ((BitVec.getLsbD_and).symm.trans hset)
    obtain ⟨l, hl, ha, hf⟩ := (getLsbD_orFlags act fl c).1 ho
    exact ⟨l, hl, ha, by rw [BitVec.getLsbD_and, hf, he]; rfl⟩
  · have hc := hclear j (Nat.zero_le j) hj
    rw [BitVec.getLsbD_and] at hc ⊢
    cases hf : (fl l).getLsbD j with
    | false => rfl
    | true => rwa [(getLsbD_orFlags act fl j).2 ⟨l, hl, ha, hf⟩] at hc
  · rw [BitVec.getLsbD_setWidth, getLsbD_bits32, laneIn, bne]
    by_cases hl : l < 32 <;> simp [hl, show l < 64 by omega, Bool.beq_eq_decide_eq]

/-! ### The frames of lane forms -/

/-- A lane form whose active lanes raise no enabled flag completes (R68, R110). -/
theorem vecForm_done {s : State} {w : Who} {x : Args} {srcs : List Operand} {val : Who → Nat → W32 × FlagSet} (h : Issues s w)
    (hp : Passes s w (vecShape w x srcs))
    (hf : fmtEnables w.f.fmt = 0 ∨ NoEnabledFlag w x (fun l => (val w l).2)) :
    vecForm s x srcs val = lanesDone s w x srcs (fun l => (val w l).1) (fun l => (val w l).2) := by
  have none_enabled : orFlags (w.active x.msk) (fun l => (val w l).2) &&& fmtEnables w.f.fmt = 0 := by
    rcases hf with h0 | h0
    · rw [h0]; exact BitVec.and_zero
    · exact h0
  have hpre : s.pre w ⟨x.cm, x.d, x.imm, queuesIn srcs, w.active x.msk⟩ = .ok () := hp
  exact run_ok h (by simp only [hpre, flagStop_none none_enabled]; rfl)

/-- One that raises no flag at all completes (R113, R117, R118). -/
theorem vecForm_done_of_no_flag {s : State} {w : Who} {x : Args} {srcs : List Operand} {val : Who → Nat → W32} (h : Issues s w)
    (hp : Passes s w (vecShape w x srcs)) :
    vecForm s x srcs (fun w l => (val w l, 0)) = lanesDone s w x srcs (val w) (fun _ => 0) :=
  vecForm_done h hp (.inr (by rw [NoEnabledFlag, orFlags_zero]; exact BitVec.zero_and))

/-- A lane form that raises an enabled flag takes its cause and writes nothing (R110, R372). -/
theorem vecForm_traps {s : State} {w : Who} {x : Args} {srcs : List Operand} {val : Who → Nat → W32 × FlagSet} (h : Issues s w)
    (hp : Passes s w (vecShape w x srcs)) (hf : ¬ NoEnabledFlag w x (fun l => (val w l).2)) :
    ∃ k m, vecForm s x srcs val = trapsIn s w k (some m) ∧
      LowestEnabled w.f.fmt (w.active x.msk) (fun l => (val w l).2) k m := by
  obtain ⟨k, m, hstop, hlow⟩ := flagStop_some hf
  have hpre : s.pre w ⟨x.cm, x.d, x.imm, queuesIn srcs, w.active x.msk⟩ = .ok () := hp
  exact ⟨k, m, run_cause h (by simp only [hpre, hstop]), hlow⟩

/-- So does one with a scalar result (R98, R110). -/
theorem laneForm_traps {s : State} {w : Who} {x : Args} {srcs : List Operand} {val : Who → W32 → W64}
    {fl : Who → W32 → Nat → FlagSet} (h : Issues s w) (hp : Passes s w (vecShape w x srcs))
    (hf : ¬ NoEnabledFlag w x (fl w (w.active x.msk))) :
    ∃ k m, laneForm s x srcs val fl = trapsIn s w k (some m) ∧
      LowestEnabled w.f.fmt (w.active x.msk) (fl w (w.active x.msk)) k m := by
  obtain ⟨k, m, hstop, hlow⟩ := flagStop_some hf
  have hpre : s.pre w ⟨x.cm, x.d, x.imm, queuesIn srcs, w.active x.msk⟩ = .ok () := hp
  exact ⟨k, m, run_cause h (by simp only [State.laneBody, hpre, hstop]), hlow⟩

end Sys2Proof.Machine

namespace Sys2Proof

open Sys2Proof.Machine

/-- Settles O17: every FP32 and narrow form is `vecForm` with its operation on each lane. -/
theorem floatAndNarrowForms : Obligations.FloatAndNarrowForms := by
  constructor
  · intro s w x h
    refine ⟨fun hp => ⟨fun _ hf => vecForm_done h hp hf, fun _ hf => vecForm_done h hp hf, fun _ hf => vecForm_done h hp hf,
        fun _ hf => vecForm_done h hp hf, fun _ hf => vecForm_done h hp hf, fun _ => vecForm_done_of_no_flag h hp,
        fun _ hf => vecForm_done h hp hf⟩,
      fun hp => ⟨fun _ hf => vecForm_done h hp hf, fun _ hf => vecForm_done h hp hf⟩,
      fun hp => ⟨fun hf => vecForm_done h hp hf, fun hf => vecForm_done h hp hf, fun hf => vecForm_done h hp hf,
        fun hf => vecForm_done h hp hf,
        fun _ => vecForm_done_of_no_flag h hp, vecForm_done_of_no_flag h hp, fun _ hf => vecForm_done h hp hf⟩⟩
  · intro s w x h
    refine ⟨fun hp => ⟨fun fn src hsrc hf => ?_, fun _ hf => vecForm_done h hp hf, fun _ hf => vecForm_done h hp hf⟩,
      fun hp => ⟨fun _ hf => vecForm_done h hp hf, fun _ hf => vecForm_done h hp hf, fun hf => vecForm_done h hp hf⟩⟩
    obtain rfl : (NumFmt.ofCode (immField x.imm 0 4)).getD .f32 = src := by rw [hsrc]; rfl
    exact vecForm_done h hp hf

end Sys2Proof
end

/-! SUPPORT. What taking a cause leaves of its group and of the others (R437-R440); O45 settled. -/

section

namespace Sys2Proof.Machine

open Sys2Proof

/-! ### Fragments that look again -/

/-- A change of fragments that at most makes them ready. -/
def Rousing (r : Frag → Frag) : Prop := ∀ f, r f = f ∨ r f = { f with status := .ready }

theorem Rousing.frag_id {r : Frag → Frag} (h : Rousing r) (f : Frag) : (r f).id = f.id := by
  rcases h f with e | e <;> rw [e]

theorem Rousing.ready {r : Frag → Frag} (h : Rousing r) {f : Frag} (hf : f.status = .ready) : r f = f := by
  rcases h f with e | e
  · exact e
  · rw [e, ← hf]

theorem Rousing.comp {r q : Frag → Frag} (hr : Rousing r) (hq : Rousing q) : Rousing (q ∘ r) := by
  intro f
  rw [Function.comp]
  rcases hr f with e | e <;> rw [e]
  · exact hq f
  · exact .inr (hq.ready rfl)

theorem frag?_map {g : Group} {fid : Nat} {f : Frag} {r : Frag → Frag} (hr : ∀ x, (r x).id = x.id)
    (h : g.frag? fid = some f) : ({ g with frags := g.frags.map r } : Group).frag? fid = some (r f) := by
  have same : (fun x : Frag => (r x).id == fid) = fun x => x.id == fid := funext fun x => by rw [hr]
  simp only [Group.frag?, List.find?_map, Function.comp_def, same]
  exact congrArg (Option.map r) h

/-- Every group stays but for fragments that become ready and the registers of its engines; the management function's records
stay. -/
def Rouses (s t : State) : Prop :=
  t.mgmt = s.mgmt ∧ ∀ k g, s.groups.get k = some g →
    ∃ r e, Rousing r ∧ t.groups.get k = some { g with frags := g.frags.map r, eng := e }

theorem rouses_of_eq {s t : State} (hm : t.mgmt = s.mgmt) (hg : t.groups = s.groups) : Rouses s t :=
  ⟨hm, fun k g h => ⟨id, g.eng, fun _ => .inl rfl, by rw [hg, h, List.map_id]⟩⟩

theorem Rouses.trans {s t u : State} (h : Rouses s t) (k : Rouses t u) : Rouses s u := by
  refine ⟨k.1.trans h.1, fun n g hg => ?_⟩
  obtain ⟨r, e, hr, ht⟩ := h.2 n g hg
  obtain ⟨q, d, hq, hu⟩ := k.2 n _ ht
  exact ⟨q ∘ r, d, hr.comp hq, by rw [hu, List.map_map]⟩

theorem rouses_foldl {α : Type} (l : List α) (f : State → α → State) (hf : ∀ s a, Rouses s (f s a)) (s : State) :
    Rouses s (l.foldl f s) := by
  induction l generalizing s with
  | nil => exact rouses_of_eq rfl rfl
  | cons a l ih => exact (hf s a).trans (ih _)

theorem rouses_updGroup (s : State) (k : Nat) {f : Group → Group}
    (hf : ∀ g, ∃ r e, Rousing r ∧ f g = { g with frags := g.frags.map r, eng := e }) : Rouses s (s.updGroup k f) := by
  refine ⟨rfl, fun n g hg => ?_⟩
  by_cases hn : n = k
  · subst hn
    obtain ⟨r, e, hr, hfg⟩ := hf g
    exact ⟨r, e, hr, by rw [State.updGroup_groups, Table.get_upd_same, hg, Option.map_some, hfg]⟩
  · exact ⟨id, g.eng, fun _ => .inl rfl, (Table.get_upd_ne _ _ _ _ hn).trans (by rw [hg, List.map_id])⟩

/-- The fragment of this number made ready. -/
def readied (fid : Nat) (f : Frag) : Frag := if f.id == fid then { f with status := .ready } else f

theorem rouses_wake (s : State) (gid fid : Nat) : Rouses s (s.wake gid fid) := by
  refine rouses_updGroup s gid fun g => ⟨readied fid, g.eng, fun f => ?_, rfl⟩
  unfold readied
  split
  · exact .inr rfl
  · exact .inl rfl

theorem rouses_giveBack (s : State) (o : MemOp) : Rouses s (s.giveBack o) := by
  unfold State.giveBack
  split
  · exact rouses_of_eq rfl rfl
  · rename_i before after _
    refine rouses_updGroup s o.gid fun g =>
      ⟨id, if g.eng.regs = after then g.eng.withRegs before else g.eng, fun _ => .inl rfl, ?_⟩
    rw [List.map_id]
    split <;> rfl

theorem rouses_opGone (s : State) (core gid : Nat) : Rouses s (s.opGone core gid) := by
  have woken := fun l : List (Nat × Nat) => rouses_foldl l (fun s x => s.wake x.1 x.2) (fun s x => rouses_wake s _ _) s
  unfold State.opGone
  dsimp only
  split
  · split
    · exact (woken _).trans (rouses_of_eq rfl rfl)
    · exact woken _
  · exact woken _

theorem rouses_dropWaiting (s : State) (gid fid : Nat) : Rouses s (s.dropWaiting gid fid) := by
  unfold State.dropWaiting
  dsimp only
  split
  · exact rouses_of_eq rfl rfl
  · exact ((rouses_giveBack s _).trans (rouses_of_eq rfl rfl)).trans (rouses_opGone _ _ _)

/-- A fragment that holds no load/store unit and waits at no access gives none up. -/
theorem dropWaiting_of_none {s : State} {gid fid : Nat}
    (h : ∀ o ∈ s.ops, o.gid = gid → o.fid = fid → o.whole = false ∧ o.waits = false) : s.dropWaiting gid fid = s := by
  have nothing : s.ops.find? (fun o => o.gid == gid && o.fid == fid && (o.whole || o.waits)) = none := by
    refine List.find?_eq_none.2 fun o ho => ?_
    by_cases hg : o.gid = gid <;> by_cases hf : o.fid = fid <;> simp [hg, hf]
    exact h o ho hg hf
  simp only [State.dropWaiting, nothing]

/-! ### Lists in which fragments wait -/

/-- Groups, the management function's records and what is in flight stand. -/
def SameGroups (s t : State) : Prop := t.groups = s.groups ∧ t.mgmt = s.mgmt ∧ t.ops = s.ops

theorem SameGroups.trans {s t u : State} (h : SameGroups s t) (k : SameGroups t u) : SameGroups s u :=
  ⟨k.1.trans h.1, k.2.1.trans h.2.1, k.2.2.trans h.2.2⟩

theorem sameGroups_foldl_push {α : Type} (l : List α) (f : α → Instr) (s : State) :
    SameGroups s (l.foldl (fun s a => s.push (f a)) s) := by
  induction l generalizing s with
  | nil => exact ⟨rfl, rfl, rfl⟩
  | cons a l ih => exact SameGroups.trans ⟨rfl, rfl, rfl⟩ (ih (s.push (f a)))

theorem sameGroups_leaveWaits (s : State) (k : Nat) (p : Nat → Bool) : SameGroups s (s.leaveWaits k p) := by
  unfold State.leaveWaits
  split
  · exact ⟨rfl, rfl, rfl⟩
  · have pushed := fun (l r : List RingWait) =>
      SameGroups.trans (s := s) (t := { s with rings := r }) ⟨rfl, rfl, rfl⟩
        (sameGroups_foldl_push l (fun r => .ringWaitWake r.gid r.fid) { s with rings := r })
    exact iteInduction (motive := fun t => SameGroups s t)
      (fun _ => (pushed _ _).trans ⟨rfl, rfl, rfl⟩) (fun _ => (pushed _ _).trans ⟨rfl, rfl, rfl⟩)

theorem sameGroups_dropUrgent (s : State) (k : Nat) (p : Nat → Bool) : SameGroups s (s.dropUrgent k p) := by
  unfold State.dropUrgent
  split <;> exact ⟨rfl, rfl, rfl⟩

/-- The group whose fragment takes a cause, once it has left what it waits in (R437, R440). -/
def State.quits (s : State) (gid fid : Nat) : State :=
  ((s.leaveWaits gid (fun f => f == fid)).dropUrgent gid (fun _ => true)).dropWaiting gid fid

theorem sameGroups_leaves (s : State) (gid fid : Nat) :
    SameGroups s ((s.leaveWaits gid (fun f => f == fid)).dropUrgent gid (fun _ => true)) :=
  (sameGroups_leaveWaits _ _ _).trans (sameGroups_dropUrgent _ _ _)

theorem rouses_quits (s : State) (gid fid : Nat) : Rouses s (s.quits gid fid) := by
  obtain ⟨hg, hm, -⟩ := sameGroups_leaves s gid fid
  exact (rouses_of_eq hm hg).trans (rouses_dropWaiting _ _ _)

theorem quits_groups_of_none {s : State} {gid fid : Nat}
    (h : ∀ o ∈ s.ops, o.gid = gid → o.fid = fid → o.whole = false ∧ o.waits = false) :
    (s.quits gid fid).groups = s.groups := by
  obtain ⟨hg, -, ho⟩ := sameGroups_leaves s gid fid
  rw [State.quits, dropWaiting_of_none (fun o h' => h o (ho ▸ h')), hg]

/-! ### The three ends of a delivery (R437, R439, R440) -/

theorem deliver_entered {s : State} {gid fid code : Nat} {epc tval : W64} {g : Group} {pc : Pc × Bool}
    (hg : s.groups.get gid = some g) (hm : g.hm = false) (hs : g.stopped = none) (hpc : s.handlerPc g = some pc) :
    s.deliver gid fid code false epc tval =
      (s.setGroup gid (g.enter fid false (BitVec.ofNat 8 code) epc tval pc)).quits gid fid := by
  simp only [State.deliver, hg, hm, hs, hpc]; rfl

theorem deliver_pends {s : State} {gid fid code : Nat} {epc tval : W64} {g : Group} (hg : s.groups.get gid = some g)
    (hm : g.hm = true) : s.deliver gid fid code false epc tval = s.setGroup gid (g.pend code tval) := by
  simp only [State.deliver, hg, hm]; rfl

/-- The group that stops whole, its fragment no longer at a wait. -/
def Group.stops (g : Group) (fid code : Nat) (epc tval : W64) : Group :=
  (g.failEntry fid code epc tval).updFrag fid (fun f => { f with status := .ready, waitFrom := none, begun := false })

theorem deliver_stops {s : State} {gid fid code : Nat} {epc tval : W64} {g : Group} (hg : s.groups.get gid = some g)
    (hm : g.hm = false) (hs : g.stopped = none) (ht : s.trapvec g = 0) :
    s.deliver gid fid code false epc tval =
      ((s.setGroup gid (g.stops fid code epc tval)).quits gid fid).fatal (g.stops fid code epc tval).entryRecord := by
  have hpc : s.handlerPc g = none := by simp only [State.handlerPc, ht, if_true]
  simp only [State.deliver, hg, hm, hs, hpc]; rfl

theorem getLsbD_oneBit64 {c : Nat} (hc : c < 64) (k : Nat) : (oneBit 64 c).getLsbD k = decide (k = c) := by
  simp only [oneBit, BitVec.getLsbD_shiftLeft]
  by_cases h : k = c
  · subst h; simp [hc]
  · by_cases hk : k < c
    · simp [hk, h]
    · simp [h, show k - c ≠ 0 by omega]

theorem getLsbD_cause_pend (g : Group) {c : Nat} (tval : W64) (hc : c < 64) (k : Nat) :
    (g.pend c tval).cause.getLsbD k = (g.cause.getLsbD k || decide (k = c)) := by
  unfold Group.pend
  split
  · rename_i h
    by_cases hk : k = c
    · subst hk; simp [h]
    · simp [hk]
  · rw [BitVec.getLsbD_or, getLsbD_oneBit64 hc]

theorem pend_eq (g : Group) (c : Nat) (tval : W64) : ∃ m l, g.pend c tval = { g with cause := m, pendTval := l } := by
  unfold Group.pend
  split
  · exact ⟨g.cause, g.pendTval, rfl⟩
  · exact ⟨_, _, rfl⟩

/-- What stands in a group that stops whole: its cause and 0x2D pending, and the registers of its cause (R440). -/
theorem stops_spec (g : Group) (fid : Nat) {code : Nat} (epc tval : W64) (hc : code < 64) :
    (g.stops fid code epc tval).stopped = some fid ∧ (g.stops fid code epc tval).hm = g.hm ∧
      (g.stops fid code epc tval).epc = epc ∧ (g.stops fid code epc tval).tval = tval ∧
      (g.stops fid code epc tval).cause.getLsbD code = true ∧ (g.stops fid code epc tval).cause.getLsbD 0x2D = true := by
  have bits : ∀ k, (g.stops fid code epc tval).cause.getLsbD k =
      (g.cause.getLsbD k || decide (k = code) || decide (k = 0x2D)) := fun k =>
    (getLsbD_cause_pend _ 0 (by decide) k).trans (congrArg (· || _) (getLsbD_cause_pend _ tval hc k))
  obtain ⟨m, l, h1⟩ := pend_eq { g with epc := epc, tval := tval } code tval
  obtain ⟨n, j, h2⟩ := pend_eq { g with epc := epc, tval := tval, cause := m, pendTval := l } 0x2D 0
  have whole : g.failEntry fid code epc tval =
      { g with epc := epc, tval := tval, cause := n, pendTval := j, stopped := some fid } := by
    rw [Group.failEntry, h1, h2]
  refine ⟨rfl, ?_, ?_, ?_, by simp [bits], by simp [bits]⟩ <;> rw [Group.stops, whole] <;> rfl

theorem traps_fatal {s : State} {r : TrapRec} (h : s.mgmt.traps.length < 504) :
    (s.fatal r).mgmt.traps = s.mgmt.traps ++ [s.mgmt.stamp r] := by
  simp only [State.fatal, Mgmt.addFatal, Mgmt.addReplayable, h, if_true]

theorem get_setGroup_same (s : State) (k : Nat) (g : Group) : (s.setGroup k g).groups.get k = some g := Table.get_set_same _ _ _

end Sys2Proof.Machine

namespace Sys2Proof

open Sys2Proof.Machine

/-- R437: a cause taken outside handler mode. -/
theorem deliver_enters_handler {s : State} {w : Who} {code : Nat} {epc tval : W64} {pc : Pc × Bool}
    (hw : s.who? w.gid w.fid = some w) (hm : w.g.hm = false) (hs : w.g.stopped = none) (hpc : s.handlerPc w.g = some pc) :
    ∃ h f, (s.deliver w.gid w.fid code false epc tval).groups.get w.gid = some h ∧ h.frag? w.fid = some f ∧
      f.pc = pc.1 ∧ f.byTransfer = pc.2 ∧ f.slices = w.f.slices ∧ f.fmt = w.f.fmt ∧ f.stack = w.f.stack ∧ f.status = .ready ∧
      h.hm = true ∧ h.code = BitVec.ofNat 8 code ∧ h.epc = epc ∧ h.tval = tval ∧ h.shadow = w.g.s.drop 56 ∧
      h.handling = some ⟨w.fid, false⟩ ∧ h.cause = w.g.cause ∧ h.s = w.g.s ∧ h.v = w.g.v ∧
      ((∀ o ∈ s.ops, o.gid = w.gid → o.fid = w.fid → o.whole = false ∧ o.waits = false) →
        (∀ y ∈ w.g.frags, y.id ≠ w.fid → y ∈ h.frags) ∧
        ∀ k, k ≠ w.gid → (s.deliver w.gid w.fid code false epc tval).groups.get k = s.groups.get k) ∧
      (s.deliver w.gid w.fid code false epc tval).mem = s.mem := by
  obtain ⟨-, -, hg, hf⟩ := who_group hw
  have hmem := (mild_deliver s w.gid w.fid code false epc tval).1.1
  rw [deliver_entered hg hm hs hpc] at hmem ⊢
  obtain ⟨r, e, hr, hget⟩ := (rouses_quits (s.setGroup w.gid _) w.gid w.fid).2 _ _ (get_setGroup_same s w.gid _)
  have entered : (w.g.enter w.fid false (BitVec.ofNat 8 code) epc tval pc).frag? w.fid = some _ :=
    frag?_map (g := w.g) (fun x => by split <;> rfl) hf
  have hid : w.f.id = w.fid := by simpa using List.find?_some hf
  have standing := frag?_map hr.frag_id entered
  simp only [hid, beq_self_eq_true, if_true] at standing
  rw [hr.ready rfl] at standing
  refine ⟨_, _, hget, standing, rfl, rfl, rfl, rfl, rfl, rfl, rfl, rfl, rfl, rfl, rfl, rfl, rfl, rfl, rfl, fun ho => ?_, hmem⟩
  have kept := quits_groups_of_none (s := s.setGroup w.gid (w.g.enter w.fid false (BitVec.ofNat 8 code) epc tval pc)) ho
  rw [kept] at hget ⊢
  refine ⟨fun y hy hne => ?_, fun k hk => Table.get_set_ne _ _ _ _ hk⟩
  rw [← Option.some.inj ((get_setGroup_same s w.gid _).symm.trans hget)]
  exact List.mem_map.2 ⟨y, hy, by rw [if_neg (by simpa using hne)]⟩

/-- R439, R440: a cause held in handler mode, and one that no handler takes. -/
theorem deliver_holds_or_stops {s : State} {gid fid code : Nat} {epc tval : W64} {g : Group} (hg : s.groups.get gid = some g)
    (hc : code < 64) (hs : g.stopped = none) :
    let t := s.deliver gid fid code false epc tval
    (g.hm = true → g.cause.getLsbD code = false →
      ∃ h, t.groups.get gid = some h ∧ (∀ k, k < 64 → h.cause.getLsbD k = (g.cause.getLsbD k || decide (k = code))) ∧
        h.pendTval = g.pendTval ++ [(code, tval)] ∧ h.epc = g.epc ∧ h.hm = true ∧ h.s = g.s) ∧
    (g.hm = true → g.cause.getLsbD code = true → ∃ h, t.groups.get gid = some h ∧ h = g) ∧
    (g.hm = false → s.trapvec g = 0 → code ≠ 0x2D →
      ∃ h, t.groups.get gid = some h ∧ h.stopped = some fid ∧ h.hm = false ∧ h.epc = epc ∧ h.tval = tval ∧
        h.cause.getLsbD code = true ∧ h.cause.getLsbD 0x2D = true ∧
        (s.mgmt.traps.length < 504 → ∃ r, t.mgmt.traps = s.mgmt.traps ++ [r] ∧ r.code = 0x2D ∧ r.kind = .fatal)) := by
  refine ⟨fun hm hbit => ?_, fun hm hbit => ?_, fun hm ht _ => ?_⟩
  · rw [deliver_pends hg hm]
    refine ⟨_, get_setGroup_same s gid _, fun k _ => getLsbD_cause_pend g tval hc k, ?_⟩
    simp only [Group.pend, hbit, Bool.false_eq_true, if_false, hm, and_self]
  · rw [deliver_pends hg hm]
    exact ⟨_, get_setGroup_same s gid _, by rw [Group.pend, if_pos hbit]⟩
  · rw [deliver_stops hg hm hs ht]
    obtain ⟨hmgmt, hrouse⟩ := rouses_quits (s.setGroup gid (g.stops fid code epc tval)) gid fid
    obtain ⟨r, e, -, hget⟩ := hrouse _ _ (get_setGroup_same s gid _)
    obtain ⟨h1, h2, h3, h4, h5, h6⟩ := stops_spec g fid epc tval hc
    refine ⟨_, hget, h1, h2.trans hm, h3, h4, h5, h6, fun hroom => ?_⟩
    rw [traps_fatal (by rw [hmgmt]; exact hroom), hmgmt]
    exact ⟨_, rfl, rfl, rfl⟩

/-- Settles O45: a delivery ends in one of three ways, and a lane form stops at the lowest flag that fmt enables. -/
theorem causeTakenOrHeld : Obligations.CauseTakenOrHeld := by
  refine ⟨fun s w code epc tval pc hw hm hs hpc => deliver_enters_handler hw hm hs hpc,
    fun s gid fid code epc tval g hg hc hs => deliver_holds_or_stops hg hc hs, fun s w x h => ?_⟩
  refine ⟨fun _ => ⟨fun hp hf => vecForm_traps h hp hf, fun hp hf => vecForm_traps h hp hf,
      fun hp hf => vecForm_traps h hp hf, fun hp hf => vecForm_traps h hp hf, fun hp hf => vecForm_traps h hp hf,
      fun hp hf => vecForm_traps h hp hf, fun hp hf => vecForm_traps h hp hf⟩,
    fun _ => ⟨fun hp hf => vecForm_traps h hp hf, fun hp hf => vecForm_traps h hp hf⟩,
    fun hp hf => vecForm_traps h hp hf, fun hp hf => vecForm_traps h hp hf,
    fun hp hf => vecForm_traps h hp hf, fun hp hf => vecForm_traps h hp hf,
    fun _ hp hf => laneForm_traps h hp hf, fun fn src hsrc hp hf => ?_,
    fun _ => ⟨fun hp hf => vecForm_traps h hp hf, fun hp hf => vecForm_traps h hp hf⟩,
    fun _ hp hf => vecForm_traps h hp hf, fun _ hp hf => vecForm_traps h hp hf, fun hp hf => vecForm_traps h hp hf⟩
  obtain rfl : (NumFmt.ofCode (immField x.imm 0 4)).getD .f32 = src := by rw [hsrc]; rfl
  exact vecForm_traps h hp hf

end Sys2Proof
end

/-! SUPPORT. What PREF, LEA, FENCE, CMAINT and MWAIT complete with (R129-R131, R196, R200-R202); O30 and O34 settled. -/

section

namespace Sys2Proof.Machine

open Sys2Proof

/-! ### Addresses into a register pair (R130) -/

/-- A result that names its v register alone writes that register. -/
theorem putLanes_register (s : State) (w : Who) {x : Shape} {n : BitVec 8} (val : Nat → W32)
    (hcm : x.cm = ⟨true, false, false, false, false, false⟩) (hd : x.d = .v n) (hp : x.pops = []) :
    s.putLanes w x val = s.updGroup w.gid (fun g => g.setLanes n.toNat x.act val) := by
  simp only [State.putLanes, State.popAll, State.consume, anyEngine, disarming, destQueue, hcm, hd, hp]
  rfl

theorem get_updGroup_same {s : State} {k : Nat} {g : Group} {f : Group → Group} (h : s.groups.get k = some g) :
    (s.updGroup k f).groups.get k = some (f g) := by rw [State.updGroup_groups, Table.get_upd_same, h]; rfl

theorem putMore_pair (s : State) (w : Who) (n : BitVec 8) (act : W32) (val : Nat → Nat → W32) :
    s.putMore w (.v n) act 2 val = s.updGroup w.gid (fun g => g.setLanes (n.toNat + 1) act (val 1)) := rfl

/-- The pair of registers n and n + 1 after a write of 64-bit values in the lanes of `act`. -/
theorem lane_setPair (g : Group) (n k l : Nat) (act : W32) (low high : Nat → W32) (hl : l < 32) :
    ((g.setLanes n act low).setLanes (n + 1) act high).lane k l =
      if act.getLsbD l = true ∧ k = n then low l else if act.getLsbD l = true ∧ k = n + 1 then high l else g.lane k l := by
  rw [Group.lane_setLanes _ _ _ _ _ _ hl, Group.lane_setLanes _ _ _ _ _ _ hl, laneIn]
  cases act.getLsbD l
  · simp
  · by_cases h0 : k = n <;> by_cases h1 : k = n + 1 <;> simp [h0, h1]

theorem high_half (v : W64) : (v >>> (32 : Nat)).setWidth 32 = BitVec.ofNat 32 (v.toNat / 2 ^ 32) := by
  apply BitVec.eq_of_toNat_eq
  rw [BitVec.toNat_setWidth, BitVec.toNat_ushiftRight, Nat.shiftRight_eq_div_pow, BitVec.toNat_ofNat]

/-- LEA's value in one lane: base, signed index and signed offset over 64 bits (R130). -/
def State.leaValue (s : State) (w : Who) (x : MArgs) (l : Nat) : W64 :=
  s.srcBase w x.a l + (s.srcV w 0 x.b l).signExtend 64 + x.off.signExtend 64

theorem execLea_pair {s : State} {w : Who} {x : MArgs} {n : BitVec 8} (h : Issues s w) (hd : x.d = .v n)
    (hcm : x.cm = ⟨true, false, false, false, false, false⟩) (hfree : w.g.unprotected (n.toNat + 1) = false)
    (hpass : Passes s w ⟨x.cm, x.d, 0, queuesIn [x.b], w.active x.msk⟩) (hq : queuesIn [x.b] = []) :
    execLea x s = doneIn (((s.updGroup w.gid (fun g =>
        g.setLanes n.toNat (w.active x.msk) (fun l => (s.leaValue w x l).setWidth 32))).updGroup w.gid (fun g =>
        g.setLanes (n.toNat + 1) (w.active x.msk) (fun l => (s.leaValue w x l >>> (32 : Nat)).setWidth 32))).advance w) := by
  refine run_ok h ?_
  simp only [hd, hfree, Bool.and_false, Bool.false_eq_true, if_false]
  rw [hd] at hpass
  simp only [show s.pre w ⟨x.cm, .v n, 0, queuesIn [x.b], w.active x.msk⟩ = .ok () from hpass]
  simp only [hcm, if_true]
  rw [putLanes_register s w _ rfl rfl hq, putMore_pair]
  rfl

/-! ### The wait on a word (R202) -/

theorem checkLane_place {s : State} {seat : Seat} {a : W64} {k : AccessKind} {l : List Loc} (h : s.checkLane seat a k = .ok l) :
    s.place seat a k.bytes = .ok l := by
  unfold State.checkLane at h
  split at h
  · cases h
  · rename_i l' hl
    split at h
    · cases h
    · split at h
      · cases h
      · split at h
        · split at h
          · cases h
          · cases h; exact hl
        · cases h; exact hl

theorem mwaitCheck_lane {s : State} {w : Who} {a : W64} (h : s.mwaitCheck w a = .ok ()) :
    ∃ l, s.checkLane (s.seat w.gid w.g w.f.lowLane) a ⟨4, false, false⟩ = .ok l := by
  unfold State.mwaitCheck at h
  cases hc : s.checkLane (s.seat w.gid w.g w.f.lowLane) a ⟨4, false, false⟩ with
  | ok l => exact ⟨l, rfl⟩
  | error c =>
    rw [hc] at h
    dsimp only at h
    split at h <;> simp_all

/-- Where an access lies in the global window, its bytes are the addresses themselves (R374). -/
theorem place_global {s : State} {seat : Seat} {a : W64} {n : Nat} (h : apertureOf a = .global) :
    s.place seat a n = if 2 ^ 56 < a.toNat + n then .error 0x12 else .ok ((range a.toNat n).map .gva) := by
  simp only [State.place, h]

/-- A word of the global window that has been read has a translation. -/
theorem readWord_spa {s s0 : State} {w : Who} {a : W64} {v : W32} (hc : s.mwaitCheck w a = .ok ())
    (hg : apertureOf a = .global) (hr : s0.readWord w a = .value v) : ∃ p, s0.spa w.g.ctx w.g.core a.toNat .load = .ok p := by
  obtain ⟨l, hl⟩ := mwaitCheck_lane hc
  have inside : ¬ 2 ^ 56 < a.toNat + 4 := fun hlt => by
    have hp := checkLane_place hl
    rw [place_global hg, if_pos hlt] at hp
    cases hp
  rw [State.readWord, place_global hg, if_neg inside] at hr
  cases ht : s0.translate w.g.ctx w.g.core a.toNat .load with
  | ok e => exact ⟨e.apply a.toNat, by rw [State.spa, ht]; rfl⟩
  | error f =>
    have missing : s0.resolve w.g.ctx w.g.core .load ((range a.toNat 4).map .gva) none = .error (a.toNat, f) := by
      simp only [range, List.map_cons, State.resolve, ht]
    simp only [missing, reduceCtorEq] at hr

/-- MWAIT ends at once where the word it reads ends the wait (R202). -/
theorem execMwait_stops {s : State} {w : Who} {x : Args} {fn : MwaitFn} {v : W32} (h : Issues s w)
    (hc : s.mwaitCheck w (s.srcS w 0 x.a) = .ok ()) (hu : s.heldUnits w.g.core < 4)
    (ho : orderedBehind s.ops w.gid w.g.who ⟨4, .load, ⟨.group, .acquire, .normal, false, false⟩, true⟩
      [⟨w.f.lowLane, s.srcS w 0 x.a, [], 0⟩] = false)
    (hj : w.f.afterJoin = true → s.pathsPending w.gid = false)
    (hr : (s.afterPaths w).readWord w (s.srcS w 0 x.a) = .value v)
    (hv : mwaitStops fn v ((s.srcS w 0 x.b).setWidth 32) = true) :
    execMwait fn x s = doneIn ((s.afterPaths w).mwaitDone w (s.srcS w 0 x.a) x.imm) := by
  have join : (w.f.afterJoin && s.pathsPending w.gid) = false := by
    cases hjoin : w.f.afterJoin
    · rfl
    · exact hj hjoin
  exact run_ok h (by simp only [hc, if_neg (Nat.not_le.2 hu), ho, join, hr, hv, Bool.false_eq_true, if_false, if_true])

theorem mwaitStops_of {fn : MwaitFn} {v b : W32} (hne : fn = .ne → v ≠ b) (heq : fn = .eq → v = b) :
    mwaitStops fn v b = true := by
  cases fn with
  | ne => exact bne_iff_ne.2 (hne rfl)
  | eq => exact beq_iff_eq.2 (heq rfl)

theorem immField_scope (imm : W32) : immField imm 16 3 = imm.toNat / 2 ^ 16 % 2 ^ 3 := by
  rw [immField, Nat.shiftRight_eq_div_pow]

theorem sharedLevel_of_global {a : W64} (h : apertureOf a = .global) : sharedLevel a = true := by rw [sharedLevel, h]

theorem mwaitDone_global {s : State} {w : Who} {a : W64} {p : Nat} (imm : W32) (hg : apertureOf a = .global)
    (hp : s.spa w.g.ctx w.g.core a.toNat .load = .ok p) :
    s.mwaitDone w a imm =
      ((s.dropStale w.g.core (p / 128)).acquire w.g (scopeOf (imm.toNat / 2 ^ 16 % 2 ^ 3))).advance w := by
  simp only [State.mwaitDone, hg, hp, sharedLevel_of_global hg, if_true, immField_scope]
  rfl

theorem mwaitDone_scratchpad {s : State} {w : Who} {a : W64} (imm : W32) (hg : apertureOf a ≠ .global) :
    s.mwaitDone w a imm = (if sharedLevel a = true then s.acquire w.g (scopeOf (imm.toNat / 2 ^ 16 % 2 ^ 3)) else s).advance w := by
  simp only [State.mwaitDone, if_neg hg, immField_scope]
  split <;> rfl

/-! ### CMAINT (R200, R201) -/

/-- Of no bytes it only goes on; outside a region, or cleaning alone, it is not refused. -/
theorem execCmaint_nothing {s : State} {w : Who} {x : Args} {op : MaintOp} {lvl : MaintLevel} (h : Issues s w)
    (ho : w.g.tryR = none ∨ op = .cln) (hn : (s.srcS w 0 x.b).toNat = 0) : execCmaint op lvl x s = doneIn (s.advance w) := by
  have here : (w.g.tryR.isSome && decide (op ≠ .cln)) = false := by rcases ho with e | e <;> simp [e]
  exact run_ok h (by simp only [here, hn, Bool.false_eq_true, if_false, if_true])

theorem execCmaint_range {s : State} {w : Who} {x : Args} {op : MaintOp} {lvl : MaintLevel} (h : Issues s w)
    (ho : w.g.tryR = none ∨ op = .cln) (hn : (s.srcS w 0 x.b).toNat ≠ 0) (hs : s.settled w.gid = true)
    (hin : (s.srcS w 0 x.a).toNat + (s.srcS w 0 x.b).toNat ≤ 2 ^ 56)
    (hr : regionFail (s.launchOf w.g.task) (s.srcS w 0 x.a) (s.srcS w 0 x.b).toNat (decide (op ≠ .cln)) = none) :
    execCmaint op lvl x s = doneIn (((s.reach w.g.core lvl).foldl (fun t k => t.maintainCore op
      (s.mapRange w.g.ctx w.g.core ((s.srcS w 0 x.a).toNat + (s.srcS w 0 x.b).toNat)
        ((s.srcS w 0 x.b).toNat / 65536 + 2) (s.srcS w 0 x.a).toNat) k) s).advance w) := by
  have here : (w.g.tryR.isSome && decide (op ≠ .cln)) = false := by rcases ho with e | e <;> simp [e]
  have legal : s.maintCheck w op (s.srcS w 0 x.a).toNat (s.srcS w 0 x.b).toNat = none := by
    simp only [State.maintCheck, if_neg (Nat.not_lt.2 hin), BitVec.ofNat_toNat, BitVec.setWidth_eq, hr]
  exact run_ok h (by simp only [here, if_neg hn, legal, hs, Bool.false_eq_true, if_false, Bool.not_true])

end Sys2Proof.Machine

namespace Sys2Proof

open Sys2Proof.Machine

/-- Settles O30: PREF is a fold of one lane's prefetch, LEA two writes of one register each. -/
theorem addressForms : Obligations.AddressForms := by
  intro s w x h
  refine ⟨fun hu hl fn => run_ok h ?_, fun n hd hcm hfree hpass hq => ?_⟩
  · have free : (decide (4 ≤ s.heldUnits w.g.core) || decide (48 ≤ s.logged w.g.core)) = false := by simp; omega
    simp only [free, Bool.false_eq_true, if_false]
    rfl
  · refine ⟨_, _, execLea_pair h hd hcm hfree hpass hq,
      goto_get_same (get_updGroup_same (get_updGroup_same (Issues.group h))) _ _, rfl, rfl, fun k l hl => ?_⟩
    have sum : s.srcBase w x.a l + BitVec.ofInt 64 x.off.toInt + BitVec.ofInt 64 (s.srcV w 0 x.b l).toInt = s.leaValue w x l :=
      add_right_comm _ _ _
    refine (lane_setPair w.g n.toNat k l (w.active x.msk) (fun l => (s.leaValue w x l).setWidth 32)
      (fun l => (s.leaValue w x l >>> (32 : Nat)).setWidth 32) hl).trans ?_
    rw [high_half, ← sum]

/-- Settles O34: each form's checks pass, and it ends as its own lemma says. -/
theorem orderingForms : Obligations.OrderingForms := by
  intro s w x h
  refine ⟨fun hs => ⟨fun sc => run_ok h (by simp only [hs, if_true]), fun op lvl ho hn hin hr =>
      execCmaint_range h ho hn hs hin hr⟩, fun op lvl ho hn => execCmaint_nothing h ho hn, fun fn v hc hu ho hj hr hv => ?_⟩
  have stops : mwaitStops fn v ((s.srcS w 0 x.b).setWidth 32) = true :=
    mwaitStops_of (fun e => by subst e; exact hv) (fun e => by subst e; exact hv)
  have ends := execMwait_stops h hc hu ho hj hr stops
  refine ⟨fun hl => ?_, fun hl hg => ?_, fun hg => ?_⟩
  · have outside : apertureOf (s.srcS w 0 x.a) ≠ .global := fun hg =>
      Bool.false_ne_true (hl.symm.trans (sharedLevel_of_global hg))
    exact ends.trans (by rw [mwaitDone_scratchpad x.imm outside, hl]; rfl)
  · exact ends.trans (by rw [mwaitDone_scratchpad x.imm hg, hl, if_pos rfl])
  · obtain ⟨p, hp⟩ := readWord_spa hc hg hr
    exact ⟨p, hp, ends.trans (by rw [mwaitDone_global x.imm hg hp])⟩

end Sys2Proof
end

/-! SUPPORT. What one lane's check finds (R122, R124, R142, R374), and how an access form's checks end (R124). -/

section

namespace Sys2Proof.Machine

open Sys2Proof

/-! ### Lists of bytes and of options -/

theorem mem_range_iff (a n b : Nat) : b ∈ range a n ↔ a ≤ b ∧ b < a + n := by
  induction n generalizing a with
  | zero => simp [range]
  | succ n ih => rw [range, List.mem_cons, ih]; omega

theorem allSome_of_forall {α : Type} {l : List (Option α)} (h : ∀ x ∈ l, x.isSome = true) : ∃ r, allSome l = some r := by
  induction l with
  | nil => exact ⟨[], rfl⟩
  | cons x l ih =>
    obtain ⟨y, rfl⟩ := Option.isSome_iff_exists.1 (h x List.mem_cons_self)
    obtain ⟨r, hr⟩ := ih fun z hz => h z (List.mem_cons_of_mem _ hz)
    exact ⟨y :: r, by rw [allSome, hr]; rfl⟩

theorem allSome_eq_none {α : Type} {l : List (Option α)} (h : ∃ x ∈ l, x = none) : allSome l = none := by
  induction l with
  | nil => simp at h
  | cons x l ih =>
    cases x with
    | none => rfl
    | some y =>
      rw [allSome, ih (by simpa using h)]
      rfl

/-! ### Regions (R62, R63, R124) -/

/-- A byte that one of the records covers. -/
def Covered (l : List (W64 × W64)) (b : Nat) : Prop := ∃ r ∈ l, r.1.toNat ≤ b ∧ b < r.1.toNat + r.2.toNat

/-- The furthest end is that of a record that covers the byte, or the byte itself, and none ends further. -/
theorem coverEnd_spec (l : List (W64 × W64)) (a : Nat) :
    (coverEnd l a = a ∨ ∃ r ∈ l, r.1.toNat ≤ a ∧ a < r.1.toNat + r.2.toNat ∧ coverEnd l a = r.1.toNat + r.2.toNat) ∧
      a ≤ coverEnd l a ∧ ∀ r ∈ l, r.1.toNat ≤ a → a < r.1.toNat + r.2.toNat → r.1.toNat + r.2.toNat ≤ coverEnd l a := by
  have gen : ∀ e, let z := l.foldl (fun e r => if r.1.toNat ≤ a ∧ a < r.1.toNat + r.2.toNat then
        max e (r.1.toNat + r.2.toNat) else e) e
      (z = e ∨ ∃ r ∈ l, r.1.toNat ≤ a ∧ a < r.1.toNat + r.2.toNat ∧ z = r.1.toNat + r.2.toNat) ∧
        e ≤ z ∧ ∀ r ∈ l, r.1.toNat ≤ a → a < r.1.toNat + r.2.toNat → r.1.toNat + r.2.toNat ≤ z := by
    induction l with
    | nil => simp
    | cons r l ih =>
      intro e
      dsimp only
      rw [List.foldl_cons]
      split
      · rename_i hr
        obtain ⟨hz, hle, hall⟩ := ih (max e (r.1.toNat + r.2.toNat))
        refine ⟨?_, by omega, List.forall_mem_cons.2 ⟨fun _ _ => by omega, hall⟩⟩
        rcases hz with hz | ⟨q, hq, h1, h2, hz⟩
        · rcases Nat.le_total e (r.1.toNat + r.2.toNat) with h | h
          · exact .inr ⟨r, List.mem_cons_self, hr.1, hr.2, hz.trans (Nat.max_eq_right h)⟩
          · exact .inl (hz.trans (Nat.max_eq_left h))
        · exact .inr ⟨q, List.mem_cons_of_mem _ hq, h1, h2, hz⟩
      · rename_i hr
        obtain ⟨hz, hle, hall⟩ := ih e
        refine ⟨hz.imp_right fun ⟨q, hq, h⟩ => ⟨q, List.mem_cons_of_mem _ hq, h⟩, hle,
          List.forall_mem_cons.2 ⟨fun h1 h2 => absurd ⟨h1, h2⟩ hr, hall⟩⟩
  exact gen a

theorem covered_of_uncoveredFrom {l : List (W64 × W64)} {stop : Nat} {k a : Nat} (h : uncoveredFrom l stop k a = none) :
    ∀ b, a ≤ b → b < stop → Covered l b := by
  induction k generalizing a with
  | zero =>
    rw [uncoveredFrom] at h
    split at h
    · intro b h1 h2; omega
    · cases h
  | succ k ih =>
    rw [uncoveredFrom] at h
    split at h
    · intro b h1 h2; omega
    · dsimp only at h
      split at h
      · cases h
      · rename_i hne
        intro b h1 h2
        obtain ⟨he | ⟨r, hr, hlow, -, he⟩, -, -⟩ := coverEnd_spec l a
        · exact absurd he hne
        · by_cases hb : b < coverEnd l a
          · exact ⟨r, hr, by omega, by omega⟩
          · exact ih h b (by omega) h2

/-- Each record is used at most once: those that end behind the place reached grow fewer. -/
theorem uncoveredFrom_of_covered {l : List (W64 × W64)} {stop : Nat} {k a : Nat}
    (hk : (l.toFinset.filter (fun r => a < r.1.toNat + r.2.toNat)).card ≤ k) (h : ∀ b, a ≤ b → b < stop → Covered l b) :
    uncoveredFrom l stop k a = none := by
  induction k generalizing a with
  | zero =>
    rw [uncoveredFrom, if_pos]
    by_contra hstop
    obtain ⟨r, hr, -, hend⟩ := h a le_rfl (by omega)
    have hin : r ∈ l.toFinset.filter (fun r => a < r.1.toNat + r.2.toNat) := by simp [hr, hend]
    simp [Finset.card_eq_zero.1 (Nat.le_zero.1 hk)] at hin
  | succ k ih =>
    rw [uncoveredFrom]
    split
    · rfl
    · rename_i hstop
      obtain ⟨r, hr, hlow, hend⟩ := h a le_rfl (by omega)
      obtain ⟨he, -, hfar⟩ := coverEnd_spec l a
      have beyond : a < coverEnd l a := hend.trans_le (hfar r hr hlow hend)
      have ne : coverEnd l a ≠ a := by omega
      dsimp only
      rw [if_neg ne]
      refine ih (Nat.le_of_lt_succ (lt_of_lt_of_le (Finset.card_lt_card ?_) hk)) fun b h1 h2 => h b (by omega) h2
      obtain ⟨q, hq, -, hq', hqe⟩ := he.resolve_left ne
      refine Finset.ssubset_iff_subset_ne.2 ⟨fun x hx => ?_, fun e => ?_⟩
      · simp only [Finset.mem_filter] at hx ⊢
        exact ⟨hx.1, by omega⟩
      · have gone := Finset.ext_iff.1 e q
        simp [hq, hq', hqe] at gone

/-- The first byte that no record covers is none where every byte is covered. -/
theorem firstUncovered_eq_none (l : List (W64 × W64)) (a n : Nat) :
    firstUncovered l a n = none ↔ ∀ b, a ≤ b → b < a + n → Covered l b := by
  refine ⟨covered_of_uncoveredFrom, fun h => uncoveredFrom_of_covered ?_ h⟩
  exact ((Finset.card_filter_le _ _).trans (List.toFinset_card_le l)).trans (Nat.le_succ _)

theorem firstUncovered_isSome {l : List (W64 × W64)} {a n : Nat} (h : ∃ b, a ≤ b ∧ b < a + n ∧ ¬ Covered l b) :
    ∃ k, firstUncovered l a n = some k := by
  refine Option.ne_none_iff_exists'.1 fun hn => ?_
  obtain ⟨b, h1, h2, hb⟩ := h
  exact hb ((firstUncovered_eq_none l a n).1 hn b h1 h2)

theorem regionCause_outside {l : Launch} {a n : Nat} (write : Bool)
    (h : ∃ b, a ≤ b ∧ b < a + n ∧ ¬ Covered (l.reads ++ l.writes) b) : regionCause l a n write = some 0x07 := by
  obtain ⟨k, hk⟩ := firstUncovered_isSome h
  simp only [regionCause, hk]

theorem regionCause_readOnly {l : Launch} {a n : Nat} (h : ∀ b, a ≤ b → b < a + n → Covered (l.reads ++ l.writes) b)
    (hw : ∃ b, a ≤ b ∧ b < a + n ∧ ¬ Covered l.writes b) : regionCause l a n true = some 0x08 := by
  obtain ⟨k, hk⟩ := firstUncovered_isSome hw
  simp only [regionCause, (firstUncovered_eq_none _ a n).2 h, hk, if_true, Option.map_some]

theorem regionCause_inside {l : Launch} {a n : Nat} {write : Bool}
    (h : ∀ b, a ≤ b → b < a + n → Covered (l.reads ++ l.writes) b)
    (hw : write = true → ∀ b, a ≤ b → b < a + n → Covered l.writes b) : regionCause l a n write = none := by
  simp only [regionCause, (firstUncovered_eq_none _ a n).2 h]
  cases write with
  | false => rfl
  | true => simp only [(firstUncovered_eq_none _ a n).2 (hw rfl), if_true, Option.map_none]

/-! ### One lane's check, aperture by aperture (R122, R124, R142, R374) -/

theorem checkLane_of_error {s : State} {seat : Seat} {a : W64} {k : AccessKind} {c : Nat}
    (h : s.place seat a k.bytes = .error c) : s.checkLane seat a k = .error c := by simp only [State.checkLane, h]

theorem checkLane_misaligned {s : State} {seat : Seat} {a : W64} {k : AccessKind} {l : List Loc}
    (h : s.place seat a k.bytes = .ok l) (hk : k.atomic = true) (ha : a.toNat % k.bytes ≠ 0) :
    s.checkLane seat a k = .error 0x10 := by
  simp only [State.checkLane, h, hk, bne_iff_ne.2 ha, Bool.and_self, if_true]

theorem aligned_of {k : AccessKind} {a : Nat} (hk : k.atomic = true → a % k.bytes = 0) :
    (k.atomic && a % k.bytes != 0) = false := by
  cases e : k.atomic with
  | false => rfl
  | true => simp [hk e]

/-- Behind alignment, a place outside a lane's own memory and the global window is good. -/
theorem checkLane_scratchpad {s : State} {seat : Seat} {a : W64} {k : AccessKind} {l : List Loc}
    (h : s.place seat a k.bytes = .ok l) (hk : k.atomic = true → a.toNat % k.bytes = 0) (hg : apertureOf a ≠ .global)
    (hp : apertureOf a ≠ .priv) : s.checkLane seat a k = .ok l := by
  simp only [State.checkLane, h, aligned_of hk, beq_eq_false_iff_ne.2 hg, beq_eq_false_iff_ne.2 hp, Bool.and_false,
    Bool.false_eq_true, if_false]

theorem checkLane_plain_priv {s : State} {seat : Seat} {a : W64} {k : AccessKind} {l : List Loc}
    (h : s.place seat a k.bytes = .ok l) (hp : apertureOf a = .priv) (hk : k.atomic = false) : s.checkLane seat a k = .ok l := by
  simp only [State.checkLane, h, hk, hp, Bool.false_and, Bool.false_eq_true, if_false]
  rfl

theorem checkLane_atomic_priv {s : State} {seat : Seat} {a : W64} {k : AccessKind} {l : List Loc}
    (h : s.place seat a k.bytes = .ok l) (hp : apertureOf a = .priv) (hk : k.atomic = true) (ha : a.toNat % k.bytes = 0) :
    s.checkLane seat a k = .error 0x11 := by
  have straight : (a.toNat % k.bytes != 0) = false := by rw [ha]; rfl
  simp only [State.checkLane, h, straight, hk, hp, Bool.true_and, beq_self_eq_true, if_true, Bool.false_eq_true, if_false]

/-- Behind alignment, a global access fails as its regions say (R124). -/
theorem checkLane_region {s : State} {seat : Seat} {a : W64} {k : AccessKind} {l : List Loc} {c : Nat}
    (h : s.place seat a k.bytes = .ok l) (hk : k.atomic = true → a.toNat % k.bytes = 0) (hg : apertureOf a = .global)
    (hr : regionCause seat.launch a.toNat k.bytes k.write = some c) : s.checkLane seat a k = .error c := by
  have notPriv : (Aperture.global == Aperture.priv) = false := rfl
  simp only [State.checkLane, h, aligned_of hk, hg, hr, notPriv, Bool.and_false, Bool.false_eq_true, if_false,
    beq_self_eq_true, if_true]

theorem checkLane_region_ok {s : State} {seat : Seat} {a : W64} {k : AccessKind} {l : List Loc}
    (h : s.place seat a k.bytes = .ok l) (hk : k.atomic = true → a.toNat % k.bytes = 0) (hg : apertureOf a = .global)
    (hr : regionCause seat.launch a.toNat k.bytes k.write = none) : s.checkLane seat a k = .ok l := by
  have notPriv : (Aperture.global == Aperture.priv) = false := rfl
  simp only [State.checkLane, h, aligned_of hk, hg, hr, notPriv, Bool.and_false, Bool.false_eq_true, if_false,
    beq_self_eq_true, if_true]

/-- What the scratchpad apertures share: 0x13 outside, then 0x10. -/
theorem checkLane_inside {s : State} {seat : Seat} {a : W64} {k : AccessKind} {P : Prop} (hg : apertureOf a ≠ .global)
    (hp : apertureOf a ≠ .priv) (bad : ¬ P → s.place seat a k.bytes = .error 0x13)
    (good : P → ∃ l, s.place seat a k.bytes = .ok l) :
    (¬ P → s.checkLane seat a k = .error 0x13) ∧
      (P → k.atomic = true → a.toNat % k.bytes ≠ 0 → s.checkLane seat a k = .error 0x10) ∧
      (P → (k.atomic = true → a.toNat % k.bytes = 0) → ∃ l, s.checkLane seat a k = .ok l) := by
  refine ⟨fun h => checkLane_of_error (bad h), fun h hk ha => ?_, fun h hk => ?_⟩
  · exact checkLane_misaligned (good h).choose_spec hk ha
  · obtain ⟨l, hl⟩ := good h
    exact ⟨l, checkLane_scratchpad hl hk hg hp⟩

theorem lt_of_aperture_global {a : W64} (h : apertureOf a = .global) : a.toNat < 2 ^ 56 := by
  unfold apertureOf at h
  dsimp only at h
  by_contra hn
  rw [if_neg hn] at h
  split at h
  · cases h
  · split at h
    · cases h
    · split at h
      · cases h
      · split at h <;> cases h

/-- R122, R124: the global window and its regions; 0x12 comes before the region check (log 122). -/
theorem checkLane_global {s : State} {seat : Seat} {a : W64} {k : AccessKind} (hg : apertureOf a = .global) :
    (2 ^ 56 < a.toNat + k.bytes → s.checkLane seat a k = .error 0x12) ∧
    (a.toNat + k.bytes ≤ 2 ^ 56 → k.atomic = true → a.toNat % k.bytes ≠ 0 → s.checkLane seat a k = .error 0x10) ∧
    (a.toNat + k.bytes ≤ 2 ^ 56 → (k.atomic = true → a.toNat % k.bytes = 0) →
      ((∃ b, a.toNat ≤ b ∧ b < a.toNat + k.bytes ∧ ¬ Covered (seat.launch.reads ++ seat.launch.writes) b) →
        s.checkLane seat a k = .error 0x07) ∧
      ((∀ b, a.toNat ≤ b → b < a.toNat + k.bytes → Covered (seat.launch.reads ++ seat.launch.writes) b) →
        (k.write = true → (∃ b, a.toNat ≤ b ∧ b < a.toNat + k.bytes ∧ ¬ Covered seat.launch.writes b) →
          s.checkLane seat a k = .error 0x08) ∧
        ((k.write = true → ∀ b, a.toNat ≤ b → b < a.toNat + k.bytes → Covered seat.launch.writes b) →
          ∃ l, s.checkLane seat a k = .ok l))) := by
  have inside (h : a.toNat + k.bytes ≤ 2 ^ 56) : s.place seat a k.bytes = .ok ((range a.toNat k.bytes).map .gva) := by
    rw [place_global hg, if_neg (Nat.not_lt.2 h)]
  refine ⟨fun h => checkLane_of_error (by rw [place_global hg, if_pos h]),
    fun h hk ha => checkLane_misaligned (inside h) hk ha, fun h hk => ?_⟩
  refine ⟨fun out => checkLane_region (inside h) hk hg (regionCause_outside _ out),
    fun cov => ⟨fun hw out => ?_, fun hin => ?_⟩⟩
  · exact checkLane_region (inside h) hk hg (hw ▸ regionCause_readOnly cov out)
  · exact ⟨_, checkLane_region_ok (inside h) hk hg (regionCause_inside cov hin)⟩

/-- R122, R142: a lane's own memory, with 0x12 before CR.LPEXT's 0x0D (log 125). -/
theorem checkLane_priv {s : State} {seat : Seat} {a : W64} {k : AccessKind} (hp : apertureOf a = .priv) :
    (2 ^ 32 < a.toNat % 2 ^ 52 + k.bytes → s.checkLane seat a k = .error 0x12) ∧
    (a.toNat % 2 ^ 52 + k.bytes ≤ 2 ^ 32 → (s.lpext seat.g.ctx).toNat < a.toNat % 2 ^ 52 + k.bytes →
      s.checkLane seat a k = .error 0x0D) ∧
    (a.toNat % 2 ^ 52 + k.bytes ≤ 2 ^ 32 → a.toNat % 2 ^ 52 + k.bytes ≤ (s.lpext seat.g.ctx).toNat →
      (k.atomic = true → a.toNat % k.bytes ≠ 0 → s.checkLane seat a k = .error 0x10) ∧
      (k.atomic = true → a.toNat % k.bytes = 0 → s.checkLane seat a k = .error 0x11) ∧
      (k.atomic = false → ∃ l, s.checkLane seat a k = .ok l)) := by
  have place : s.place seat a k.bytes = if 2 ^ 32 < a.toNat % 2 ^ 52 + k.bytes then .error 0x12
      else if (s.lpext seat.g.ctx).toNat < a.toNat % 2 ^ 52 + k.bytes then .error 0x0D
      else .ok ((range (a.toNat % 2 ^ 52) k.bytes).map (.priv (32 * seat.gid + seat.lane))) := by
    simp only [State.place, hp]
  refine ⟨fun h => checkLane_of_error (by rw [place, if_pos h]),
    fun h1 h2 => checkLane_of_error (by rw [place, if_neg (Nat.not_lt.2 h1), if_pos h2]), fun h1 h2 => ?_⟩
  rw [if_neg (Nat.not_lt.2 h1), if_neg (Nat.not_lt.2 h2)] at place
  exact ⟨fun hk ha => checkLane_misaligned place hk ha, fun hk ha => checkLane_atomic_priv place hp hk ha,
    fun hk => ⟨_, checkLane_plain_priv place hp hk⟩⟩

theorem windowOk_iff (g : Group) (off n : Nat) :
    windowOk g off n = true ↔ off + n ≤ 1024 * g.blocks ∨ (0x8000 ≤ off ∧ off + n ≤ 0x8200) := by simp [windowOk]

/-- Every byte of an access that lies in one area of the window is a register's (R162). -/
theorem window_bytes {g : Group} {off n : Nat} (k : Nat) (h : windowOk g off n = true) :
    ∃ l, allSome ((range off n).map (windowByte k g)) = some l := by
  refine allSome_of_forall fun x hx => ?_
  obtain ⟨b, hb, rfl⟩ := List.mem_map.1 hx
  obtain ⟨h1, h2⟩ := (mem_range_iff _ _ _).1 hb
  unfold windowByte
  split
  · rfl
  · rw [if_pos]
    · rfl
    · rcases (windowOk_iff g off n).1 h with h | h <;> omega

/-- The field of a core address that must be 0, the group that it names, and the window's two areas (R162, R163, R374). -/
def CoreByteOk (s : State) (seat : Seat) (a n : Nat) : Prop :=
  a / 2 ^ 23 % 2 ^ 29 = 0 ∧ ∃ t h, s.whoGroup seat (a / 2 ^ 16 % 128) = some (t, h) ∧
    (a % 2 ^ 16 + n ≤ 1024 * h.blocks ∨ (0x8000 ≤ a % 2 ^ 16 ∧ a % 2 ^ 16 + n ≤ 0x8200))

theorem place_core {s : State} {seat : Seat} {a : W64} {n : Nat} (h : apertureOf a = .core) :
    (¬ CoreByteOk s seat a.toNat n → s.place seat a n = .error 0x13) ∧
      (CoreByteOk s seat a.toNat n → ∃ l, s.place seat a n = .ok l) := by
  constructor
  · intro bad
    simp only [State.place, h]
    split
    · rfl
    · rename_i hz
      split
      · rfl
      · rename_i k g hw
        have out : windowOk g (a.toNat % 2 ^ 16) n = false := by
          rw [← Bool.not_eq_true, windowOk_iff]
          exact fun e => bad ⟨not_not.1 hz, k, g, hw, e⟩
        simp only [out, Bool.not_false, if_true]
  · rintro ⟨hz, k, g, hw, hin⟩
    have inside := (windowOk_iff g _ n).2 hin
    obtain ⟨l, hl⟩ := window_bytes k inside
    exact ⟨l, by simp only [State.place, h, hz, ne_eq, not_true, if_false, hw, inside, Bool.not_true, Bool.false_eq_true, hl]⟩

theorem place_cluster {s : State} {seat : Seat} {a : W64} {n : Nat} (h : apertureOf a = .cluster) :
    (¬ (a.toNat % 2 ^ 52 < 2 ^ 22 ∧ a.toNat % 2 ^ 52 + n ≤ seat.launch.csram) → s.place seat a n = .error 0x13) ∧
      ((a.toNat % 2 ^ 52 < 2 ^ 22 ∧ a.toNat % 2 ^ 52 + n ≤ seat.launch.csram) → ∃ l, s.place seat a n = .ok l) := by
  simp only [State.place, h]
  exact ⟨fun bad => if_pos (by omega), fun good => ⟨_, if_neg (by omega)⟩⟩

/-- The fields of a chip-scratchpad byte, its slot and the bank that the context holds there (R374). -/
def ChipByteOk (s : State) (seat : Seat) (b : Nat) : Prop :=
  b / 2 ^ 42 % 2 ^ 10 = 0 ∧ b / 2 ^ 26 % 2 ^ 14 = 0 ∧ b / 2 ^ 18 % 256 < seat.launch.banks ∧
    ∃ c, s.ctxs.get seat.g.ctx = some c ∧ b / 2 ^ 18 % 256 < (c.banksOn (b / 2 ^ 40 % 4)).length

theorem chipByte_isSome (s : State) (seat : Seat) (b : Nat) : (s.chipByte seat b).isSome = true ↔ ChipByteOk s seat b := by
  unfold State.chipByte ChipByteOk
  by_cases hf : b / 2 ^ 42 % 2 ^ 10 ≠ 0 ∨ b / 2 ^ 26 % 2 ^ 14 ≠ 0
  · rw [if_pos hf]
    exact ⟨fun h => by simp at h, fun h => by omega⟩
  · obtain ⟨h1, h2⟩ := not_or.1 hf
    rw [if_neg hf]
    dsimp only
    by_cases hs : seat.launch.banks ≤ b / 2 ^ 18 % 256
    · rw [if_pos hs]
      exact ⟨fun h => by simp at h, fun h => by omega⟩
    · rw [if_neg hs]
      cases hc : s.ctxs.get seat.g.ctx with
      | none => simp
      | some c =>
        simp only [Option.isSome_map, isSome_getElem?, Option.some.injEq, exists_eq_left']
        exact ⟨fun h => ⟨not_not.1 h1, not_not.1 h2, Nat.lt_of_not_le hs, h⟩, fun h => h.2.2.2⟩

theorem place_chip {s : State} {seat : Seat} {a : W64} {n : Nat} (h : apertureOf a = .chip) :
    (¬ (∀ b, a.toNat ≤ b → b < a.toNat + n → ChipByteOk s seat b) → s.place seat a n = .error 0x13) ∧
      ((∀ b, a.toNat ≤ b → b < a.toNat + n → ChipByteOk s seat b) → ∃ l, s.place seat a n = .ok l) := by
  simp only [State.place, h]
  constructor
  · intro bad
    have gone : allSome ((range a.toNat n).map (s.chipByte seat)) = none := by
      refine allSome_eq_none ?_
      by_contra hall
      refine bad fun b h1 h2 => (chipByte_isSome s seat b).1 (Option.isSome_iff_ne_none.2 fun e => hall ?_)
      exact ⟨_, List.mem_map.2 ⟨b, (mem_range_iff _ _ _).2 ⟨h1, h2⟩, rfl⟩, e⟩
    rw [gone]
  · intro good
    obtain ⟨l, hl⟩ := allSome_of_forall (l := (range a.toNat n).map (s.chipByte seat)) fun x hx => by
      obtain ⟨b, hb, rfl⟩ := List.mem_map.1 hx
      obtain ⟨h1, h2⟩ := (mem_range_iff _ _ _).1 hb
      exact (chipByte_isSome s seat b).2 (good b h1 h2)
    exact ⟨l, by rw [hl]⟩

/-- The lanes are checked lowest first: the cause is that of the first that fails (R124). -/
theorem checkLanes_error {s : State} {gid : Nat} {g : Group} {k : AccessKind} {l : List LaneAccess} {c : Nat} {tv : W64}
    (h : s.checkLanes gid g k l = .error (c, tv)) :
    ∃ pre y post, l = pre ++ y :: post ∧ y.addr = tv ∧ s.checkLane (s.seat gid g y.lane) y.addr k = .error c ∧
      ∀ z ∈ pre, ∃ r, s.checkLane (s.seat gid g z.lane) z.addr k = .ok r := by
  induction l with
  | nil => cases h
  | cons x l ih =>
    rw [State.checkLanes] at h
    split at h
    · rename_i d hx
      cases h
      exact ⟨[], x, l, rfl, rfl, hx, fun z hz => by simp at hz⟩
    · rename_i r hx
      obtain ⟨pre, y, post, hl, hy, hc, hpre⟩ := ih h
      exact ⟨x :: pre, y, post, by rw [hl]; rfl, hy, hc, List.forall_mem_cons.2 ⟨⟨r, hx⟩, hpre⟩⟩

/-! ### An access form up to its access -/

theorem exec_access {i : Instr} {x : MArgs} (s : State) (hx : opMArgs i = some x) : exec i s = accessForm i x s := by
  unfold opMArgs at hx
  split at hx <;> cases hx <;> rfl

/-- An access whose operands pass and whose lanes do not raises the lane's cause (R124). -/
theorem access_lane_fails {s : State} {w : Who} {i : Instr} {x : MArgs} {a : AccForm} {c : Nat} {tv : W64}
    (ht : w.g.tryR = none) (hw : w.wideUnprotected i x = false) (hp : Passes s w (accShape w x a))
    (hc : s.checkLanes w.gid w.g a.kind (s.lanesOf w i x a.scalar) = .error (c, tv)) :
    s.access w i x a = .error (.cause c (some tv)) := by
  have hpre : s.pre w ⟨x.cm, x.d, 0, queuesIn [x.b], if a.scalar then 0 else w.active x.msk⟩ = .ok () := hp
  simp only [State.access, ht, Option.isSome_none, Bool.and_false, Bool.false_eq_true, if_false, hw, hpre, hc, lowerStop]

/-- An access that may go ahead and is performed at issue (R134, R137, R164). -/
theorem access_at_once {s : State} {w : Who} {i : Instr} {x : MArgs} {a : AccForm} (h : AccessReady s w i x a)
    (ho : atOnce s w i x a = true) :
    s.access w i x a = (s.afterPaths w).accessNow w (accShape w x a) i a (s.lanesOf w i x a.scalar) := by
  obtain ⟨ht, hw, hp, hc, hu, hl, hb, hwin, hj⟩ := h
  have hpre : s.pre w ⟨x.cm, x.d, 0, queuesIn [x.b], if a.scalar then 0 else w.active x.msk⟩ = .ok () := hp
  have units : (decide (4 ≤ s.heldUnits w.g.core) || decide (48 ≤ s.logged w.g.core)) = false := by simp; omega
  have join : (w.f.afterJoin && s.pathsPending w.gid) = false := by
    cases hjoin : w.f.afterJoin
    · rfl
    · exact hj hjoin
  simp only [State.access, ht, Option.isSome_none, Bool.and_false, Bool.false_eq_true, if_false, hw, hpre, hc, lowerStop,
    units, hb, hwin, join, Bool.or_false]
  exact if_pos ho

end Sys2Proof.Machine
end

/-! SUPPORT. What the translation of an access leaves, and a load that meets poison (R384, R446, R459); O26 settled. -/

section

namespace Sys2Proof.Machine

open Sys2Proof

/-! ### What a translation may change (R384, R446) -/

/-- Pages, slices, TLBs, what is due and what the cores have seen at home may differ; no byte, no copy in an L1, no register and
no poison does. -/
def Translated (s t : State) : Prop :=
  (t.mem.sys = s.mem.sys ∧ t.mem.priv = s.mem.priv ∧ t.mem.poison = s.mem.poison) ∧ t.groups = s.groups ∧
    (∀ k, (t.cores.get k).map (·.l1) = (s.cores.get k).map (·.l1)) ∧
    (∀ k, ∃ tlb, t.clusters.get k = (s.clusters.get k).map (fun c => { c with tlb := tlb })) ∧
    ∀ k, ∃ nested, t.dies.get k = (s.dies.get k).map (fun d => { d with nested := nested })

theorem clusters_same (s : State) (k : Nat) :
    ∃ tlb, s.clusters.get k = (s.clusters.get k).map (fun c => { c with tlb := tlb }) := by
  cases s.clusters.get k with
  | none => exact ⟨[], rfl⟩
  | some c => exact ⟨c.tlb, rfl⟩

theorem dies_same (s : State) (k : Nat) :
    ∃ nested, s.dies.get k = (s.dies.get k).map (fun d => { d with nested := nested }) := by
  cases s.dies.get k with
  | none => exact ⟨[], rfl⟩
  | some d => exact ⟨d.nested, rfl⟩

/-- Slices, pages and what is due may change. -/
theorem translated_of_mem {s t : State} (hs : t.mem.sys = s.mem.sys) (hp : t.mem.priv = s.mem.priv)
    (hq : t.mem.poison = s.mem.poison) (hg : t.groups = s.groups) (hc : t.cores = s.cores) (hl : t.clusters = s.clusters)
    (hd : t.dies = s.dies) : Translated s t :=
  ⟨⟨hs, hp, hq⟩, hg, fun k => by rw [hc], fun k => hl ▸ clusters_same s k, fun k => hd ▸ dies_same s k⟩

theorem Translated.rfl (s : State) : Translated s s :=
  translated_of_mem (.refl _) (.refl _) (.refl _) (.refl _) (.refl _) (.refl _) (.refl _)

theorem Translated.trans {s t u : State} (h : Translated s t) (k : Translated t u) : Translated s u := by
  obtain ⟨⟨a1, a2, a3⟩, a4, a5, a6, a7⟩ := h
  obtain ⟨⟨b1, b2, b3⟩, b4, b5, b6, b7⟩ := k
  refine ⟨⟨b1.trans a1, b2.trans a2, b3.trans a3⟩, b4.trans a4, fun k => (b5 k).trans (a5 k), fun k => ?_, fun k => ?_⟩
  · obtain ⟨x, hx⟩ := a6 k
    obtain ⟨y, hy⟩ := b6 k
    exact ⟨y, by rw [hy, hx, Option.map_map]; rfl⟩
  · obtain ⟨x, hx⟩ := a7 k
    obtain ⟨y, hy⟩ := b7 k
    exact ⟨y, by rw [hy, hx, Option.map_map]; rfl⟩

theorem Translated.ite {c : Prop} {d : Decidable c} {s t u : State} (ht : Translated s t) (hu : Translated s u) :
    Translated s (if c then t else u) := by
  split
  · exact ht
  · exact hu

theorem translated_foldl {α : Type} (l : List α) (f : State → α → State) (hf : ∀ s a, Translated s (f s a)) (s : State) :
    Translated s (l.foldl f s) := by
  induction l generalizing s with
  | nil => exact .rfl s
  | cons a l ih => exact (hf s a).trans (ih _)

theorem translated_push (s : State) (i : Instr) : Translated s (s.push i) := translated_of_mem rfl rfl rfl rfl rfl rfl rfl

theorem translated_pages (s : State) (p : List Page) : Translated s { s with mem := { s.mem with pages := p } } :=
  translated_of_mem rfl rfl rfl rfl rfl rfl rfl

theorem translated_l2Use (s : State) (ctx : Nat) (d : Bool) (line : Nat) : Translated s (s.l2Use ctx d line) := by
  obtain ⟨l2, h⟩ := l2Use_eq s ctx d line
  rw [h]
  exact translated_of_mem rfl rfl rfl rfl rfl rfl rfl

theorem translated_touch (s : State) (core : Nat) (l : List Loc) : Translated s (s.touch core l) :=
  Translated.ite (.rfl s)
    ((translated_pages s _).trans (translated_foldl _ _ (fun s _ => translated_push s _) _))

theorem translated_fetchUse (s : State) (ctx spa : Nat) : Translated s (s.fetchUse ctx spa) :=
  (translated_touch s _ _).trans (translated_l2Use _ _ _ _)

theorem translated_walkUse2 (s : State) (ctx core gpa : Nat) : Translated s (s.walkUse2 ctx core gpa) := by
  unfold State.walkUse2
  split
  · exact .rfl s
  · exact .ite (.rfl s) (translated_foldl _ _ (fun s a => translated_fetchUse s ctx a) s)

theorem translated_walkUse (s : State) (ctx core gpa : Nat) : Translated s (s.walkUse ctx core gpa) := by
  unfold State.walkUse
  split
  · exact .rfl s
  · exact (translated_walkUse2 s ctx core gpa).trans (translated_fetchUse _ _ _)

theorem translated_walkReads (s : State) (ctx core gva : Nat) : Translated s (s.walkReads ctx core gva) :=
  (translated_foldl _ _ (fun s a => translated_walkUse s ctx core a) s).trans
    (translated_foldl _ _ (fun s a => translated_walkUse2 s ctx core a) _)

theorem translated_updDie (s : State) (n : Nat) (f : List TlbEntry → List TlbEntry) :
    Translated s (s.updDie n (fun d => { d with nested := f d.nested })) := by
  refine ⟨⟨rfl, rfl, rfl⟩, rfl, fun _ => rfl, fun k => clusters_same s k, fun k => ?_⟩
  by_cases hk : k = n
  · subst hk
    rw [State.updDie_dies, Table.get_upd_same]
    cases s.dies.get k with
    | none => exact ⟨[], rfl⟩
    | some d => exact ⟨f d.nested, rfl⟩
  · rw [State.updDie_dies, Table.get_upd_ne _ _ _ _ hk]
    exact dies_same s k

theorem translated_updCluster (s : State) (n : Nat) (f : List TlbEntry → List TlbEntry) :
    Translated s (s.updCluster n (fun c => { c with tlb := f c.tlb })) := by
  refine ⟨⟨rfl, rfl, rfl⟩, rfl, fun _ => rfl, fun k => ?_, fun k => dies_same s k⟩
  by_cases hk : k = n
  · subst hk
    rw [State.updCluster_clusters, Table.get_upd_same]
    cases s.clusters.get k with
    | none => exact ⟨[], rfl⟩
    | some c => exact ⟨f c.tlb, rfl⟩
  · rw [State.updCluster_clusters, Table.get_upd_ne _ _ _ _ hk]
    exact clusters_same s k

theorem translated_updCore (s : State) (n : Nat) (f : List TlbEntry → List TlbEntry) :
    Translated s (s.updCore n (fun c => { c with tlb := f c.tlb })) :=
  ⟨⟨rfl, rfl, rfl⟩, rfl, fun k => Table.map_get_upd s.cores n k _ (·.l1) (fun _ _ => rfl), fun k => clusters_same s k,
    fun k => dies_same s k⟩

theorem translated_notePage (s : State) (n : TlbEntry) : Translated s (s.notePage n) :=
  Translated.ite (.rfl s) (translated_pages s _)

theorem translated_noteGpa (s : State) (ctx core : Nat) (walked : Bool) (gpa : Nat) :
    Translated s (s.noteGpa ctx core walked gpa) := by
  unfold State.noteGpa
  split
  · exact .rfl s
  · exact .ite ((translated_notePage s _).trans (translated_updDie _ _ (fun l => addTlb l _ 4096))) (translated_notePage s _)

theorem translated_noteGva (s : State) (ctx core gva : Nat) : Translated s (s.noteGva ctx core gva) := by
  have noted := translated_foldl ((s.gpaOf ctx core gva).toList ++ s.walkGpas ctx core gva) _
    (fun s a => translated_noteGpa s ctx core false a) s
  exact Translated.ite noted (noted.trans (translated_walkReads _ _ _ _))

theorem translated_cacheTlb (s : State) (ctx core gva : Nat) (need : Need) : Translated s (s.cacheTlb ctx core gva need) := by
  unfold State.cacheTlb
  split
  · exact .rfl s
  · rename_i e _
    exact .ite (translated_noteGva _ _ _ _)
      (((((translated_foldl _ _ (fun s a => translated_noteGpa s ctx core false a) s).trans (translated_walkReads _ _ _ _)).trans
        (translated_foldl _ _ (fun s a => translated_noteGpa s ctx core true a) _)).trans
          (translated_updCore _ _ (fun l => addTlb l e 64))).trans (translated_updCluster _ _ (fun l => addTlb l e 1024)))

theorem translated_cacheLane (s : State) (g : Group) (a : AccForm) (addr : Nat) : Translated s (s.cacheLane g a addr) :=
  Translated.ite (translated_cacheTlb _ _ _ _ _) ((translated_cacheTlb _ _ _ _ _).trans (translated_cacheTlb _ _ _ _ _))

/-- The state in which an access is performed: its lanes' translations are cached, and its pages count as accessed. -/
def State.reached (s : State) (g : Group) (a : AccForm) (l : List (LaneAccess × List Loc)) : State :=
  (l.foldl (fun s x => if apertureOf x.1.addr = .global then s.cacheLane g a x.1.addr.toNat else s) s).touch g.core
    (l.flatMap (·.2))

theorem translated_reached (s : State) (g : Group) (a : AccForm) (l : List (LaneAccess × List Loc)) :
    Translated s (s.reached g a l) :=
  (translated_foldl l _ (fun s _ => .ite (translated_cacheLane s g a _) (.rfl s)) s).trans (translated_touch _ _ _)

theorem Translated.l1At {s t : State} (h : Translated s t) (core line : Nat) : t.l1At core line = s.l1At core line := by
  obtain ⟨-, -, hl, -, -⟩ := h
  have copies : ∀ u : State, u.l1At core line =
      ((u.cores.get core).map (·.l1)).bind (fun l => l.find? (fun x => x.line == line)) := fun u => by
    rw [State.l1At]
    cases u.cores.get core <;> rfl
  rw [copies, copies, hl]

/-! ### A load of poison (R459) -/

/-- A poisoned byte of which the core has no copy is poison for it. -/
theorem poisonFor_of_no_copy {s : State} {core : Nat} {y : Loc} (hp : isPoisoned s.mem.poison y = true)
    (h : ∀ n, y = .spa n → s.l1At core (n / 128) = none) : s.poisonFor core y = true := by
  cases y with
  | spa n =>
    have here : (s.cores.get core).bind (fun c => c.copy? (n / 128)) = none := h n rfl
    simp only [State.poisonFor, hp, here, Bool.and_self]
  | _ => simp only [State.poisonFor, hp, Bool.and_self]

/-- A lane with a poisoned byte stops the search at some lane's address. -/
theorem findPoison_some {s : State} {core : Nat} {home : Bool} {l : List (LaneAccess × List Loc)}
    (h : ∃ e ∈ l, ∃ y ∈ e.2, isPoisoned s.mem.poison y = true ∧ (home = false → s.poisonFor core y = true)) :
    ∃ e ∈ l, ∃ b, s.findPoison core home l = some (e.1.addr, b) := by
  obtain ⟨e, he, y, hy, hp, hc⟩ := h
  have listed : s.mem.poison.isEmpty = false := by
    cases hm : s.mem.poison with
    | nil => rw [hm] at hp; cases hp
    | cons => rfl
  have hit : e.2.any (fun y => if home then isPoisoned s.mem.poison y else s.poisonFor core y) = true := by
    refine List.any_eq_true.2 ⟨y, hy, ?_⟩
    cases home with
    | true => exact hp
    | false => exact hc rfl
  cases hz : s.findPoison core home l with
  | none =>
    simp only [State.findPoison, listed, Bool.false_eq_true, if_false] at hz
    have miss := List.findSome?_eq_none_iff.1 hz e he
    rw [if_pos hit] at miss
    cases miss
  | some z =>
    simp only [State.findPoison, listed, Bool.false_eq_true, if_false] at hz
    obtain ⟨e', he', hz'⟩ := List.exists_of_findSome?_eq_some hz
    obtain ⟨-, hv⟩ := Option.ite_none_right_eq_some.1 hz'
    cases hv
    exact ⟨e', he', _, rfl⟩

theorem unowned_none (l : List (LaneAccess × List Loc)) : unowned (fun _ => false) l = l := by
  simp [unowned]

/-- Without order, a load or returning atomic that meets a poisoned byte at its point of coherence gives no value. -/
theorem perform_poisoned {s : State} {gid : Nat} {g : Group} {i : Instr} {a : AccForm} {fadd : W32 → W32 → W32}
    {lanes : List LaneAccess} {l : List (LaneAccess × List Loc)} (hr : s.resolveLanes gid g a lanes = .ok l)
    (ho : a.attrs.order = .relaxed) (ha : a.action = .load ∨ a.action = .atomic true)
    (hp : ∃ e ∈ l, ∃ y ∈ e.2, isPoisoned s.mem.poison y = true ∧ ∀ n, y = .spa n → s.l1At g.core (n / 128) = none) :
    ∃ e ∈ l, ∃ h, s.perform gid g i a fadd lanes = .poisoned e.1.addr h := by
  have reached := translated_reached s g a l
  have noRelease : a.isRelease = false := by rw [AccForm.isRelease, ho]; rfl
  have met : ∀ home, ∃ e ∈ l, ∃ b, (s.reached g a l).findPoison g.core home l = some (e.1.addr, b) := fun home => by
    obtain ⟨e, he, y, hy, hpy, hcopy⟩ := hp
    have hpy' : isPoisoned (s.reached g a l).mem.poison y = true := by rw [reached.1.2.2]; exact hpy
    exact findPoison_some ⟨e, he, y, hy, hpy', fun _ =>
      poisonFor_of_no_copy hpy' fun n hn => (reached.l1At g.core (n / 128)).trans (hcopy n hn)⟩
  rcases ha with ha | ha
  · obtain ⟨e, he, b, hb⟩ := met false
    refine ⟨e, he, b, ?_⟩
    rw [State.reached] at hb
    simp only [State.perform, State.performPast, hr, noRelease, Bool.false_and, Bool.false_eq_true, if_false, ha, unowned_none, hb]
  · obtain ⟨e, he, b, hb⟩ := met true
    refine ⟨e, he, b, ?_⟩
    rw [State.reached] at hb
    simp only [State.perform, State.performPast, hr, noRelease, Bool.false_and, Bool.false_eq_true, if_false, ha, if_true,
      hb]

theorem afterPaths_of_none {s : State} {w : Who} (h : w.f.afterJoin = false) : s.afterPaths w = s := by
  rw [State.afterPaths, h]; rfl

/-- The fragment goes on, and its group's fate is R461's. -/
theorem exec_poisoned {s : State} {w : Who} {i : Instr} {x : MArgs} {a : AccForm} {l : List (LaneAccess × List Loc)}
    (h : Issues s w) (hi : accForm i = some a) (hx : opMArgs i = some x) (hready : AccessReady s w i x a)
    (hnow : atOnce s w i x a = true) (hj : w.f.afterJoin = false) (ho : a.attrs.order = .relaxed)
    (ha : a.action = .load ∨ a.action = .atomic true)
    (hr : s.resolveLanes w.gid w.g a (s.lanesOf w i x a.scalar) = .ok l)
    (hp : ∃ e ∈ l, ∃ y ∈ e.2, isPoisoned s.mem.poison y = true ∧ ∀ n, y = .spa n → s.l1At w.g.core (n / 128) = none) :
    ∃ e ∈ l, ∃ b, exec i s = doneIn (((s.push (.idemRestart w.gid (.poison e.1.addr b w.fid))).noteIssue w a
      (accShape w x a)).advance w) := by
  obtain ⟨e, he, b, hb⟩ := perform_poisoned (i := i) (fadd := fadd32) hr ho ha hp
  have notStore : (a.action == .store) = false := by rcases ha with ha | ha <;> rw [ha] <;> rfl
  refine ⟨e, he, b, (exec_access s hx).trans (run_ok h ?_)⟩
  simp only [hi, access_at_once hready hnow, afterPaths_of_none hj, State.accessNow, notStore, Bool.false_and,
    Bool.false_eq_true, if_false, hb]

end Sys2Proof.Machine

namespace Sys2Proof

open Sys2Proof.Machine

/-- Settles O26: the poisoned load, the failing lane, and one lane's check aperture by aperture. -/
theorem accessFormsTrap : Obligations.AccessFormsTrap := by
  refine ⟨⟨fun s w i x a l h hi hx hready hnow hj ho ha hr hp => ?_, fun s w i x a c tv h hi hx ht hw hp hc => ?_⟩,
    fun s w lane addr k => ?_⟩
  · obtain ⟨e, he, y, hy, hpy, hcopy⟩ := hp
    refine exec_poisoned h hi hx hready hnow hj ho ha hr ⟨e, he, y, hy, hpy, fun n hn => ?_⟩
    rw [State.l1At, Option.bind_eq_none_iff]
    exact fun c hc => hcopy n c hn hc
  · refine ⟨(exec_access s hx).trans (run_cause h ?_), checkLanes_error hc⟩
    simp only [hi, access_lane_fails ht hw hp hc]
  · refine ⟨fun hn => checkLane_of_error (by simp only [State.place, hn]),
      fun hg => ⟨lt_of_aperture_global hg, checkLane_global hg⟩, fun hp => checkLane_priv hp,
      fun hc => ?_, fun hc => ?_, fun hc => ?_⟩
    · exact checkLane_inside (by rw [hc]; decide) (by rw [hc]; decide) (place_core hc).1 (place_core hc).2
    · exact checkLane_inside (by rw [hc]; decide) (by rw [hc]; decide) (place_cluster hc).1 (place_cluster hc).2
    · exact checkLane_inside (by rw [hc]; decide) (by rw [hc]; decide) (place_chip hc).1 (place_chip hc).2

end Sys2Proof
end

/-! SUPPORT. What a plain store into held lines changes (R126, R237); O29 settled. -/

section

namespace Sys2Proof.Machine

open Sys2Proof

/-! ### Clusters and dies -/

/-- Of a cluster at most its SRAM and its TLB differ, and of a die its banks and its nested TLB. -/
def Scratchpads (s t : State) : Prop :=
  (∀ k c, s.clusters.get k = some c → ∃ sram tlb, t.clusters.get k = some { c with sram := sram, tlb := tlb }) ∧
    ∀ k d, s.dies.get k = some d → ∃ banks nested, t.dies.get k = some { d with banks := banks, nested := nested }

theorem scratchpads_of_eq {s t : State} (hc : t.clusters = s.clusters) (hd : t.dies = s.dies) : Scratchpads s t :=
  ⟨fun _ c h => ⟨c.sram, c.tlb, hc ▸ h⟩, fun _ d h => ⟨d.banks, d.nested, hd ▸ h⟩⟩

theorem Scratchpads.trans {s t u : State} (h : Scratchpads s t) (k : Scratchpads t u) : Scratchpads s u := by
  refine ⟨fun n c hc => ?_, fun n d hd => ?_⟩
  · obtain ⟨sram, tlb, ht⟩ := h.1 n c hc
    have hu := k.1 n _ ht
    exact hu
  · obtain ⟨banks, nested, ht⟩ := h.2 n d hd
    have hu := k.2 n _ ht
    exact hu

theorem CacheWork.scratchpads {s t : State} (h : CacheWork s t) : Scratchpads s t := by
  obtain ⟨m, c, d, rfl⟩ := h
  exact scratchpads_of_eq (.refl _) (.refl _)

theorem Translated.scratchpads {s t : State} (h : Translated s t) : Scratchpads s t := by
  obtain ⟨-, -, -, hc, hd⟩ := h
  refine ⟨fun k c hk => ?_, fun k d hk => ?_⟩
  · obtain ⟨tlb, ht⟩ := hc k
    exact ⟨c.sram, tlb, by rw [ht, hk]; rfl⟩
  · obtain ⟨nested, ht⟩ := hd k
    exact ⟨d.banks, nested, by rw [ht, hk]; rfl⟩

theorem scratchpads_writeLoc (s : State) (core : Nat) (x : Loc) (b : Byte) : Scratchpads s (s.writeLoc core true x b) := by
  cases x with
  | sram n t a =>
    refine ⟨fun k c hk => ?_, fun _ d h => ⟨d.banks, d.nested, h⟩⟩
    by_cases hn : k = n
    · subst hn
      exact ⟨_, c.tlb, (Table.get_upd_same _ _ _).trans (congrArg (Option.map _) hk)⟩
    · exact ⟨c.sram, c.tlb, (Table.get_upd_ne _ _ _ _ hn).trans hk⟩
  | bank n j a =>
    refine ⟨fun _ c h => ⟨c.sram, c.tlb, h⟩, fun k d hk => ?_⟩
    by_cases hn : k = n
    · subst hn
      exact ⟨_, d.nested, (Table.get_upd_same _ _ _).trans (congrArg (Option.map _) hk)⟩
    · exact ⟨d.banks, d.nested, (Table.get_upd_ne _ _ _ _ hn).trans hk⟩
  | _ => exact scratchpads_of_eq rfl rfl

theorem scratchpads_writeList (s : State) (core : Nat) (l : List Loc) (b : List Byte) :
    Scratchpads s (s.writeList core true l b) := by
  induction l generalizing s b with
  | nil => exact scratchpads_of_eq rfl rfl
  | cons x l ih =>
    cases b with
    | nil => exact scratchpads_of_eq rfl rfl
    | cons y b => exact (scratchpads_writeLoc s core x y).trans (ih _ b)

theorem scratchpads_writeBytes (s : State) (core ctx gid : Nat) (l : List Loc) (b : List Byte) :
    Scratchpads s (s.writeBytes core ctx gid .normal l b) :=
  (((cacheWork_pushConflicts s _).trans (cacheWork_ensureAll _ core ctx false (linesOf l))).scratchpads.trans
    (scratchpads_writeList _ core l b)).trans (cacheWork_noteWriter _ core gid (linesOf l)).scratchpads

/-! ### The units of a store (R123, R126) -/

theorem isSome_l1At_writeList (s : State) (core : Nat) (l : List Loc) (b : List Byte) (line : Nat) :
    ((s.writeList core true l b).l1At core line).isSome = (s.l1At core line).isSome := by
  induction l generalizing s b with
  | nil => rfl
  | cons x l ih =>
    cases b with
    | nil => rfl
    | cons y b => exact (ih (s.writeLoc core true x y) b).trans (isSome_l1At_writeLoc s core x y line)

/-- A store into held lines takes no copy from its L1. -/
theorem isSome_l1At_writeBytes {s : State} {core ctx gid : Nat} {l : List Loc} {b : List Byte} (h : Held s core l) (line : Nat) :
    ((s.writeBytes core ctx gid .normal l b).l1At core line).isSome = (s.l1At core line).isSome := by
  obtain ⟨d, hd⟩ := pushConflicts_eq s (s.storeConflicts core gid l)
  have hfill : State.ensureAll { s with due := d } core ctx false (linesOf l) = { s with due := d } := ensureAll_of_copies h
  simp only [State.writeBytes, hd, reduceCtorEq, if_false, hfill, State.noteWriter]
  rw [l1At_updCore_map _ core line _ (fun x => by split <;> rfl), Option.isSome_map]
  exact isSome_l1At_writeList { s with due := d } core l b line

theorem held_of_subset {s : State} {core : Nat} {l m : List Loc} (h : Held s core l) (hm : ∀ x ∈ m, x ∈ l) :
    Held s core m := by
  intro k hk
  obtain ⟨a, ha, rfl⟩ := (mem_linesOf m k).1 hk
  exact h _ ((mem_linesOf l _).2 ⟨a, hm _ ha, rfl⟩)

/-- Units whose bytes lie among `l` change no byte outside `l`, where the L1 holds its lines. -/
theorem writeUnits_outside {s : State} {gid : Nat} {g : Group} {l : List Loc} {us : List (Nat × List Loc × List Byte)}
    (hin : ∀ u ∈ us, ∀ x ∈ u.2.1, x ∈ l) (h : Held s g.core l) :
    SameBytes s (s.writeUnits gid g .normal us) (fun y => l.contains y) ∧ Scratchpads s (s.writeUnits gid g .normal us) := by
  induction us generalizing s with
  | nil => exact ⟨sameBytes_refl s _, scratchpads_of_eq rfl rfl⟩
  | cons u us ih =>
    obtain ⟨n, m, b⟩ := u
    obtain ⟨hu, hus⟩ := List.forall_mem_cons.1 hin
    have here : Held s g.core m := held_of_subset h hu
    have still : Held (s.writeBytes g.core g.ctx gid .normal m b) g.core l := fun k hk =>
      (isSome_l1At_writeBytes here k).trans (h k hk)
    obtain ⟨same, pads⟩ := ih hus still
    refine ⟨fun k x hx => (same k x hx).trans ?_, (scratchpads_writeBytes s g.core g.ctx gid m b).trans pads⟩
    obtain ⟨d, hread⟩ := readLoc_writeBytes (ctx := g.ctx) (gid := gid) (b := b) here
    have out : x ∉ m := fun hm => by simp [hu x hm] at hx
    exact (hread k x).trans (readLoc_writeList_outside _ g.core k m b x out)

theorem storeUnits_bytes {bytes : Nat} {e : LaneAccess × List Loc} {u : Nat × List Loc × List Byte}
    (hu : u ∈ storeUnits bytes e) : ∀ x ∈ u.2.1, x ∈ e.2 := by
  obtain ⟨p, -, rfl⟩ := List.mem_map.1 hu
  exact fun x hx => List.mem_of_mem_drop (List.mem_of_mem_take hx)

theorem mem_insertKey {α : Type} {k : Nat} {x : α} {l : List (Nat × α)} {e : Nat × α} (h : e ∈ insertKey k x l) :
    e.2 = x ∨ e ∈ l := by
  induction l with
  | nil => exact .inl (by rw [List.mem_singleton.1 h])
  | cons y l ih =>
    rw [insertKey] at h
    split at h
    · rcases List.mem_cons.1 h with e1 | e1
      · exact .inl (by rw [e1])
      · exact .inr e1
    · rcases List.mem_cons.1 h with e1 | e1
      · exact .inr (e1 ▸ List.mem_cons_self)
      · exact (ih e1).imp_right (List.mem_cons_of_mem _)

/-- An unspecified order is an order of the same elements (log 14). -/
theorem mem_of_mem_freeOrder {α : Type} {s : State} {l : List α} {x : α} (h : x ∈ s.freeOrder l) : x ∈ l := by
  have gen : ∀ (l : List α) (n : Nat) (e : Nat × α), e ∈ freeOrderFrom n l → e.2 ∈ l := by
    intro l
    induction l with
    | nil => intro n e he; cases he
    | cons y l ih =>
      intro n e he
      rcases mem_insertKey he with h1 | h1
      · exact h1 ▸ List.mem_cons_self
      · exact List.mem_cons_of_mem _ (ih _ e h1)
  obtain ⟨e, he, rfl⟩ := List.mem_map.1 h
  exact gen l _ e he

/-- The stores of one instruction, in whatever order where they overlap (R126). -/
theorem storeLanes_outside {s : State} {gid : Nat} {g : Group} {a : AccForm} {l : List (LaneAccess × List Loc)}
    (hn : a.attrs.hint = .normal) (h : Held s g.core (l.flatMap (·.2))) :
    SameBytes s (s.storeLanes gid g a l) (fun y => (l.flatMap (·.2)).contains y) ∧ Scratchpads s (s.storeLanes gid g a l) := by
  have hin : ∀ u ∈ l.flatMap (storeUnits a.bytes), ∀ x ∈ u.2.1, x ∈ l.flatMap (·.2) := fun u hu x hx => by
    obtain ⟨e, he, hu⟩ := List.mem_flatMap.1 hu
    exact List.mem_flatMap.2 ⟨e, he, storeUnits_bytes hu x hx⟩
  rw [State.storeLanes, hn]
  dsimp only
  split
  · obtain ⟨same, pads⟩ := writeUnits_outside (gid := gid) (fun u hu => hin u (mem_of_mem_freeOrder (s := s) hu)) h
    refine ⟨fun k x hx => Eq.trans ?_ (same k x hx), pads.trans (scratchpads_of_eq rfl rfl)⟩
    cases x <;> rfl
  · exact writeUnits_outside hin h

/-! ### The translation, and the end of the form -/

theorem Translated.sameBytes {s t : State} (h : Translated s t) (out : Loc → Bool) : SameBytes s t out := by
  obtain ⟨⟨hsys, hpriv, -⟩, hg, -, hc, hd⟩ := id h
  intro core x _
  cases x with
  | gva a => rfl
  | spa a => exact sysByte_congr (by rw [h.l1At]) hsys
  | priv k off => rw [State.readLoc, State.readLoc, hpriv]
  | vreg g n l b => rw [readLoc_vreg, readLoc_vreg, hg]
  | sreg g n b => rw [readLoc_sreg, readLoc_sreg, hg]
  | sram c k off =>
    obtain ⟨tlb, ht⟩ := hc c
    rw [readLoc_sram, readLoc_sram, ht, Option.map_map]
    rfl
  | bank d k off =>
    obtain ⟨nested, ht⟩ := hd d
    rw [readLoc_bank, readLoc_bank, ht, Option.map_map]
    rfl

/-- Groups change, but none of their registers, and events become due. -/
def QueueWork (s t : State) : Prop :=
  ∃ groups due, t = { s with groups := groups, due := due } ∧
    ∀ k, (groups.get k).map (fun g => (g.s, g.v)) = (s.groups.get k).map (fun g => (g.s, g.v))

theorem QueueWork.rfl (s : State) : QueueWork s s := ⟨s.groups, s.due, .refl _, fun _ => .refl _⟩

theorem QueueWork.trans {s t u : State} (h : QueueWork s t) (k : QueueWork t u) : QueueWork s u := by
  obtain ⟨g, d, rfl, hg⟩ := h
  obtain ⟨g', d', rfl, hg'⟩ := k
  exact ⟨g', d', .refl _, fun n => (hg' n).trans (hg n)⟩

theorem queueWork_foldl {α : Type} (l : List α) (f : State → α → State) (hf : ∀ s a, QueueWork s (f s a)) (s : State) :
    QueueWork s (l.foldl f s) := by
  induction l generalizing s with
  | nil => exact .rfl s
  | cons a l ih => exact (hf s a).trans (ih _)

theorem queueWork_push (s : State) (i : Instr) : QueueWork s (s.push i) := ⟨s.groups, _, .refl _, fun _ => .refl _⟩

theorem queueWork_updGroup (s : State) (k : Nat) {f : Group → Group} (hs : ∀ g, (f g).s = g.s) (hv : ∀ g, (f g).v = g.v) :
    QueueWork s (s.updGroup k f) :=
  ⟨_, s.due, .refl _, fun n => Table.map_get_upd s.groups k n f _ fun _ g => by rw [hs, hv]⟩

theorem queueWork_pop (s : State) (w : Who) (act : W32) (q : Nat) : QueueWork s (s.pop w act q) := by
  unfold State.pop State.setLists
  split
  · exact .rfl s
  · exact queueWork_updGroup s _ (fun _ => .refl _) (fun _ => .refl _)

theorem queueWork_queueMoved (s : State) (w : Who) : QueueWork s (s.queueMoved w) :=
  queueWork_foldl _ _ (fun s _ => queueWork_push s _) s

/-- A form with no consumer pops its queues and writes no register (R31, R34). -/
theorem queueWork_putLanes (s : State) (w : Who) {x : Shape} (val : Nat → W32) (h : x.cm = Consumers.none) :
    QueueWork s (s.putLanes w x val) := by
  have noQueue : destQueue x.cm x.d x.imm = none := by rw [h]; rfl
  have noEngine : ∀ t : State, t.consume w x.cm (rowOf (fun l => if laneIn x.act l then val l else 0)) = t := fun t => by
    rw [h]; rfl
  have popped : QueueWork s (s.popAll w x.act x.pops) := queueWork_foldl _ _ (fun s q => queueWork_pop s w x.act q) s
  have noReg : x.cm.reg = false := by rw [h]; rfl
  simp only [State.putLanes, noQueue, noEngine, noReg, Bool.false_eq_true, if_false]
  have moved : QueueWork s (if (!x.pops.isEmpty || x.cm.queue) = true then (s.popAll w x.act x.pops).queueMoved w
      else s.popAll w x.act x.pops) := by
    split
    · exact popped.trans (queueWork_queueMoved _ w)
    · exact popped
  split
  · exact moved.trans (queueWork_updGroup _ _ (fun _ => .refl _) (fun _ => .refl _))
  · exact moved

theorem QueueWork.sameBytes {s t : State} (h : QueueWork s t) (out : Loc → Bool) : SameBytes s t out := by
  obtain ⟨groups, due, rfl, hg⟩ := h
  intro core x _
  cases x with
  | vreg g n l b =>
    have := congrArg (Option.map fun r : List W64 × List Row => byteOf ((r.2.getD n []).getD l 0) b) (hg g)
    rw [Option.map_map, Option.map_map] at this
    rw [readLoc_vreg, readLoc_vreg]
    exact congrArg (Option.getD · 0) this
  | sreg g n b =>
    have := congrArg (Option.map fun r : List W64 × List Row => byteOf (r.1.getD n 0) b) (hg g)
    rw [Option.map_map, Option.map_map] at this
    rw [readLoc_sreg, readLoc_sreg]
    exact congrArg (Option.getD · 0) this
  | _ => rfl

theorem sameBytes_trans {s t u : State} {out : Loc → Bool} (h : SameBytes s t out) (k : SameBytes t u out) : SameBytes s u out :=
  fun core x hx => (k core x hx).trans (h core x hx)

/-! ### The store (R126) -/

theorem perform_store {s : State} {gid : Nat} {g : Group} {i : Instr} {a : AccForm} {fadd : W32 → W32 → W32}
    {lanes : List LaneAccess} {l : List (LaneAccess × List Loc)} (hr : s.resolveLanes gid g a lanes = .ok l)
    (ho : a.attrs.order = .relaxed) (ha : a.action = .store) :
    s.perform gid g i a fadd lanes = .done ((s.reached g a l).storeLanes gid g a l) [] := by
  have noRelease : a.isRelease = false := by rw [AccForm.isRelease, ho]; rfl
  have noAcquire : a.isAcquire = false := by rw [AccForm.isAcquire, ho]; rfl
  simp only [State.perform, State.performPast, hr, noRelease, noAcquire, Bool.false_and, Bool.false_eq_true, if_false, ha]
  rfl

/-- A plain store at issue: its bytes are performed, its pops are taken, and the fragment goes on. -/
theorem exec_store {s : State} {w : Who} {i : Instr} {x : MArgs} {a : AccForm} {l : List (LaneAccess × List Loc)}
    (h : Issues s w) (hi : accForm i = some a) (hx : opMArgs i = some x) (ha : a.action = .store) (hready : AccessReady s w i x a)
    (hla : x.la = 0) (hj : w.f.afterJoin = false) (ho : a.attrs.order = .relaxed)
    (hside : s.overlapsSide w.gid w.g.who (s.lanesOf w i x a.scalar) a.bytes = false)
    (hr : s.resolveLanes w.gid w.g a (s.lanesOf w i x a.scalar) = .ok l) :
    exec i s = doneIn ((((s.reached w.g a l).storeLanes w.gid w.g a l).putLanes w (accShape w x a) (fun _ => 0)).advance w) := by
  have now : atOnce s w i x a = true := by simp [atOnce, hla]
  have posted : a.posted = true := by rw [AccForm.posted, ha]
  refine (exec_access s hx).trans (run_ok h ?_)
  simp only [hi, access_at_once hready now, afterPaths_of_none hj, State.accessNow, hside, Bool.and_false, Bool.false_eq_true,
    if_false, perform_store hr ho ha, posted, if_true, State.noteAtomic, ha]

end Sys2Proof.Machine

namespace Sys2Proof

open Sys2Proof.Machine

/-- Settles O29: the translation and the pops change no byte, and the stores only those of their units. -/
theorem storeFrame : Obligations.StoreFrame := by
  intro s t w i x a l h hi hx ha hready hla hj hcm ho hn hside hr hheld ht
  obtain rfl := Host.Outcome.next.inj ((exec_store h hi hx ha hready hla hj ho hside hr).symm.trans ht)
  have reached := translated_reached s w.g a l
  have held : Held (s.reached w.g a l) w.g.core (l.flatMap (·.2)) := fun k hk =>
    (congrArg Option.isSome (reached.l1At w.g.core k)).trans (hheld k hk)
  obtain ⟨same, pads⟩ := storeLanes_outside (gid := w.gid) hn held
  have put := queueWork_putLanes ((s.reached w.g a l).storeLanes w.gid w.g a l) w (x := accShape w x a) (fun _ => 0) hcm
  have work : MemWork s ((s.reached w.g a l).storeLanes w.gid w.g a l) :=
    memWork_performPast (perform_store (i := i) (fadd := fadd32) hr ho ha)
  refine ⟨fun core y hy => ?_, ?_⟩
  · have bytes := sameBytes_trans (sameBytes_trans (reached.sameBytes _) same) (put.sameBytes _) core y hy
    refine Eq.trans ?_ ((goto_readLoc _ w w.f.pc.next false core y).trans bytes)
    cases y <;> rfl
  · have parts := reached.scratchpads.trans pads
    generalize (s.reached w.g a l).storeLanes w.gid w.g a l = u at put work parts
    obtain ⟨groups, due, hput, -⟩ := put
    rw [hput]
    obtain ⟨_, _, _, _, _, _, _, rfl⟩ := work
    exact ⟨rfl, rfl, rfl, rfl, rfl, rfl, rfl, rfl, rfl, parts.1, parts.2⟩

end Sys2Proof
end

/-! SUPPORT. What SETFMT and GETFMT check and leave in fmt (R194, R195, R371); O18 settled. -/

section

namespace Sys2Proof.Machine

open Sys2Proof

/-- The checks of a form with a scalar result, as the model writes its shape out. -/
theorem pre_scalShape {s : State} {w : Who} {x : Args} (hp : Passes s w (scalShape x)) :
    s.pre w ⟨x.cm, x.d, x.imm, [], 0⟩ = .ok () := hp

theorem fmtLegal_iff (v : W32) : fmtLegal v = true ↔ v.toNat % 16 < 10 ∧ v.toNat / 16 % 16 < 10 := by
  simp [fmtLegal, fmtAF, fmtBF, fmtField, Nat.shiftRight_eq_div_pow]

theorem fmtClear_eq_mod (v : W32) : fmtClear v = BitVec.ofNat 32 (v.toNat % 2 ^ 24) := by
  have low : v.toNat % 2 ^ 24 < 2 ^ 32 := by omega
  refine BitVec.eq_of_toNat_eq ?_
  rw [BitVec.toNat_ofNat, Nat.mod_eq_of_lt low, fmtClear, BitVec.toNat_and]
  exact Nat.and_two_pow_sub_one_eq_mod v.toNat 24

/-- What SETFMT would write. -/
def State.newFmt (s : State) (w : Who) (x : Args) : SetfmtFn → W32
  | .reg => (s.srcS w x.imm x.a).setWidth 32
  | .i => x.imm

theorem execSetfmt_legal {s : State} {w : Who} {x : Args} {fn : SetfmtFn} (h : Issues s w)
    (hv : fmtLegal (s.newFmt w x fn) = true) : execSetfmt fn x s =
      doneIn ((s.updFrag w.gid w.fid (fun f => { f with fmt := s.newFmt w x fn })).advance w) := by
  refine run_ok h ?_
  cases fn with
  | reg => exact if_pos hv
  | i => exact if_pos hv

theorem execSetfmt_reserved {s : State} {w : Who} {x : Args} {fn : SetfmtFn} (h : Issues s w)
    (hv : ¬ fmtLegal (s.newFmt w x fn) = true) : execSetfmt fn x s = trapsIn s w 0x02 none := by
  refine run_cause h ?_
  cases fn with
  | reg => exact if_neg hv
  | i => exact if_neg hv

/-- What GETFMT leaves after it has given fmt to D. -/
def State.afterGetfmt (s : State) (w : Who) : GetfmtFn → State
  | .plain => s
  | .clr => s.updFrag w.gid w.fid (fun f => { f with fmt := fmtClear f.fmt })

theorem execGetfmt_done {s : State} {w : Who} {x : Args} {fn : GetfmtFn} (h : Issues s w)
    (hp : Passes s w (scalShape x)) : execGetfmt fn x s =
      doneIn (((s.putScalar w (scalShape x) (w.f.fmt.setWidth 64)).afterGetfmt w fn).advance w) := by
  refine run_ok h ?_
  cases fn with
  | plain => simp only [pre_scalShape hp]; rfl
  | clr => simp only [pre_scalShape hp]; rfl

end Sys2Proof.Machine

namespace Sys2Proof

open Sys2Proof.Machine

/-- Settles O18: fmt is legal where its two codes are below 10, and .clr keeps its low 24 bits. -/
theorem formatRegisterAndFlags : Obligations.FormatRegisterAndFlags := by
  intro s w x h
  refine ⟨fun hl => execSetfmt_legal (fn := .reg) h ((fmtLegal_iff _).2 hl),
    fun hl => execSetfmt_reserved (fn := .reg) h (mt (fmtLegal_iff _).1 hl),
    fun hl => execSetfmt_legal (fn := .i) h ((fmtLegal_iff _).2 hl),
    fun hl => execSetfmt_reserved (fn := .i) h (mt (fmtLegal_iff _).1 hl), fun hp => ?_⟩
  simp only [BitVec.ofNat_toNat 64 w.f.fmt, ← fmtClear_eq_mod]
  exact ⟨execGetfmt_done (fn := .plain) h hp, execGetfmt_done (fn := .clr) h hp⟩

end Sys2Proof
end

/-! SUPPORT. One fragment of a group after a change, after it has gone on or as it waits, and slices as bits (R20, R183, R192). -/

section

namespace Sys2Proof.Machine

open Sys2Proof

/-! ### The fragment that is changed -/

theorem frag?_id {g : Group} {fid : Nat} {f : Frag} (h : g.frag? fid = some f) : f.id = fid := by
  simpa using List.find?_some h

theorem frag?_updFrag_same {g : Group} {fid : Nat} {f : Frag} {u : Frag → Frag} (hu : ∀ x, (u x).id = x.id)
    (h : g.frag? fid = some f) : (g.updFrag fid u).frag? fid = some (u f) := by
  have changed := frag?_map (r := fun x => if x.id == fid then u x else x) (fun x => by split <;> simp [hu]) h
  exact changed.trans (congrArg some (if_pos (beq_iff_eq.2 (frag?_id h))))

theorem frag?_updFrag_ne {g : Group} {fid k : Nat} {u : Frag → Frag} (hu : ∀ x, (u x).id = x.id) (hk : k ≠ fid) :
    (g.updFrag fid u).frag? k = g.frag? k := by
  unfold Group.frag? Group.updFrag
  induction g.frags with
  | nil => rfl
  | cons a l ih =>
    rw [List.map_cons, List.find?_cons, List.find?_cons, ih]
    by_cases ha : a.id = fid
    · simp [ha, hu, beq_eq_false_iff_ne.2 (Ne.symm hk)]
    · simp [ha]

/-! ### Where a fragment arrives (R192) -/

/-- An arrival changes the PC and the dormant slices alone. -/
theorem Frag.arrive_eq (f : Frag) (pc : Pc) : ∃ q d, f.arrive pc = { f with pc := q, dormant := d } := by
  unfold Frag.arrive
  dsimp only
  split
  · exact ⟨_, _, rfl⟩
  · split <;> exact ⟨_, _, rfl⟩

@[simp] theorem Frag.arrive_id (f : Frag) (pc : Pc) : (f.arrive pc).id = f.id := by
  obtain ⟨_, _, e⟩ := f.arrive_eq pc; rw [e]
@[simp] theorem Frag.arrive_slices (f : Frag) (pc : Pc) : (f.arrive pc).slices = f.slices := by
  obtain ⟨_, _, e⟩ := f.arrive_eq pc; rw [e]
@[simp] theorem Frag.arrive_fmt (f : Frag) (pc : Pc) : (f.arrive pc).fmt = f.fmt := by
  obtain ⟨_, _, e⟩ := f.arrive_eq pc; rw [e]
@[simp] theorem Frag.arrive_stack (f : Frag) (pc : Pc) : (f.arrive pc).stack = f.stack := by
  obtain ⟨_, _, e⟩ := f.arrive_eq pc; rw [e]
@[simp] theorem Frag.arrive_retiredHere (f : Frag) (pc : Pc) : (f.arrive pc).retiredHere = f.retiredHere := by
  obtain ⟨_, _, e⟩ := f.arrive_eq pc; rw [e]

/-- With no dormant slice it arrives at the PC itself. -/
theorem Frag.arrive_pc {f : Frag} (h : f.dormant = []) (pc : Pc) : (f.arrive pc).pc = pc := by
  simp only [Frag.arrive, h, List.filter_nil]; split <;> rfl

/-- The fragment as it stands once its instruction is complete (R20). -/
def Frag.goneOn (pc : Pc) (jump : Bool) (f : Frag) : Frag := { (f.arrive pc).issued with byTransfer := jump }

@[simp] theorem Frag.goneOn_id (f : Frag) (pc : Pc) (j : Bool) : (f.goneOn pc j).id = f.id := f.arrive_id pc
@[simp] theorem Frag.goneOn_slices (f : Frag) (pc : Pc) (j : Bool) : (f.goneOn pc j).slices = f.slices := f.arrive_slices pc
@[simp] theorem Frag.goneOn_fmt (f : Frag) (pc : Pc) (j : Bool) : (f.goneOn pc j).fmt = f.fmt := f.arrive_fmt pc
@[simp] theorem Frag.goneOn_stack (f : Frag) (pc : Pc) (j : Bool) : (f.goneOn pc j).stack = f.stack := f.arrive_stack pc
@[simp] theorem Frag.goneOn_status (f : Frag) (pc : Pc) (j : Bool) : (f.goneOn pc j).status = .ready := rfl
theorem Frag.goneOn_pc {f : Frag} (h : f.dormant = []) (pc : Pc) (j : Bool) : (f.goneOn pc j).pc = pc := Frag.arrive_pc h pc

/-- The group of a fragment that goes on: the fragment has gone on, and no register or binding of the group changes. -/
theorem goto_frag {s : State} {w : Who} {g : Group} {f : Frag} (hg : s.groups.get w.gid = some g)
    (hf : g.frag? w.fid = some f) (pc : Pc) (j : Bool) :
    ∃ h, (s.goto w pc j).groups.get w.gid = some h ∧ h.frags = (g.updFrag w.fid (Frag.goneOn pc j)).frags ∧
      h.frag? w.fid = some (f.goneOn pc j) ∧ h.s = g.s ∧ h.v = g.v ∧ h.bindings = g.bindings :=
  ⟨_, goto_get_same hg pc j, rfl, frag?_updFrag_same (fun x => x.goneOn_id pc j) hf, rfl, rfl, rfl⟩

/-- The fragments of a group have gone on where they are those of the goto (R20). -/
theorem wentOn_of_goneOn {w : Who} {pc : Pc} {h : Group} (hf : h.frags = (w.g.updFrag w.fid (Frag.goneOn pc false)).frags) :
    WentOn w pc (fun m => m) h := by
  rw [WentOn, hf, updFrag_frags]
  refine List.map_congr_left fun f _ => ?_
  rw [Frag.goneOn, Frag.issued, Frag.arrive_retiredHere, Frag.arrive_fmt]

/-- The group of a fragment that waits: the fragment waits at its PC, and nothing else of the group changes. -/
theorem setWaiting_frag {s : State} {gid fid : Nat} {g : Group} {f : Frag} (hg : s.groups.get gid = some g)
    (hf : g.frag? fid = some f) (x : Wait) :
    ∃ h e, (s.setWaiting gid fid x).groups.get gid = some h ∧ h.frag? fid = some e ∧ e.status = .waiting x ∧ e.pc = f.pc ∧
      h.bindings = g.bindings :=
  ⟨_, _, get_updGroup_same hg, frag?_updFrag_same (fun _ => rfl) hf, rfl, rfl, rfl⟩

/-! ### Slices, and fields of IMM (R185) -/

theorem immField_eq_div (x : W32) (lo n : Nat) : immField x lo n = x.toNat / 2 ^ lo % 2 ^ n := by
  rw [immField, Nat.shiftRight_eq_div_pow]

theorem immField_zero (x : W32) (n : Nat) : immField x 0 n = x.toNat % 2 ^ n := by rw [immField, Nat.shiftRight_zero]

theorem getLsbD_slicesWhere (f : Frag) (p : Nat → Bool) (j : Nat) :
    (slicesWhere f p).getLsbD j = (decide (j < 8) && (f.slices.getLsbD j && p j)) := by
  rw [slicesWhere, BitVec.getLsbD_ofNat]
  rw [(foldl_bits (fun j => f.slices.getLsbD j && p j) 8).2, ← Bool.and_assoc, Bool.and_self]

theorem popCount_eq_length {n : Nat} (x : BitVec n) (k : Nat) : popCount x k = ((List.range k).filter x.getLsbD).length := by
  induction k with
  | zero => rfl
  | succ k ih =>
    rw [popCount, ih, List.range_succ, List.filter_append, List.length_append, Nat.add_comm]
    cases hx : x.getLsbD k <;> simp [hx]

/-- Fork records are counted by any test that tells them from park entries. -/
theorem forkDepth_eq_length {p : Rec → Bool} (hfork : ∀ i v, p (.fork i v) = true)
    (hpark : ∀ i v a pc b r, p (.park i v a pc b r) = false) (l : List Rec) : forkDepth l = (l.filter p).length := by
  rw [forkDepth, forkIds]
  induction l with
  | nil => rfl
  | cons r l ih => cases r <;> simp [hfork, hpark, ih]

end Sys2Proof.Machine
end

/-! SUPPORT. What BRS leaves, whole, parted or parked (R185-R187); O22 settled. -/

section

namespace Sys2Proof.Machine

open Sys2Proof

/-! ### The target (R20, R24, R27) -/

theorem branchTarget_eq (pc : Pc) (x : BArgs) : branchTarget pc x =
    pc.line + BitVec.ofInt 64 (64 * x.lineOff.toInt) + BitVec.ofNat 64 (12 * x.slot.toNat) := by
  have shifted : (x.lineOff.signExtend 64) <<< (6 : Nat) = BitVec.ofInt 64 (64 * x.lineOff.toInt) := by
    rw [BitVec.shiftLeft_eq_mul_twoPow, BitVec.signExtend, BitVec.mul_comm, BitVec.ofInt_mul]
    rfl
  rw [branchTarget, shifted]

theorem landing_of_lands {s : State} {w : Who} {a : W64} {pc : Pc} (h : Lands s w a pc) : s.landing w a = .ok pc := by
  obtain ⟨hpc, hline, line, hfetch, hcheck, htarget⟩ := h
  simp only [State.landing, hpc, hline, hfetch, hcheck, htarget, Bool.not_true, Bool.false_eq_true, if_false, if_true]

/-! ### The ways of a BRS -/

/-- What BRS does once its target, if any slice takes it, has been checked. -/
def State.parted (s : State) (w : Who) (taken : BitVec 8) (pc : Pc) : Except Stop State :=
  if forkDepth w.f.stack < 8 then .ok (s.part w taken pc false)
  else if 8 ≤ parkDepth w.f.stack then .error (.cause 0x0A none)
  else .ok (s.parkPart w taken pc false)

/-- The running slices that take the branch. -/
def State.takers (s : State) (w : Who) (fn : BrsFn) (x : BArgs) : BitVec 8 :=
  slicesWhere w.f (fun j => brsTaken fn (((s.srcS w 0 x.a).toNat >>> (4 * j)) % 16))

theorem execBrs_none {s : State} {w : Who} {fn : BrsFn} {x : BArgs} (h : Issues s w) (hd : w.f.dormant = [])
    (ht : s.takers w fn x = 0) : execBrs fn x s = .next (settle s w (s.parted w 0 w.f.pc.next)) := by
  rw [State.takers] at ht
  rw [execBrs, control, run_of_issues h]
  simp only [hd, ht, List.isEmpty_nil, if_true]
  rfl

theorem execBrs_taken {s : State} {w : Who} {fn : BrsFn} {x : BArgs} {taken : BitVec 8} {pc : Pc} (h : Issues s w)
    (hd : w.f.dormant = []) (ht : s.takers w fn x = taken) (hn : taken ≠ 0) (hl : Lands s w (branchTarget w.f.pc x) pc) :
    execBrs fn x s = .next (settle s w (s.parted w taken pc)) := by
  rw [State.takers] at ht
  rw [execBrs, control, run_of_issues h]
  simp only [hd, ht, List.isEmpty_nil, if_true, if_neg hn, landing_of_lands hl]
  rfl

theorem frag?_congr {g h : Group} (e : h.frags = g.frags) (k : Nat) : h.frag? k = g.frag? k := by
  rw [Group.frag?, e, Group.frag?]

/-- The fragment keeps some of its slices, and another one is new in its group (R186). -/
def Group.detach (g : Group) (fid : Nat) (keep : BitVec 8) (new : Frag) : Group :=
  { g with frags := (g.updFrag fid (fun f => { f with slices := keep })).frags ++ [new] }

theorem frag?_append (g : Group) (new : Frag) (k : Nat) : ({ g with frags := g.frags ++ [new] } : Group).frag? k =
    (g.frag? k).or (if new.id = k then some new else none) := by
  by_cases h : new.id = k <;> simp [Group.frag?, List.find?_append, h]

theorem frag?_detach_same {g : Group} {fid : Nat} {f : Frag} (keep : BitVec 8) (new : Frag) (h : g.frag? fid = some f) :
    (g.detach fid keep new).frag? fid = some { f with slices := keep } := by
  have kept := frag?_updFrag_same (u := fun f => { f with slices := keep }) (fun _ => rfl) h
  exact (frag?_append _ new fid).trans (by rw [kept]; rfl)

theorem frag?_detach_new {g : Group} {fid : Nat} (keep : BitVec 8) {new : Frag} (hne : new.id ≠ fid)
    (h : g.frag? new.id = none) : (g.detach fid keep new).frag? new.id = some new := by
  have free := (frag?_updFrag_ne (u := fun f => { f with slices := keep }) (fun _ => rfl) hne).trans h
  exact (frag?_append _ new new.id).trans (by rw [free, if_pos rfl]; rfl)

/-- The record of BRS is pushed, and two numbers are used up (R186). -/
def State.forked (s : State) (w : Who) : State :=
  { s.updFrag w.gid w.fid (fun f => { f with stack := Rec.fork s.nextId w.f.fmt :: w.f.stack }) with nextId := s.nextId + 2 }

/-- The new fragment of a BRS: it starts at `pc` with the slices that leave (R186). -/
def State.leaver (s : State) (w : Who) (slices : BitVec 8) (pc : Pc) : Frag :=
  { w.f with id := s.nextId + 1, slices := slices, pc := pc, stack := Rec.fork s.nextId w.f.fmt :: w.f.stack,
             status := .ready, age := 0, byTransfer := false, crcTries := 0, landTries := 0, retiredHere := 0,
             waitFrom := none, begun := false }

/-- The fragment keeps `keep` and goes on at `kept`, and `gone` leaves for `pc`. -/
def State.parts (s : State) (w : Who) (keep gone : BitVec 8) (kept pc : Pc) : State :=
  ((s.forked w).updGroup w.gid (fun g => g.detach w.fid keep (s.leaver w gone pc))).goto w kept false

/-- Of two parts the smaller leaves, of equal ones the taken (R186). -/
theorem part_eq_parts {s : State} {w : Who} {taken rest : BitVec 8} (pc : Pc) (ht : taken ≠ 0)
    (hrest : w.f.slices &&& ~~~taken = rest) (hr : rest ≠ 0) : s.part w taken pc false =
      if popCount taken 8 ≤ popCount rest 8 then s.parts w rest taken w.f.pc.next pc
      else s.parts w taken rest pc w.f.pc.next := by
  rw [State.part]
  simp only [hrest, if_neg ht, if_neg hr]
  by_cases hsmall : popCount taken 8 ≤ popCount rest 8 <;> simp only [hsmall, decide_true, decide_false, if_true, if_false] <;> rfl

theorem parts_spec {s : State} {w : Who} (keep gone : BitVec 8) (kept pc : Pc) (hg : s.groups.get w.gid = some w.g)
    (hf : w.g.frag? w.fid = some w.f) (hd : w.f.dormant = []) (hnew : w.g.frag? (s.nextId + 1) = none) :
    ∃ h f n, (s.parts w keep gone kept pc).groups.get w.gid = some h ∧ h.frag? w.fid = some f ∧
      h.frag? (s.nextId + 1) = some n ∧ h.frags.length = w.g.frags.length + 1 ∧
      f.stack = .fork s.nextId w.f.fmt :: w.f.stack ∧ n.stack = .fork s.nextId w.f.fmt :: w.f.stack ∧ n.fmt = w.f.fmt ∧
      (n.slices = gone ∧ n.pc = pc ∧ f.slices = keep ∧ f.pc = kept) ∧ h.s = w.g.s ∧ h.v = w.g.v := by
  have other : (s.leaver w gone pc).id ≠ w.fid := fun e => by rw [show w.fid = s.nextId + 1 from e.symm, hnew] at hf; cases hf
  let record := fun f : Frag => { f with stack := Rec.fork s.nextId w.f.fmt :: w.f.stack }
  let g1 := w.g.updFrag w.fid record
  have hg1 : (s.forked w).groups.get w.gid = some g1 := get_updGroup_same hg
  have hf1 : g1.frag? w.fid = some (record w.f) := frag?_updFrag_same (u := record) (fun _ => rfl) hf
  have hd1 : ({ record w.f with slices := keep } : Frag).dormant = [] := hd
  have hnew1 : g1.frag? (s.leaver w gone pc).id = none := (frag?_updFrag_ne (u := record) (fun _ => rfl) other).trans hnew
  obtain ⟨h, hget, hfrags, hfrag, hs, hv, -⟩ :=
    goto_frag (s := (s.forked w).updGroup w.gid (fun g => g.detach w.fid keep (s.leaver w gone pc))) (get_updGroup_same hg1)
      (frag?_detach_same keep (s.leaver w gone pc) hf1) kept false
  have newStays := frag?_updFrag_ne (g := g1.detach w.fid keep (s.leaver w gone pc)) (fun x => x.goneOn_id kept false) other
  exact ⟨h, _, s.leaver w gone pc, hget, hfrag,
    ((frag?_congr hfrags _).trans newStays).trans (frag?_detach_new keep other hnew1),
    by rw [hfrags]; simp [Group.detach, updFrag_frags, g1], Frag.goneOn_stack _ _ _, rfl, rfl,
    ⟨rfl, rfl, Frag.goneOn_slices _ _ _, Frag.goneOn_pc hd1 kept false⟩, hs, hv⟩

/-- What a BRS leaves that parts its fragment (R186). -/
theorem part_spec {s : State} {w : Who} {taken rest : BitVec 8} (pc : Pc) (hg : s.groups.get w.gid = some w.g)
    (hf : w.g.frag? w.fid = some w.f) (hd : w.f.dormant = []) (ht : taken ≠ 0) (hrest : w.f.slices &&& ~~~taken = rest)
    (hr : rest ≠ 0) (hnew : w.g.frag? (s.nextId + 1) = none) :
    ∃ h f n, (s.part w taken pc false).groups.get w.gid = some h ∧ h.frag? w.fid = some f ∧
      h.frag? (s.nextId + 1) = some n ∧ h.frags.length = w.g.frags.length + 1 ∧
      f.stack = .fork s.nextId w.f.fmt :: w.f.stack ∧ n.stack = .fork s.nextId w.f.fmt :: w.f.stack ∧ n.fmt = w.f.fmt ∧
      (if popCount taken 8 ≤ popCount rest 8 then n.slices = taken ∧ n.pc = pc ∧ f.slices = rest ∧ f.pc = w.f.pc.next
       else n.slices = rest ∧ n.pc = w.f.pc.next ∧ f.slices = taken ∧ f.pc = pc) ∧
      h.s = w.g.s ∧ h.v = w.g.v ∧ (s.part w taken pc false).mem = s.mem := by
  rw [part_eq_parts pc ht hrest hr]
  by_cases hsmall : popCount taken 8 ≤ popCount rest 8
  · obtain ⟨h, f, n, hget, hfrag, hn, hlen, hstack, hnstack, hfmt, hparts, hs, hv⟩ :=
      parts_spec rest taken w.f.pc.next pc hg hf hd hnew
    simp only [if_pos hsmall]
    exact ⟨h, f, n, hget, hfrag, hn, hlen, hstack, hnstack, hfmt, hparts, hs, hv, rfl⟩
  · obtain ⟨h, f, n, hget, hfrag, hn, hlen, hstack, hnstack, hfmt, hparts, hs, hv⟩ :=
      parts_spec taken rest pc w.f.pc.next hg hf hd hnew
    simp only [if_neg hsmall]
    exact ⟨h, f, n, hget, hfrag, hn, hlen, hstack, hnstack, hfmt, hparts, hs, hv, rfl⟩

end Sys2Proof.Machine

namespace Sys2Proof

open Sys2Proof.Machine

/-- Settles O22: below fork depth 8 BRS parts the fragment, at it the slices not taken are parked. -/
theorem partingBranch : Obligations.PartingBranch := by
  intro s w x fn pc h hd m target cond depth count taken htaken rest record
  have takers : s.takers w fn x = taken := by
    refine BitVec.eq_of_getLsbD_eq fun j hj => ?_
    rw [State.takers, getLsbD_slicesWhere, htaken j hj, Nat.shiftRight_eq_div_pow, decide_eq_true hj, Bool.true_and]
    cases fn <;> rfl
  have deep : forkDepth w.f.stack = depth := forkDepth_eq_length (fun _ _ => rfl) (fun _ _ _ _ _ _ => rfl) w.f.stack
  have goes : taken ≠ 0 → Lands s w target pc → exec (.brs fn x) s = .next (settle s w (s.parted w taken pc)) := fun hn hl =>
    execBrs_taken h hd takers hn (by rw [branchTarget_eq]; exact hl)
  have stays : taken = 0 → exec (.brs fn x) s = .next (settle s w (s.parted w 0 w.f.pc.next)) := fun hz =>
    execBrs_none h hd (takers.trans hz)
  have below : ∀ p q, depth < 8 → s.parted w p q = .ok (s.part w p q false) := fun p q hlt => if_pos (deep ▸ hlt)
  refine ⟨fun hz hlt => ?_, fun hn hr hlt hl => ?_, fun hn hr hlt hl hnew => ?_, fun hn h8 hroom hl => ?_, fun h8 hfull hz => ?_⟩
  · rw [stays hz, below _ _ hlt]
    rfl
  · rw [goes hn hl, below _ _ hlt, State.part]
    simp only [if_neg hn, show w.f.slices &&& ~~~taken = 0 from hr, if_true]
    rfl
  · obtain ⟨g, f, n, hspec⟩ := part_spec pc (Issues.group h) (Issues.frag h) hd hn rfl hr hnew
    simp only [popCount_eq_length] at hspec
    exact ⟨(s.part w taken pc false).endIssue, g, f, n, by rw [goes hn hl, below _ _ hlt]; rfl, hspec⟩
  · have parks : s.parted w taken pc = .ok (s.parkPart w taken pc false) := by
      rw [State.parted, if_neg (by omega), if_neg (by rw [parkDepth]; omega)]
    rw [goes hn hl, parks, State.parkPart]
    simp only [if_neg hn]
    rfl
  · have full : s.parted w 0 w.f.pc.next = .error (.cause 0x0A none) := by
      rw [State.parted, if_neg (by omega), if_pos (by rw [parkDepth]; omega)]
    rw [stays hz, full]
    rfl

end Sys2Proof
end

/-! SUPPORT. What REGANG and MSKIP leave (R188-R192); O23 settled. -/

section

namespace Sys2Proof.Machine

open Sys2Proof

/-! ### Bindings and holders of a record (R188, R189) -/

theorem bound_unbind (g : Group) (id : Nat) : (g.unbind id).bound id = none := by
  have gone : (g.unbind id).bindings.find? (fun b => b.1 == id) = none := by
    simp [Group.unbind, List.find?_eq_none]
  rw [Group.bound, gone]; rfl

theorem bound_bind (g : Group) (id token : Nat) (pc : Pc) : ((g.bind_ id token pc).bound id).isSome = true := by
  rw [Group.bind_]
  split
  · assumption
  · simp [Group.bound]

theorem bind_frags (g : Group) (id token : Nat) (pc : Pc) : (g.bind_ id token pc).frags = g.frags := by
  rw [Group.bind_]; split <;> rfl

theorem bound_congr {g h : Group} (e : h.bindings = g.bindings) (id : Nat) : h.bound id = g.bound id := by
  rw [Group.bound, e, Group.bound]

theorem mem_forkIds {l : List Rec} {id : Nat} : id ∈ forkIds l ↔ ∃ v, Rec.fork id v ∈ l := by
  rw [forkIds, List.mem_filterMap]
  constructor
  · rintro ⟨r, hr, hid⟩
    cases r with
    | fork i v => cases hid; exact ⟨v, hr⟩
    | park => cases hid
  · rintro ⟨v, hv⟩
    exact ⟨_, hv, rfl⟩

theorem otherHolders_isEmpty (g : Group) (id fid : Nat) :
    (g.otherHolders id fid).isEmpty = true ↔ ∀ f ∈ g.frags, f.id ≠ fid → ∀ v, Rec.fork id v ∉ f.stack := by
  simp [Group.otherHolders, List.filter_eq_nil_iff, mem_forkIds]

/-- The record is unbound, or bound to this REGANG (R188). -/
def Who.fits (w : Who) (x : Args) (id : Nat) : Bool :=
  match w.g.bound id with
  | none => true
  | some b => b == (immField x.imm 0 16, w.f.pc)

theorem fits_iff (w : Who) (x : Args) (id : Nat) : w.fits x id = true ↔
    w.g.bound id = none ∨ w.g.bound id = some (x.imm.toNat % 2 ^ 16, w.f.pc) := by
  rw [Who.fits, immField_zero]
  cases w.g.bound id <;> simp

/-! ### REGANG, record by record (R188-R190) -/

theorem execRegang_empty {s : State} {w : Who} {x : Args} (h : Issues s w) (hd : w.f.dormant = []) (hs : w.f.stack = []) :
    execRegang x s = trapsIn s w 0x09 none :=
  run_cause h (by simp only [hd, hs, List.isEmpty_nil, if_true])

theorem execRegang_fork {s : State} {w : Who} {x : Args} {id : Nat} {saved : W32} {r : List Rec} (h : Issues s w)
    (hd : w.f.dormant = []) (hs : w.f.stack = .fork id saved :: r) : execRegang x s = .next (settle s w (
      if !w.fits x id then .error (.cause 0x09 none)
      else if (w.g.otherHolders id w.fid).isEmpty then .ok (s.popRecord w id saved 0)
      else .error (.wait (.join id)
        ((s.updGroup w.gid (fun g => g.bind_ id (immField x.imm 0 16) w.f.pc)).push (.regangJoin w.gid id))))) := by
  rw [execRegang, control, run_of_issues h]
  simp only [hd, hs, List.isEmpty_nil, if_true]
  rfl

theorem execRegang_park {s : State} {w : Who} {x : Args} {id : Nat} {saved : W32} {parked waiting : BitVec 8} {resume : Pc}
    {ran : Bool} {r : List Rec} (h : Issues s w) (hd : w.f.dormant = [])
    (hs : w.f.stack = .park id saved parked resume waiting ran :: r) : execRegang x s = .next (settle s w (
      if !w.fits x id then .error (.cause 0x09 none)
      else if !ran && parked != 0 then
        .error (.wait .park ((s.updGroup w.gid (fun g => g.bind_ id (immField x.imm 0 16) w.f.pc)).push
          (.parkedSlicesResume w.gid w.fid)))
      else .ok (s.popRecord w id saved waiting))) := by
  rw [execRegang, control, run_of_issues h]
  simp only [hd, hs, List.isEmpty_nil, if_true]
  rfl

/-- A record popped: saved_fmt and the waiting slices are back in the fragment, and the record is unbound (R189, R190). -/
theorem popRecord_spec {s : State} {w : Who} {rec : Rec} {r : List Rec} (id : Nat) (saved : W32) (more : BitVec 8)
    (hg : s.groups.get w.gid = some w.g) (hf : w.g.frag? w.fid = some w.f) (hs : w.f.stack = rec :: r) :
    ∃ h f, (s.popRecord w id saved more).groups.get w.gid = some h ∧ h.frag? w.fid = some f ∧
      f.stack = r ∧ f.fmt = saved ∧ f.slices = w.f.slices ||| more ∧ f.status = .ready ∧ h.bound id = none ∧
      h.s = w.g.s ∧ h.v = w.g.v := by
  let pop := fun f : Frag => { f with stack := f.stack.drop 1, fmt := saved, slices := f.slices ||| more, afterJoin := true }
  have hf1 : ((w.g.updFrag w.fid pop).unbind id).frag? w.fid = some (pop w.f) :=
    frag?_updFrag_same (u := pop) (fun _ => rfl) hf
  have hg1 : ((s.updGroup w.gid (fun g => (g.updFrag w.fid pop).unbind id)).joinPaths w.gid
      ((w.g.frags.filter (fun f => f.id != w.fid)).map (·.id))).groups.get w.gid =
        some ((w.g.updFrag w.fid pop).unbind id) := get_updGroup_same hg
  obtain ⟨h, hget, -, hfrag, hs', hv, hb⟩ := goto_frag hg1 hf1 w.f.pc.next false
  exact ⟨h, _, hget, hfrag, (Frag.goneOn_stack _ _ _).trans (by rw [show (pop w.f).stack = w.f.stack.drop 1 from rfl, hs]; rfl),
    Frag.goneOn_fmt _ _ _, Frag.goneOn_slices _ _ _, rfl, (bound_congr hb id).trans (bound_unbind _ id), hs', hv⟩

/-- The fragment waits at the REGANG to which its record is bound, and the event `i` is to end the wait (R188-R190). -/
def State.waitsBound (s : State) (w : Who) (x : Args) (id : Nat) (i : Instr) (y : Wait) : State :=
  ((s.updGroup w.gid (fun g => g.bind_ id (immField x.imm 0 16) w.f.pc)).push i).setWaiting w.gid w.fid y

theorem waitsBound_spec {s : State} {w : Who} (x : Args) (id : Nat) (i : Instr) (y : Wait)
    (hg : s.groups.get w.gid = some w.g) (hf : w.g.frag? w.fid = some w.f) :
    ∃ h f, (s.waitsBound w x id i y).groups.get w.gid = some h ∧ h.frag? w.fid = some f ∧ f.status = .waiting y ∧
      f.pc = w.f.pc ∧ (h.bound id).isSome = true := by
  have hf1 : (w.g.bind_ id (immField x.imm 0 16) w.f.pc).frag? w.fid = some w.f :=
    (frag?_congr (bind_frags w.g id _ w.f.pc) _).trans hf
  obtain ⟨h, f, hget, hfrag, hst, hpc, hb⟩ := setWaiting_frag
    (s := (s.updGroup w.gid (fun g => g.bind_ id (immField x.imm 0 16) w.f.pc)).push i) (get_updGroup_same hg) hf1 y
  exact ⟨h, f, hget, hfrag, hst, hpc, by rw [bound_congr hb]; exact bound_bind _ _ _ _⟩

end Sys2Proof.Machine

namespace Sys2Proof

open Sys2Proof.Machine

/-- Settles O23: REGANG by the record on top of the stack, MSKIP by the bits of its mask. -/
theorem joiningAndSkipping : Obligations.JoiningAndSkipping := by
  constructor
  · intro s w x h hd fits
    have hg := Issues.group h
    have hf := Issues.frag h
    refine ⟨execRegang_empty h hd, fun id saved r hs => ⟨fun hn => ?_, fun hfit hothers hsame => ?_, fun hfit hother => ?_⟩,
      fun id saved parked resume waiting ran r hs hfit => ⟨fun hdone => ?_, fun hran hparked => ?_⟩⟩
    · have misfit : w.fits x id = false := Bool.not_eq_true _ ▸ mt (fits_iff w x id).1 hn
      refine (execRegang_fork h hd hs).trans ?_
      rw [misfit]
      rfl
    · have alone : (w.g.otherHolders id w.fid).isEmpty = true :=
        (otherHolders_isEmpty _ _ _).2 fun f hm hne v hv => hothers f hm hne (hsame f hm v hv ▸ hv)
      obtain ⟨g, f, hget, hfrag, hst, hfmt, hsl, hready, hb, hs', hv⟩ := popRecord_spec id saved 0 hg hf hs
      refine ⟨(s.popRecord w id saved 0).endIssue, g, f, (execRegang_fork h hd hs).trans ?_, hget, hfrag, hst, hfmt,
        hsl.trans BitVec.or_zero, hready, hb, hs', hv, rfl⟩
      rw [(fits_iff w x id).2 hfit, alone]
      rfl
    · have shared : (w.g.otherHolders id w.fid).isEmpty = false := by
        obtain ⟨f, hm, hne, hv⟩ := hother
        exact Bool.not_eq_true _ ▸ fun he => (otherHolders_isEmpty _ _ _).1 he f hm hne saved hv
      obtain ⟨g, f, hget, hfrag, hst, hpc, hb⟩ := waitsBound_spec x id (.regangJoin w.gid id) (.join id) hg hf
      refine ⟨(s.waitsBound w x id (.regangJoin w.gid id) (.join id)).endIssue, g, f,
        (execRegang_fork h hd hs).trans ?_, hget, hfrag, hst, hpc, hb, rfl⟩
      rw [(fits_iff w x id).2 hfit, shared]
      rfl
    · have done : (!ran && parked != 0) = false := by rcases hdone with e | e <;> simp [e]
      obtain ⟨g, f, hget, hfrag, hst, hfmt, hsl, hready, -⟩ := popRecord_spec id saved waiting hg hf hs
      refine ⟨(s.popRecord w id saved waiting).endIssue, g, f, (execRegang_park h hd hs).trans ?_, hget, hfrag, hst, hfmt, hsl,
        hready, rfl⟩
      rw [(fits_iff w x id).2 hfit, done]
      rfl
    · have toRun : (!ran && parked != 0) = true := by rw [hran]; exact bne_iff_ne.2 hparked
      obtain ⟨g, f, hget, hfrag, hst, hpc, -⟩ :=
        waitsBound_spec x id (.parkedSlicesResume w.gid w.fid) .park hg hf
      refine ⟨(s.waitsBound w x id (.parkedSlicesResume w.gid w.fid) .park).endIssue, g, f,
        (execRegang_park h hd hs).trans ?_, hget, hfrag, hst, hpc, rfl⟩
      rw [(fits_iff w x id).2 hfit, toRun]
      rfl
  · intro s w x h m skipped
    refine run_ok h ?_
    simp only [immField_zero, Nat.shiftRight_eq_div_pow]
    rfl

end Sys2Proof
end

/-! SUPPORT. What GROW, SHRINK and QCTL complete with (R203-R206, R477); O37 settled. -/

section

namespace Sys2Proof.Machine

open Sys2Proof

/-! ### GROW (R203, R206) -/

theorem growFits_iff (s : State) (g : Group) (n : Nat) :
    s.growFits g n = true ↔ g.blocks + n ≤ 32 ∧ s.blocksHeld g + n ≤ 48 := by
  simp [State.growFits]

/-- The octet has n blocks free and no older request (R203). -/
def State.growFree (s : State) (w : Who) (n : Nat) : Bool := n ≤ s.freeIn w.g.core w.g.octet && !s.olderWaiters w

theorem growFree_iff (s : State) (w : Who) (n : Nat) :
    s.growFree w n = true ↔ n ≤ s.freeIn w.g.core w.g.octet ∧ s.olderWaiters w = false := by
  simp [State.growFree]

/-- A GROW that completes in `t`, its .nb form with the result `r`. -/
def State.growEnds (t : State) (w : Who) (x : Args) (r : W64) : NbFn → State
  | .blocking => t.advance w
  | .nb => (t.putScalar w (scalShape x) r).advance w

section

variable {s : State} {w : Who} {x : Args} {fn : NbFn} (h : Issues s w)
include h

theorem execGrow_in_region (ht : w.g.tryR.isSome = true) : execGrow fn x s = trapsIn s w 0x0C none :=
  run_cause h (if_pos ht)

variable (ht : w.g.tryR = none) (hp : Passes s w (scalShape x))
include ht hp

theorem execGrow_nothing (hn : (s.srcS w 0 x.a).toNat = 0) : execGrow fn x s = doneIn (s.growEnds w x 0 fn) := by
  refine run_ok h ?_
  simp only [ht, pre_scalShape hp, hn, Option.isSome_none, Bool.false_eq_true, if_false, if_true]
  cases fn <;> rfl

theorem execGrow_granted (hn : (s.srcS w 0 x.a).toNat ≠ 0) (hfits : s.growFits w.g (s.srcS w 0 x.a).toNat = true)
    (hfree : s.growFree w (s.srcS w 0 x.a).toNat = true) :
    execGrow fn x s = doneIn ((s.grantBlocks w (s.srcS w 0 x.a).toNat).growEnds w x 0 fn) := by
  rw [State.growFree] at hfree
  refine run_ok h ?_
  simp only [ht, pre_scalShape hp, if_neg hn, hfits, hfree, Option.isSome_none, Bool.false_eq_true, if_false, if_true, Bool.not_true]
  cases fn <;> rfl

theorem execGrow_nb_waits (hn : (s.srcS w 0 x.a).toNat ≠ 0) (hfits : s.growFits w.g (s.srcS w 0 x.a).toNat = true)
    (hfree : s.growFree w (s.srcS w 0 x.a).toNat = false) : execGrow .nb x s = scalarDone s w x 1 := by
  rw [State.growFree] at hfree
  refine run_ok h ?_
  simp only [ht, pre_scalShape hp, if_neg hn, hfits, hfree, Option.isSome_none, Bool.false_eq_true, if_false, Bool.not_true]
  rfl

theorem execGrow_nb_beyond (hn : (s.srcS w 0 x.a).toNat ≠ 0) (hfits : s.growFits w.g (s.srcS w 0 x.a).toNat = false) :
    execGrow .nb x s = scalarDone s w x 2 := by
  refine run_ok h ?_
  simp only [ht, pre_scalShape hp, if_neg hn, hfits, Option.isSome_none, Bool.false_eq_true, if_false, Bool.not_false, if_true]
  rfl

theorem execGrow_beyond (hn : (s.srcS w 0 x.a).toNat ≠ 0) (hfits : s.growFits w.g (s.srcS w 0 x.a).toNat = false) :
    execGrow .blocking x s = trapsIn s w 0x0F none := by
  refine run_cause h ?_
  simp only [ht, pre_scalShape hp, if_neg hn, hfits, Option.isSome_none, Bool.false_eq_true, if_false, Bool.not_false, if_true]

end

/-! ### SHRINK (R204, R206) -/

/-- The window's last n blocks go back to the octet (R204). -/
def State.shrunk (s : State) (w : Who) (n : Nat) : State :=
  ((s.updGroup w.gid (fun g => { g with blocks := g.blocks - n, v := g.v.take (8 * (g.blocks - n)) })).dropReturned w.gid
    (w.g.blocks - n)).freeBlocks w.g.core w.g.octet n

theorem execShrink_done {s : State} {w : Who} {x : Args} (h : Issues s w) (ht : w.g.tryR = none)
    (hn : (s.srcS w 0 x.a).toNat ≠ 0) (hlt : (s.srcS w 0 x.a).toNat < w.g.blocks) (hregs : s.pendingRegs w.gid = false) :
    execShrink x s = doneIn ((s.shrunk w (s.srcS w 0 x.a).toNat).advance w) := by
  refine run_ok h ?_
  simp only [ht, if_neg hn, if_neg (Nat.not_lt.2 hlt), hregs, Option.isSome_none, Bool.false_eq_true, if_false]
  rfl

theorem execShrink_nothing {s : State} {w : Who} {x : Args} (h : Issues s w) (ht : w.g.tryR = none)
    (hn : (s.srcS w 0 x.a).toNat = 0) : execShrink x s = doneIn (s.advance w) :=
  run_ok h (by simp only [ht, hn, Option.isSome_none, Bool.false_eq_true, if_false, if_true])

theorem execShrink_beyond {s : State} {w : Who} {x : Args} (h : Issues s w) (ht : w.g.tryR = none)
    (hn : (s.srcS w 0 x.a).toNat ≠ 0) (hle : w.g.blocks ≤ (s.srcS w 0 x.a).toNat) :
    execShrink x s = trapsIn s w 0x0F none :=
  run_cause h (by simp only [ht, if_neg hn, if_pos (Nat.lt_succ_of_le hle), Option.isSome_none, Bool.false_eq_true, if_false])

theorem execShrink_in_region {s : State} {w : Who} {x : Args} (h : Issues s w) (ht : w.g.tryR.isSome = true) :
    execShrink x s = trapsIn s w 0x0C none := run_cause h (if_pos ht)

/-! ### QCTL (R205) -/

/-- The masks that QCTL .cnt returns: full queues above non-empty ones. -/
def State.queueMasks (s : State) (w : Who) (q : Nat) : W64 :=
  (bits32 (fun k => decide (8 ≤ ((s.lists w q).getD k []).length)) ++ bits32 (fun k => !((s.lists w q).getD k []).isEmpty) :
    BitVec 64)

theorem queueMasks_low (s : State) (w : Who) (q : Nat) {l : Nat} (hl : l < 32) :
    (s.queueMasks w q).getLsbD l = decide ((s.lists w q).getD l [] ≠ []) := by
  rw [State.queueMasks, BitVec.getLsbD_append, if_pos hl, getLsbD_bits32, decide_eq_true hl, Bool.true_and]
  cases (s.lists w q).getD l [] <;> rfl

theorem queueMasks_high (s : State) (w : Who) (q : Nat) {l : Nat} (hl : l < 32) :
    (s.queueMasks w q).getLsbD (32 + l) = decide (8 ≤ ((s.lists w q).getD l []).length) := by
  rw [State.queueMasks, BitVec.getLsbD_append, if_neg (by omega), Nat.add_sub_cancel_left, getLsbD_bits32, decide_eq_true hl,
    Bool.true_and]

theorem execQctlCnt_done {s : State} {w : Who} {x : Args} (h : Issues s w) (hpair : w.g.partner.isSome = true)
    (hp : Passes s w (scalShape x)) : execQctlCnt x s = scalarDone s w x (s.queueMasks w (immField x.imm 0 3)) := by
  have paired : w.g.partner.isNone = false := by rw [← Option.not_isSome, hpair]; rfl
  refine run_ok h ?_
  simp only [paired, pre_scalShape hp, Bool.false_eq_true, if_false]
  rfl

theorem execQctlRst_done {s : State} {w : Who} {x : Args} (h : Issues s w) (hpair : w.g.partner.isSome = true) :
    execQctlRst x s = doneIn (((s.setLists w (immField x.imm 0 3) (fun _ _ => [])).queueMoved w).advance w) := by
  have paired : w.g.partner.isNone = false := by rw [← Option.not_isSome, hpair]; rfl
  exact run_ok h (by simp only [paired, Bool.false_eq_true, if_false])

theorem execQctlCnt_alone {s : State} {w : Who} {x : Args} (h : Issues s w) (hpair : w.g.partner = none) :
    execQctlCnt x s = trapsIn s w 0x21 none := run_cause h (by simp only [hpair, Option.isNone_none, if_true])

theorem execQctlRst_alone {s : State} {w : Who} {x : Args} (h : Issues s w) (hpair : w.g.partner = none) :
    execQctlRst x s = trapsIn s w 0x21 none := run_cause h (by simp only [hpair, Option.isNone_none, if_true])

end Sys2Proof.Machine

namespace Sys2Proof

open Sys2Proof.Machine

/-- Settles O37: GROW by its limits and by what is free, SHRINK by the blocks held, QCTL by the lists of its queue. -/
theorem blockForms : Obligations.BlockForms := by
  intro s w x h n within free grown
  have fits : s.growFits w.g n = true ↔ within := growFits_iff s w.g n
  have isFree : s.growFree w n = true ↔ free := growFree_iff s w n
  refine ⟨fun ht hp => ⟨fun hn hw hf => ?_, fun hn => ?_, fun hn hw hf => ?_, fun hn hw => ?_⟩,
    fun ht => ⟨fun hn => execShrink_nothing h ht hn, fun hn hlt hregs => execShrink_done h ht hn hlt hregs,
      fun hle hn => execShrink_beyond h ht hn hle⟩,
    fun ht => ⟨fun fn => execGrow_in_region h ht, execShrink_in_region h ht⟩, fun hpair => ⟨fun hp => ?_, ?_⟩,
    fun hpair => ⟨execQctlCnt_alone h hpair, execQctlRst_alone h hpair⟩⟩
  · exact ⟨execGrow_granted (fn := .blocking) h ht hp hn (fits.2 hw) (isFree.2 hf),
      execGrow_granted (fn := .nb) h ht hp hn (fits.2 hw) (isFree.2 hf)⟩
  · exact ⟨execGrow_nothing (fn := .blocking) h ht hp hn, execGrow_nothing (fn := .nb) h ht hp hn⟩
  · exact execGrow_nb_waits h ht hp hn (fits.2 hw) (Bool.not_eq_true _ ▸ mt isFree.1 hf)
  · have beyond : s.growFits w.g n = false := Bool.not_eq_true _ ▸ mt fits.1 hw
    exact ⟨execGrow_nb_beyond h ht hp hn beyond, execGrow_beyond h ht hp hn beyond⟩
  · refine ⟨s.queueMasks w (immField x.imm 0 3), execQctlCnt_done h hpair hp, fun l hl => ?_⟩
    rw [immField_zero]
    exact ⟨queueMasks_low s w _ hl, queueMasks_high s w _ hl⟩
  · exact (execQctlRst_done h hpair).trans (by rw [immField_zero])

end Sys2Proof
end

/-! SUPPORT. What an arrival leaves of its barrier and its group, and how BAR, BARA and BARW end (R197, R198); O35 settled. -/

section

namespace Sys2Proof.Machine

open Sys2Proof

/-! ### Groups, teams and generations stay where the caches work -/

theorem CacheWork.groups {s t : State} (h : CacheWork s t) : t.groups = s.groups := by
  obtain ⟨_, _, _, rfl⟩ := h; rfl

theorem CacheWork.teams {s t : State} (h : CacheWork s t) : t.teams = s.teams := by
  obtain ⟨_, _, _, rfl⟩ := h; rfl

/-! ### The arrival (R197, R198) -/

theorem barCount_eq (s : State) (g : Group) (imm : W32) : s.barCount g imm =
    if imm.toNat / 2 ^ 8 % 2 ^ 6 = 0 then (s.launchOf g.task).ncomp else imm.toNat / 2 ^ 8 % 2 ^ 6 := by
  simp only [State.barCount, immField_eq_div]

theorem arriveBad_eq_false_iff (s : State) (w : Who) (b : Barrier) (n : Nat) : s.arriveBad w b n = false ↔
    w.holdsAll = true ∧ n ≤ (s.launchOf w.g.task).ncomp ∧ (b.count = 0 ∨ b.expected = n) ∧ w.gid ∉ b.arrived := by
  simp [State.arriveBad, and_assoc, or_iff_not_imp_left]

theorem arrive_last {b : Barrier} {n : Nat} (gid : Nat) (h : b.count + 1 = n) : b.arrive gid n = ⟨b.phase + 1, 0, 0, []⟩ :=
  if_pos h

theorem arrive_counts {b : Barrier} {n : Nat} (gid : Nat) (h : b.count + 1 ≠ n) :
    b.arrive gid n = ⟨b.phase, b.count + 1, n, b.arrived ++ [gid]⟩ := if_neg h

/-- The barrier of the group's team (R197). -/
def State.HasBarrier (s : State) (team id : Nat) (b : Barrier) : Prop :=
  ∃ t, s.teams.get team = some t ∧ barrierAt t id = b

/-- An arrival leaves the barrier arrived at, and of the group only its phases and its restart point change (R197, R460). -/
theorem arriveAt_spec {s : State} {w : Who} {t : Team} (id n : Nat) (b : Barrier) (hg : s.groups.get w.gid = some w.g)
    (ht : s.teams.get w.g.team = some t) :
    (s.arriveAt w id n b).HasBarrier w.g.team id (b.arrive w.gid n) ∧
      (s.arriveAt w id n b).groups.get w.gid = some { w.g with arrivals := setPair w.g.arrivals id b.phase, idem := false } ∧
      (b.count + 1 = n → .barrierPhaseComplete w.g.team id ∈ (s.arriveAt w id n b).due) := by
  have released := cacheWork_release s w.gid w.g .team
  have hg1 : (s.release w.gid w.g .team).groups.get w.gid = some w.g := by rw [released.groups, hg]
  have ht1 : (s.release w.gid w.g .team).teams.get w.g.team = some t := by rw [released.teams, ht]
  have teams : (s.arriveAt w id n b).teams = (s.release w.gid w.g .team).teams.upd w.g.team (fun t =>
      { t with barriers := setAt ⟨0, 0, 0, []⟩ t.barriers id (b.arrive w.gid n) }) := by
    unfold State.arriveAt; dsimp only; split <;> rfl
  have groups : (s.arriveAt w id n b).groups.get w.gid =
      some { w.g with arrivals := setPair w.g.arrivals id b.phase, idem := false } := by
    have arrived := get_updGroup_same (f := fun g => { g with arrivals := setPair g.arrivals id b.phase }) hg1
    have disarmed := get_updGroup_same (f := fun g => { g with idem := false }) arrived
    unfold State.arriveAt; dsimp only; split <;> exact disarmed
  refine ⟨⟨{ t with barriers := setAt ⟨0, 0, 0, []⟩ t.barriers id (b.arrive w.gid n) },
    by rw [teams, Table.get_upd_same, ht1]; rfl, getD_setAt_same _ _ _ _⟩, groups, fun hn => ?_⟩
  unfold State.arriveAt
  dsimp only
  rw [if_pos hn]
  exact List.mem_append_right _ (List.mem_singleton_self _)

/-- The fragment goes on from the barrier, whose phase stays (R197). -/
theorem leaveBar_spec {u : State} {w : Who} {g : Group} (hg : u.groups.get w.gid = some g) (hfrags : g.frags = w.g.frags) :
    (∃ h, (u.leaveBar w).groups.get w.gid = some h ∧ WentOn w w.f.pc.next (fun m => m) h) ∧ (u.leaveBar w).teams = u.teams := by
  have acquired := cacheWork_acquire u w.g .team
  have left := get_updGroup_same (s := u.acquire w.g .team) (k := w.gid) (f := fun g => { g with
    barWait := g.barWait.filter (fun z => !(z.pc == w.f.pc && z.hm == w.g.hm)) }) (by rw [acquired.groups, hg])
  have gone : (g.updFrag w.fid (Frag.goneOn w.f.pc.next false)).frags =
      (w.g.updFrag w.fid (Frag.goneOn w.f.pc.next false)).frags := by rw [updFrag_frags, hfrags, updFrag_frags]
  exact ⟨⟨_, goto_get_same left _ _, wentOn_of_goneOn gone⟩, acquired.teams⟩

/-- The state in which a BAR waits: it has arrived (R197). -/
def State.barArrived (s : State) (w : Who) (id n : Nat) (b : Barrier) : State :=
  (s.arriveAt w id n b).updGroup w.gid (fun g => { g with barWait := g.barWait ++ [⟨w.f.pc, id, b.phase, w.g.hm⟩] })

/-! ### BARA, BAR and BARW (R197) -/

section

variable {s : State} {w : Who} {x : Args} {t : Team} (h : Issues s w) (htry : w.g.tryR = none) (ht : s.teams.get w.g.team = some t)
include h htry ht

theorem execBara_eq {id n : Nat} (hid : immField x.imm 0 4 = id) (hn : s.barCount w.g x.imm = n) :
    execBara x s = .next (settle s w (
      if s.arriveBad w (barrierAt t id) n then .error (.cause 0x22 none)
      else if !s.settled w.gid then .error (.wait .fence s)
      else .ok ((s.arriveAt w id n (barrierAt t id)).advance w))) := by
  subst hid hn
  rw [execBara, run_of_issues h]
  simp only [htry, State.teamOf, ht, Option.isSome_none, Bool.false_eq_true, if_false]

theorem execBar_fresh {id n : Nat} (hid : immField x.imm 0 4 = id) (hn : s.barCount w.g x.imm = n)
    (hf : w.g.barWait.find? (fun z => decide (z.pc = w.f.pc ∧ z.bar = id ∧ z.hm = w.g.hm)) = none) :
    execBar x s = .next (settle s w (
      if s.arriveBad w (barrierAt t id) n then .error (.cause 0x22 none)
      else if !s.settled w.gid then .error (.wait .fence s)
      else if (barrierAt t id).count + 1 = n then .ok ((s.arriveAt w id n (barrierAt t id)).leaveBar w)
      else .error (.wait (.bar id (barrierAt t id).phase) (s.barArrived w id n (barrierAt t id))))) := by
  subst hid hn
  rw [execBar, run_of_issues h]
  simp only [htry, State.teamOf, ht, hf, Option.isSome_none, Bool.false_eq_true, if_false]
  rfl

theorem execBar_again {id : Nat} {z : Arrived} (hid : immField x.imm 0 4 = id)
    (hf : w.g.barWait.find? (fun z => decide (z.pc = w.f.pc ∧ z.bar = id ∧ z.hm = w.g.hm)) = some z)
    (hz : (barrierAt t id).phase ≠ z.phase) : execBar x s = doneIn (s.leaveBar w) := by
  subst hid
  refine run_ok h ?_
  simp only [htry, State.teamOf, ht, hf, if_neg hz, Option.isSome_none, Bool.false_eq_true, if_false]

end

theorem execBarw_over {s : State} {w : Who} {x : Args} {t : Team} {id p : Nat} (h : Issues s w)
    (ht : s.teams.get w.g.team = some t) (hid : immField x.imm 0 4 = id)
    (ha : w.g.arrivals.find? (fun e => e.1 == id) = some (id, p)) (hall : w.holdsAll = true)
    (hp : (barrierAt t id).phase ≠ p) : execBarw x s = doneIn (s.leaveBar w) := by
  subst hid
  refine run_ok h ?_
  simp only [State.teamOf, ht, ha, hall, if_neg hp, Bool.not_true, Bool.false_eq_true, if_false]

theorem execBarw_none {s : State} {w : Who} {x : Args} {id : Nat} (h : Issues s w) (hid : immField x.imm 0 4 = id)
    (ha : w.g.arrivals.find? (fun e => e.1 == id) = none) : execBarw x s = trapsIn s w 0x22 none := by
  subst hid
  refine run_cause h ?_
  simp only [ha]
  cases s.teamOf w.g <;> rfl

end Sys2Proof.Machine

namespace Sys2Proof

open Sys2Proof.Machine

/-- Settles O35: the arrival is `arriveAt`; BARA goes on from it, BAR leaves with the phase or waits. -/
theorem barrierForms : Obligations.BarrierForms := by
  intro s w x t h htry ht id b n allowed next fresh left
  have hg := Issues.group h
  have hf := Issues.frag h
  have hid : immField x.imm 0 4 = id := immField_zero _ _
  have hn : s.barCount w.g x.imm = n := barCount_eq _ _ _
  have first : fresh → w.g.barWait.find? (fun z => decide (z.pc = w.f.pc ∧ z.bar = id ∧ z.hm = w.g.hm)) = none := fun hfr =>
    List.find?_eq_none.2 fun z hz => by simpa using fun hpc _ => hfr z hz hpc
  obtain ⟨hbar, harr, hdue⟩ := arriveAt_spec id n b hg ht
  have harrf : ({ w.g with arrivals := setPair w.g.arrivals id b.phase, idem := false } : Machine.Group).frag? w.fid = some w.f := hf
  refine ⟨fun hok hs => ?_, fun hbad => ?_, fun z hz hp => execBar_again h htry ht hid hz hp,
    fun p ha hall hp => execBarw_over h ht hid ha hall hp, fun ha => execBarw_none h hid ha⟩
  · have good : s.arriveBad w b n = false := (arriveBad_eq_false_iff s w b n).2 hok
    have bara : exec (.bara x) s = doneIn ((s.arriveAt w id n b).advance w) :=
      (execBara_eq h htry ht hid hn).trans (by rw [good, hs]; rfl)
    have goes := goto_get_same harr w.f.pc.next false
    refine ⟨fun hlast => ?_, fun hmore => ?_⟩
    · rw [arrive_last w.gid hlast] at hbar
      obtain ⟨⟨g, hget, hwent⟩, hteams⟩ := leaveBar_spec (w := w) harr rfl
      refine ⟨⟨_, bara, hbar, hdue hlast⟩, fun hfr => ⟨((s.arriveAt w id n b).leaveBar w).endIssue, g, ?_, ?_, hget, hwent⟩⟩
      · exact (execBar_fresh h htry ht hid hn (first hfr)).trans (by rw [good, hs, if_pos hlast]; rfl)
      · obtain ⟨t', ht', hb⟩ := hbar
        exact ⟨t', (congrArg (·.get w.g.team) hteams).trans ht', hb⟩
    · rw [arrive_counts w.gid hmore] at hbar
      obtain ⟨g, f, hget, hfrag, hst, hpc, -⟩ := setWaiting_frag (s := s.barArrived w id n b) (get_updGroup_same harr) harrf
        (.bar id b.phase)
      refine ⟨⟨_, _, bara, hbar, goes, wentOn_of_goneOn rfl, List.mem_cons_self⟩, fun hfr =>
        ⟨((s.barArrived w id n b).setWaiting w.gid w.fid (.bar id b.phase)).endIssue, g, f, ?_, hbar, hget, hfrag, hst, hpc⟩⟩
      exact (execBar_fresh h htry ht hid hn (first hfr)).trans (by rw [good, hs, if_neg hmore]; rfl)
  · have bad : s.arriveBad w b n = true := by
      rw [← Bool.not_eq_false, arriveBad_eq_false_iff]; exact hbad
    exact ⟨fun hfr => (execBar_fresh h htry ht hid hn (first hfr)).trans (by rw [bad]; rfl),
      (execBara_eq h htry ht hid hn).trans (by rw [bad]; rfl)⟩

end Sys2Proof
end

/-! SUPPORT. How copies, batches, gathers and their waits are accepted and complete (R199, R241-R244, R249, R253-R256). -/

section

namespace Sys2Proof.Machine

open Sys2Proof

/-! ### Copies (R249, R254) -/

theorem sharesByte_eq_false {a m b n : Nat} (h : ∀ k, ¬ (a ≤ k ∧ k < a + m ∧ b ≤ k ∧ k < b + n)) :
    sharesByte a m b n = false := by
  have apart := h (max a b)
  simp only [sharesByte, decide_eq_false_iff_not]
  omega

theorem copyFail_eq_none {s : State} {w : Who} {dst src : W64} {m n : Nat}
    (hd : s.engineCheck w.gid w.g dst m true = none) (hs : s.engineCheck w.gid w.g src n false = none)
    (hshare : sharesByte dst.toNat m src.toNat n = false) : s.copyFail w dst m src n = none := by
  simp only [State.copyFail, hd, hs, hshare]
  rfl

/-- A copy joins the open batch, the dirty lines of its team cleaned (R241, R243). -/
def State.copyJoins (s : State) (w : Who) (l : List Span) : State :=
  { (s.cleanTeam w.g.core w.gid).updGroup w.gid (fun g =>
      { g with eng := { g.eng with openBatch := g.eng.openBatch ++ [⟨s.nextId, .spans l, none, none, false⟩] } })
    with nextId := s.nextId + 1 }

theorem startCopy_joins {s : State} {w : Who} (l : List Span) (hs : s.settled w.gid = true) (hroom : s.copiesOf w.g.core < 64) :
    s.startCopy w none l = .ok ((s.copyJoins w l).advance w) := by
  simp only [State.startCopy, hs, if_neg (Nat.not_le.2 hroom), Bool.not_true, Bool.false_eq_true, if_false]
  rfl

theorem engineForm_outside {s : State} {w : Who} {body : Who → Except Stop State} (h : Issues s w) (ht : w.g.tryR = none) :
    engineForm s body = .next (settle s w (body w)) := by
  rw [engineForm, run_of_issues h, ht]
  rfl

theorem execCpy_nothing {s : State} {w : Who} {x : Args} (h : Issues s w) (ht : w.g.tryR = none)
    (hn : (s.srcS w x.imm x.c).toNat = 0) : execCpy x s = doneIn (s.advance w) := by
  rw [execCpy, engineForm_outside h ht]
  simp only [if_pos hn]
  rfl

theorem execCpy_joins {s : State} {w : Who} {x : Args} (h : Issues s w) (ht : w.g.tryR = none)
    (hn : (s.srcS w x.imm x.c).toNat ≠ 0) (hs : s.settled w.gid = true) (hroom : s.copiesOf w.g.core < 64)
    (hfail : s.copyFail w (s.srcS w x.imm x.a) (s.srcS w x.imm x.c).toNat (s.srcS w x.imm x.b) (s.srcS w x.imm x.c).toNat = none) :
    execCpy x s = doneIn ((s.copyJoins w [⟨s.srcS w x.imm x.a, s.srcS w x.imm x.b, (s.srcS w x.imm x.c).toNat⟩]).advance w) := by
  rw [execCpy, engineForm_outside h ht]
  simp only [if_neg hn, hfail, startCopy_joins _ hs hroom]
  rfl

/-- The rows of a CPY2D: n bytes each, the strides of source and destination in the halves of C (R254). -/
def State.rowsOf (s : State) (w : Who) (x : Args) : List Span :=
  let c := s.srcS w x.imm x.c
  (List.range (x.imm.toNat / 2 ^ 16)).map (rowSpan (s.srcS w x.imm x.a) (s.srcS w x.imm x.b)
    ((BitVec.ofNat 32 (c.toNat / 2 ^ 32)).signExtend 64) ((BitVec.ofNat 32 c.toNat).signExtend 64) (x.imm.toNat % 2 ^ 16))

theorem immField_upper (imm : W32) : immField imm 16 16 = imm.toNat / 2 ^ 16 := by
  have := imm.isLt
  rw [immField_eq_div]
  omega

theorem execCpy2d_nothing {s : State} {w : Who} {x : Args} (h : Issues s w) (ht : w.g.tryR = none)
    (hn : x.imm.toNat / 2 ^ 16 = 0 ∨ x.imm.toNat % 2 ^ 16 = 0) : execCpy2d x s = doneIn (s.advance w) := by
  rw [execCpy2d, engineForm_outside h ht]
  simp only [immField_upper, immField_zero, if_pos hn]
  rfl

theorem execCpy2d_joins {s : State} {w : Who} {x : Args} (h : Issues s w) (ht : w.g.tryR = none)
    (hn : ¬ (x.imm.toNat / 2 ^ 16 = 0 ∨ x.imm.toNat % 2 ^ 16 = 0)) (hs : s.settled w.gid = true)
    (hroom : s.copiesOf w.g.core < 64)
    (hfail : s.copyFail w (envelope ((s.rowsOf w x).map (·.dst)) (x.imm.toNat % 2 ^ 16)).1
      (envelope ((s.rowsOf w x).map (·.dst)) (x.imm.toNat % 2 ^ 16)).2
      (envelope ((s.rowsOf w x).map (·.src)) (x.imm.toNat % 2 ^ 16)).1
      (envelope ((s.rowsOf w x).map (·.src)) (x.imm.toNat % 2 ^ 16)).2 = none) :
    execCpy2d x s = doneIn ((s.copyJoins w (s.rowsOf w x)).advance w) := by
  have upper : (s.srcS w x.imm x.c).extractLsb' 32 32 = BitVec.ofNat 32 ((s.srcS w x.imm x.c).toNat / 2 ^ 32) := by
    rw [BitVec.extractLsb', Nat.shiftRight_eq_div_pow]
  have lower : (s.srcS w x.imm x.c).extractLsb' 0 32 = BitVec.ofNat 32 (s.srcS w x.imm x.c).toNat := rfl
  rw [State.rowsOf] at hfail ⊢
  rw [execCpy2d, engineForm_outside h ht]
  simp only [immField_upper, immField_zero, upper, lower, if_neg hn, hfail, startCopy_joins _ hs hroom]
  rfl

/-! ### Gathers and scatters (R253, R256) -/

def gthWidth : GthFn → Nat
  | .b32 => 4
  | .b64 => 8

/-- The lanes of a gather or scatter, each with its element and its slot. -/
def State.gatherLanes (s : State) (w : Who) (x : Args) (n : Nat) : List (Nat × W64 × W64) :=
  (activeList (w.active x.msk)).map (fun l => (l, s.srcBase w x.a l, s.srcS w x.imm x.b + BitVec.ofNat 64 (n * l)))

/-- A gather or scatter has started, the dirty lines of its team cleaned (R241). -/
def State.gatherStarts (s : State) (w : Who) (scatter : Bool) (n : Nat) (lanes : List (Nat × W64 × W64)) : State :=
  { (s.cleanTeam w.g.core w.gid).updGroup w.gid (fun g =>
      { g with eng := { g.eng.begin_ .gth with gathers := g.eng.gathers ++ [⟨s.nextId, scatter, n, lanes, none⟩] } })
    with nextId := s.nextId + 1 }

theorem gatherForm_starts {s : State} {w : Who} {x : Args} {scatter : Bool} {fn : GthFn} (h : Issues s w)
    (ht : w.g.tryR = none) (hs : s.settled w.gid = true) (hroom : s.gathersOf w.g.core < 16) (hclass : w.g.eng.gth < 255)
    (hfail : s.gatherFail w scatter (gthWidth fn) (s.gatherLanes w x (gthWidth fn)) = none) :
    gatherForm scatter fn x s =
      doneIn ((s.gatherStarts w scatter (gthWidth fn) (s.gatherLanes w x (gthWidth fn))).advance w) := by
  have classRoom : w.g.eng.room .gth = true := by simp [Engines.room, Engines.count, hclass]
  rw [State.gatherLanes] at hfail ⊢
  unfold gatherForm
  rw [engineForm_outside h ht]
  cases fn <;>
  · simp only [gthWidth] at hfail ⊢
    simp only [hfail, hs, if_neg (Nat.not_le.2 hroom), classRoom, Bool.not_true, Bool.false_eq_true, if_false]
    rfl

/-! ### Batches and waits (R199, R243, R244, R255) -/

theorem refusedCopy_eq_none_iff (e : Engines) (n : BitVec 16) : e.refusedCopy n = none ↔
    ∀ q ∈ e.closed, (n - q.1).toNat < 2 ^ 15 → ∀ k ∈ q.2, k.refused = none := by
  simp only [Engines.refusedCopy, List.findSome?_eq_none_iff, List.mem_flatMap, List.mem_filter, atOrBefore, decide_eq_true_eq,
    Option.map_eq_none_iff]
  exact ⟨fun h q hq hn k hk => h k ⟨q, ⟨hq, hn⟩, hk⟩, fun h k ⟨q, ⟨hq, hn⟩, hk⟩ => h q hq hn k hk⟩

theorem pendingBatches_isEmpty_iff (e : Engines) (n : BitVec 16) : (e.pendingBatches n).isEmpty = true ↔
    ∀ q ∈ e.closed, (n - q.1).toNat < 2 ^ 15 → ∀ k ∈ q.2, k.done = false → k.refused ≠ none := by
  simp [Engines.pendingBatches, List.filter_eq_nil_iff, atOrBefore]

/-- Every batch up to n is complete, with no copy refused (R243). -/
def Engines.complete (e : Engines) (n : BitVec 16) : Bool := (e.pendingBatches n).isEmpty && (e.refusedCopy n).isNone

theorem complete_of_done {e : Engines} {n : BitVec 16}
    (h : ∀ q ∈ e.closed, (n - q.1).toNat < 2 ^ 15 → ∀ k ∈ q.2, k.done = true ∧ k.refused = none) : e.complete n = true := by
  rw [Engines.complete, Bool.and_eq_true, Option.isNone_iff_eq_none, pendingBatches_isEmpty_iff, refusedCopy_eq_none_iff]
  exact ⟨fun q hq hn k hk hdone => absurd ((h q hq hn k hk).1.symm.trans hdone) Bool.noConfusion,
    fun q hq hn k hk => (h q hq hn k hk).2⟩

theorem not_complete_of_pending {e : Engines} {n : BitVec 16}
    (h : ∃ q ∈ e.closed, (n - q.1).toNat < 2 ^ 15 ∧ ∃ k ∈ q.2, k.done = false) : e.complete n = false := by
  obtain ⟨q, hq, hn, k, hk, hdone⟩ := h
  rw [← Bool.not_eq_true, Engines.complete, Bool.and_eq_true, Option.isNone_iff_eq_none, pendingBatches_isEmpty_iff,
    refusedCopy_eq_none_iff]
  exact fun hc => hc.1 q hq hn k hk hdone (hc.2 q hq hn k hk)

section

variable {s : State} {w : Who} {x : Args} (h : Issues s w)
include h

/-- BATCH closes the open batch under the next number (R243). -/
theorem execBatch_closes (hp : Passes s w (scalShape x)) (hroom : w.g.eng.closed.length < 32767) :
    execBatch x s = doneIn (((s.updGroup w.gid (fun g =>
      { g with eng := { g.eng with
          batchNo := w.g.eng.batchNo + 1, openBatch := [],
          closed := if (w.g.eng.openBatch.filter (fun c => !c.done)).isEmpty then g.eng.closed
            else g.eng.closed ++ [(w.g.eng.batchNo + 1, w.g.eng.openBatch.filter (fun c => !c.done))] } })).putScalar w (scalShape x)
              ((w.g.eng.batchNo + 1).setWidth 64)).advance w) := by
  have met : w.g.eng.batchMet none = true := decide_eq_true hroom
  refine run_ok h ?_
  simp only [pre_scalShape hp, met, Bool.not_true, Bool.false_eq_true, if_false]
  rfl

theorem execWaitb_done (hc : w.g.eng.complete ((s.srcS w x.imm x.a).setWidth 16) = true) :
    execWaitb x s = doneIn ((s.dropWrote w.gid w.g).advance w) := by
  rw [Engines.complete, Bool.and_eq_true, Option.isNone_iff_eq_none] at hc
  exact run_ok h (by simp only [hc.2, hc.1, if_true])

theorem execWaitbTest_done (hp : Passes s w (scalShape x)) (hc : w.g.eng.complete ((s.srcS w x.imm x.a).setWidth 16) = true) :
    execWaitbTest x s = doneIn (((s.dropWrote w.gid w.g).putScalar w (scalShape x) 1).advance w) := by
  rw [Engines.complete] at hc
  refine run_ok h ?_
  simp only [pre_scalShape hp, hc, if_true]
  rfl

theorem execWaitbTest_pending (hp : Passes s w (scalShape x))
    (hc : w.g.eng.complete ((s.srcS w x.imm x.a).setWidth 16) = false) : execWaitbTest x s = scalarDone s w x 0 := by
  rw [Engines.complete] at hc
  refine run_ok h ?_
  simp only [pre_scalShape hp, hc, Bool.false_eq_true, if_false]
  rfl

theorem execWaitc_done {fn : WaitcFn} (hc : w.g.eng.count fn ≤ x.imm.toNat % 2 ^ 8) (ho : w.g.eng.owed = []) :
    execWaitc fn x s = doneIn ((s.dropWrote w.gid w.g).advance w) := by
  have nothing : w.g.eng.owedTo fn (immField x.imm 0 8) = none := by rw [Engines.owedTo, ho]; rfl
  have ends : s.waitcEnd w fn (immField x.imm 0 8) = some ((s.dropWrote w.gid w.g).advance w) := by
    simp only [State.waitcEnd, nothing]
    exact if_pos (by rw [immField_zero]; exact hc)
  exact run_ok h (by simp only [ends])

end

end Sys2Proof.Machine
end

/-! SUPPORT. How a COLL arrives at a generation of its record (R261, R262); O31 settled. -/

section

namespace Sys2Proof.Machine

open Sys2Proof

/-! ### Pages made known (R383) -/

theorem CacheWork.colls {s t : State} (h : CacheWork s t) : t.colls = s.colls := by
  obtain ⟨_, _, _, rfl⟩ := h; rfl

theorem memWork_noteRange (s : State) (ctx core n a stop : Nat) : MemWork s (s.noteRange ctx core n a stop) := by
  induction n generalizing s a with
  | zero => exact .rfl s
  | succ n ih => exact .ite (.rfl s) ((memWork_noteGva s ctx core a).trans (ih _ _))

theorem translated_noteRange (s : State) (ctx core n a stop : Nat) : Translated s (s.noteRange ctx core n a stop) := by
  induction n generalizing s a with
  | zero => exact .rfl s
  | succ n ih => exact .ite (.rfl s) ((translated_noteGva s ctx core a).trans (ih _ _))

theorem memWork_noteColl (s : State) (g : Group) (o : CollStart) : MemWork s (s.noteColl g o) := by
  have note : ∀ (s : State) (a : W64) (n : Nat), MemWork s (s.noteEngine g a n) := fun s a n =>
    .ite (memWork_noteRange s _ _ _ _ _) (.rfl s)
  exact ((note s _ _).trans (note _ _ _)).trans (note _ _ _)

theorem translated_noteColl (s : State) (g : Group) (o : CollStart) : Translated s (s.noteColl g o) := by
  have note : ∀ (s : State) (a : W64) (n : Nat), Translated s (s.noteEngine g a n) := fun s a n =>
    .ite (translated_noteRange s _ _ _ _ _) (.rfl s)
  exact ((note s _ _).trans (note _ _ _)).trans (note _ _ _)

/-- The state in which a COLL reads its record: its number is taken, the dirty lines of its team are cleaned, and its pages are
known (R241, R262). -/
def State.collReads (s : State) (w : Who) (o : CollStart) : State :=
  (State.cleanTeam { s with nextId := s.nextId + 1 } w.g.core w.gid).noteColl w.g o

theorem collReads_groups (s : State) (w : Who) (o : CollStart) : (s.collReads w o).groups = s.groups :=
  (translated_noteColl _ w.g o).2.1.trans (cacheWork_cleanTeam { s with nextId := s.nextId + 1 } w.g.core w.gid).groups

theorem collReads_colls (s : State) (w : Who) (o : CollStart) : (s.collReads w o).colls = s.colls := by
  obtain ⟨_, _, _, _, _, _, _, h⟩ := memWork_noteColl (State.cleanTeam { s with nextId := s.nextId + 1 } w.g.core w.gid) w.g o
  exact (congrArg State.colls h).trans (cacheWork_cleanTeam { s with nextId := s.nextId + 1 } w.g.core w.gid).colls

/-! ### The generation that is joined (R262) -/

theorem Table.get_of_mem {α : Type} {t : Table α} {k : Nat} {x : α} (hm : (k, x) ∈ t) (hn : (t.map (·.1)).Nodup) :
    t.get k = some x := by
  induction t with
  | nil => cases hm
  | cons e t ih =>
    rw [List.map_cons, List.nodup_cons] at hn
    rw [Table.get]
    rcases List.mem_cons.1 hm with rfl | hm
    · exact if_pos rfl
    · have later : k ≠ e.1 := fun h => hn.1 (h ▸ List.mem_map_of_mem hm)
      rw [if_neg later, ih hm hn.2]

theorem joinable_some {t : Table CollGen} {key : Nat × Nat} {rank k : Nat} (hn : (t.map (·.1)).Nodup)
    (h : joinable t key rank = some k) : ∃ c, t.get k = some c ∧ c.record = key ∧ ∀ a ∈ c.arrivals, a.rank ≠ rank := by
  obtain ⟨⟨j, c⟩, hfind, rfl⟩ := Option.map_eq_some_iff.1 h
  have isOpen := List.find?_some hfind
  simp only [Bool.and_eq_true, beq_iff_eq, Bool.not_eq_true', List.any_eq_false] at isOpen
  exact ⟨c, Table.get_of_mem (List.mem_of_find?_eq_some hfind) hn, isOpen.1, isOpen.2⟩

/-- The arrival stands last in its generation, and no group changes. -/
theorem arriveColl_spec (s : State) (id : Nat) (c : CollGen) (a : Arrival) :
    (s.arriveColl id c a).colls.get id = some { c with arrivals := c.arrivals ++ [a] } ∧
      (s.arriveColl id c a).groups = s.groups := by
  have set := Table.get_set_same s.colls id { c with arrivals := c.arrivals ++ [a] }
  unfold State.arriveColl
  dsimp only
  split <;> exact ⟨set, rfl⟩

theorem readColl_arrives {s : State} {gid : Nat} {g : Group} {o : CollStart} {r l : List Loc}
    (hr : s.engineLocs gid g o.rec_ 64 .store = .ok r) (hpos : 0 < s.homeNat r 0 4) (hmax : s.homeNat r 0 4 ≤ 4096)
    (hroot : s.homeNat r 4 4 < s.homeNat r 0 4) (hrank : o.rank < s.homeNat r 0 4)
    (hdst : s.engineCheck gid g o.dst (collBytes o.fn o.count (s.homeNat r 0 4)) true = none)
    (hl : s.engineLocs gid g o.src (4 * o.count) .load = .ok l)
    (hopen : (s.colls.filter (fun e => e.2.record == recordKey r)).length < 2) (hn : (s.colls.map (·.1)).Nodup) :
    ∃ t id c d, s.readColl gid g o = .arrived t ∧ t.groups = s.groups ∧ t.colls.get id = some c ∧ c.record = recordKey r ∧
      c.arrivals = d ++ [⟨o.rank, gid, o.id, o.dst, s.readWords l⟩] ∧ ∀ e ∈ d, e.rank ≠ o.rank := by
  have inOrder : ¬ (s.homeNat r 0 4 = 0 ∨ 4096 < s.homeNat r 0 4 ∨ s.homeNat r 0 4 ≤ s.homeNat r 4 4 ∨
      s.homeNat r 0 4 ≤ o.rank) := by omega
  have passed := (cacheWork_touch s noCore (r ++ l)).trans (cacheWork_l2Lines _ g.ctx false (linesOf (r ++ l)))
  rw [State.readColl]
  simp only [hr, if_neg inOrder, hdst, hl]
  generalize (s.touch noCore (r ++ l)).l2Lines g.ctx false (linesOf (r ++ l)) = u at passed
  rw [← passed.colls] at hopen hn
  cases hj : joinable u.colls (recordKey r) o.rank with
  | some k =>
    obtain ⟨c, hget, hrec, hranks⟩ := joinable_some hn hj
    obtain ⟨hset, hgroups⟩ := arriveColl_spec u k { c with mixed := c.mixed || c.fn != o.fn || c.count != o.count }
      ⟨o.rank, gid, o.id, o.dst, s.readWords l⟩
    simp only [Option.bind_some, hget, Option.map_some]
    exact ⟨_, k, _, c.arrivals, rfl, hgroups.trans passed.groups, hset, hrec, rfl, hranks⟩
  | none =>
    have room : u.collRoom (recordKey r) o.rank = true := by
      rw [State.collRoom, decide_eq_true hopen, Bool.or_true]
    obtain ⟨hset, hgroups⟩ := arriveColl_spec { u with nextId := u.nextId + 1 } u.nextId
      ⟨recordKey r, s.homeNat r 0 4, s.homeNat r 4 4, o.fn, o.count, [], false⟩ ⟨o.rank, gid, o.id, o.dst, s.readWords l⟩
    simp only [Option.bind_none, room, Bool.not_true, Bool.false_eq_true, if_false]
    exact ⟨_, u.nextId, _, [], rfl, hgroups.trans passed.groups, hset, rfl, rfl, fun _ he => absurd he List.not_mem_nil⟩

/-- A COLL that has arrived in `t` counts in its class and goes on (R199, R262). -/
def State.collGoes (t : State) (w : Who) (o : CollStart) : State := ((t.beginColl w.gid o.id).spoil w).advance w

theorem startColl_arrives {s t : State} {w : Who} {o : CollStart} (hs : s.settled w.gid = true)
    (hr : (s.collReads w o).readColl w.gid w.g o = .arrived t) (hroom : w.g.eng.coll < 255) :
    s.startColl w o = .ok (t.collGoes w o) := by
  have classRoom : w.g.eng.room .coll = true := by simp [Engines.room, Engines.count, hroom]
  rw [State.collReads] at hr
  simp only [State.startColl, hs, hr, classRoom, Bool.not_true, Bool.false_eq_true, if_false]
  rfl

theorem collGoes_spec {t : State} {w : Who} (o : CollStart) (hg : t.groups.get w.gid = some w.g) :
    (t.collGoes w o).colls = t.colls ∧
      ∃ h, (t.collGoes w o).groups.get w.gid = some h ∧ h.eng = w.g.eng.beginColl o.id ∧ h.idem = false := by
  have begun := get_updGroup_same (f := fun g => { g with eng := g.eng.beginColl o.id }) hg
  have disarmed := get_updGroup_same (f := fun g => { g with idem := false }) begun
  exact ⟨rfl, _, goto_get_same (s := (t.beginColl w.gid o.id).spoil w) disarmed _ _, rfl, rfl⟩

theorem execColl_starts {s t : State} {w : Who} {x : Args} {fn : CollFn} {o : CollStart} (h : Issues s w) (htry : w.g.tryR = none)
    (ho : o = ⟨s.nextId, w.fid, fn, s.srcS w x.imm x.a, s.srcS w x.imm x.b, s.srcS w x.imm x.c, x.imm.toNat % 2 ^ 16,
      x.imm.toNat / 2 ^ 16 % 2 ^ 12, none⟩) (halign : o.rec_.toNat % 64 = 0)
    (hrec : s.engineCheck w.gid w.g o.rec_ 64 true = none) (hsrc : s.engineCheck w.gid w.g o.src (4 * o.count) false = none)
    (hdst : s.engineCheck w.gid w.g o.dst (4 * o.count) true = none) (hstart : s.startColl w o = .ok t) :
    execColl fn x s = doneIn t := by
  subst ho
  have aligned : ¬ (s.srcS w x.imm x.a).toNat % 64 ≠ 0 := fun hne => hne halign
  simp only at hrec hsrc hdst
  rw [execColl, engineForm_outside h htry]
  simp only [immField_zero, immField_eq_div x.imm 16 12, hrec, hsrc, hdst, if_neg aligned, toCause, Option.map_none, List.foldl,
    lowerCause]
  exact congrArg (fun e => Host.Outcome.next (settle s w e)) hstart

end Sys2Proof.Machine

namespace Sys2Proof

open Sys2Proof.Machine

/-- Settles O31: each form's checks pass, and it ends as its own lemma says. -/
theorem copyGatherAndCollective : Obligations.CopyGatherAndCollective := by
  constructor
  · intro s w x h a b c joins room
    refine ⟨fun ht => ⟨fun hc => ?_, fun hc hroom ha hb hapart => ?_, ⟨fun hn => ?_, fun hrows hn hroom hfail => ?_⟩,
      fun hs hroom hclass => ?_⟩, fun hp hroom => ?_, ⟨fun hdone => ?_, fun hpend hp => ?_⟩,
      fun fn hc ho => execWaitc_done h hc ho⟩
    · exact execCpy_nothing h ht (by rw [show s.srcS w x.imm x.c = 0 from hc]; rfl)
    · have nonzero : c.toNat ≠ 0 := fun e => hc (BitVec.eq_of_toNat_eq e)
      exact execCpy_joins h ht nonzero hroom.1 hroom.2 (copyFail_eq_none ha hb (sharesByte_eq_false hapart))
    · exact execCpy2d_nothing h ht hn
    · exact execCpy2d_joins h ht (not_or.2 ⟨hrows, hn⟩) hroom.1 hroom.2 hfail
    · exact ⟨fun hf => gatherForm_starts (fn := .b32) h ht hs hroom hclass hf,
        fun hf => gatherForm_starts (fn := .b64) h ht hs hroom hclass hf,
        fun hf => gatherForm_starts (fn := .b32) h ht hs hroom hclass hf,
        fun hf => gatherForm_starts (fn := .b64) h ht hs hroom hclass hf⟩
    · simp only [← List.isEmpty_iff, BitVec.ofNat_toNat]
      exact execBatch_closes h hp hroom
    · rw [BitVec.ofNat_toNat] at hdone
      exact ⟨execWaitb_done h (complete_of_done hdone), fun hp => execWaitbTest_done h hp (complete_of_done hdone)⟩
    · rw [BitVec.ofNat_toNat] at hpend
      exact execWaitbTest_pending h hp (not_complete_of_pending hpend)
  · intro s w x fn r l h htry rec_ src dst count rank s1 npart root hs halign hrec hsrc hdst hall hr hpos hmax hroot hrank hl
      hclass hopen hnodup
    let o : CollStart := ⟨s.nextId, w.fid, fn, rec_, src, dst, count, rank, none⟩
    have colls : s1.colls = s.colls := collReads_colls s w o
    obtain ⟨t, id, c, d, hread, hgroups, hget, hkey, harrivals, hranks⟩ := readColl_arrives (o := o) hr hpos hmax hroot hrank
      hall hl (by rw [colls]; exact hopen) (by rw [colls]; exact hnodup)
    have stays : t.groups.get w.gid = some w.g := by
      rw [hgroups, show s1.groups = s.groups from collReads_groups s w o, Issues.group h]
    obtain ⟨hcolls, g, hg, heng, hidem⟩ := collGoes_spec o stays
    refine ⟨(t.collGoes w o).endIssue, g, id, c, d, execColl_starts h htry rfl halign hrec hsrc hdst
      (startColl_arrives hs hread hclass), hg, by rw [heng]; rfl, (congrArg (·.get id) hcolls).trans hget, hkey, harrivals,
      hranks, by rw [heng]; rfl, hidem⟩

end Sys2Proof
end

/-! SUPPORT. RDMA operations, held operations, gated domains and the reload of the command processor (R246, R294-R296, R383, R459,
R466); O56 settled. -/

section

namespace Sys2Proof.Machine

open Sys2Proof

/-! ### RDMA (R246, R296) -/

/-- The state in which a request from outside is looked at: no request that had waited is being resumed. -/
def State.arrived (s : State) : State := { s with fe := { s.fe with resuming := false } }

section Rdma

variable {s : State} {peer : RdmaPeer} {addr : W64} {n ctx : Nat} {need : Need} {c : Ctx} (i : Instr)
  (body : State → Nat → List Loc → State)

/-- What becomes of an RDMA operation that reaches its VI: its window, then its queue pair, then the places of its bytes. -/
theorem rdma_of_vi (hvi : s.viCtx peer.vi = some (ctx, c)) (hup : s.mode = .up) (hvlan : c.onVlan peer.frame = true) :
    s.rdma i peer addr n need body =
      if c.inWindow addr.toNat n = false then s.arrived.rdmaResult peer.vi rdmaAccessError addr []
      else if s.fe.replay.any (onPair peer.vi) = true then s.arrived.replayRdma i peer.vi addr
      else if s.fe.resuming = false ∧ s.fe.hostHeld.any (fun h => onPair peer.vi h.2.2) = true then s.arrived.holdRdma i false
      else
        match s.arrived.feLocs ctx addr.toNat n need with
        | .error (g, f) => (s.arrived.feMiss ctx g f none).holdRdma i s.fe.resuming
        | .ok l =>
          match s.arrived.gatedDie ctx l with
          | some d => (s.arrived.replayRdma i peer.vi addr).push (.gatedDomainWake (dieDomain d))
          | none => body s.arrived ctx l := by
  have hvi' : s.arrived.viCtx peer.vi = some (ctx, c) := hvi
  have hnot : ¬ (s.arrived.mode ≠ .up ∨ (!c.onVlan peer.frame) = true) := by simp [hvlan, State.arrived, hup]
  unfold State.rdma
  change (match s.arrived.viCtx peer.vi with | none => _ | some (ctx, c) => _) = _
  simp only [hvi']
  refine (if_neg hnot).trans ?_
  simp only [Bool.not_eq_true']
  rfl

variable (hvi : s.viCtx peer.vi = some (ctx, c)) (hup : s.mode = .up) (hvlan : c.onVlan peer.frame = true)

include hvi hup hvlan

theorem rdma_outside_window (hwin : c.inWindow addr.toNat n = false) :
    s.rdma i peer addr n need body = s.arrived.rdmaResult peer.vi rdmaAccessError addr [] := by
  rw [rdma_of_vi i body hvi hup hvlan, if_pos hwin]

variable (hwin : c.inWindow addr.toNat n = true) (hreplay : s.fe.replay.any (onPair peer.vi) = false)

include hwin hreplay

/-- An operation that the host posted after held ones of its queue pair is held behind them. -/
theorem rdma_behind_held (hnew : s.fe.resuming = false) (hheld : s.fe.hostHeld.any (fun h => onPair peer.vi h.2.2) = true) :
    s.rdma i peer addr n need body = s.arrived.holdRdma i false := by
  rw [rdma_of_vi i body hvi hup hvlan, if_neg (by simp [hwin]), if_neg (by simp [hreplay]), if_pos ⟨hnew, hheld⟩]

/-- An operation that nothing of its queue pair stands before is performed where its bytes lie. -/
theorem rdma_performed {l : List Loc}
    (hheld : s.fe.resuming = false → s.fe.hostHeld.any (fun h => onPair peer.vi h.2.2) = false)
    (hlocs : s.arrived.feLocs ctx addr.toNat n need = .ok l) (hgate : s.arrived.gatedDie ctx l = none) :
    s.rdma i peer addr n need body = body s.arrived ctx l := by
  rw [rdma_of_vi i body hvi hup hvlan, if_neg (by simp [hwin]), if_neg (by simp [hreplay]),
    if_neg (fun h => by simp [hheld h.1] at h)]
  simp only [hlocs, hgate]

end Rdma

/-! ### Held operations and their NAKs (R246, R383) -/

@[simp] theorem rdmaResult_mem (s : State) (vi kind : Nat) (addr : W64) (data : List Byte) :
    (s.rdmaResult vi kind addr data).mem = s.mem := by
  unfold State.rdmaResult
  split <;> rfl

@[simp] theorem rdmaResult_mode (s : State) (vi kind : Nat) (addr : W64) (data : List Byte) :
    (s.rdmaResult vi kind addr data).mode = s.mode := by
  unfold State.rdmaResult
  split <;> rfl

@[simp] theorem rdmaResult_hostHeld (s : State) (vi kind : Nat) (addr : W64) (data : List Byte) :
    (s.rdmaResult vi kind addr data).fe.hostHeld = s.fe.hostHeld := by
  unfold State.rdmaResult
  split <;> rfl

/-- In the safe state a VI sends nothing (R469). -/
theorem rdmaResult_out (s : State) (vi kind : Nat) (addr : W64) (data : List Byte) :
    (s.rdmaResult vi kind addr data).fe.out = s.fe.out ++ if s.mode = .up then [⟨kind, vi, 0, 0, addr, data⟩] else [] := by
  unfold State.rdmaResult
  split
  · rfl
  · exact (List.append_nil _).symm

/-- What the NAKs of a list of held operations leave: memory as it was, those of the pair held no more, and each answered. -/
theorem nakHeld_spec (s : State) (vi : Nat) (l : List (Nat × W64 × Instr)) :
    (s.nakHeld vi l).mem = s.mem ∧
    (s.nakHeld vi l).fe.hostHeld = s.fe.hostHeld.filter (fun x => !l.any (fun h => onPair vi h.2.2 && h.1 == x.1)) ∧
    s.fe.out ⊆ (s.nakHeld vi l).fe.out ∧
    (s.mode = .up → ∀ h ∈ l, ∀ a n, rdmaTarget h.2.2 = some (vi, a, n) →
      ⟨rdmaNak, vi, 0, 0, a, []⟩ ∈ (s.nakHeld vi l).fe.out) := by
  induction l generalizing s with
  | nil => exact ⟨rfl, by simp [State.nakHeld], fun _ => id, by simp⟩
  | cons h l ih =>
    cases hp : onPair vi h.2.2 with
    | false =>
      have hstep : s.nakHeld vi (h :: l) = s.nakHeld vi l := by simp [State.nakHeld, hp]
      obtain ⟨hmem, hheld, hout, hnak⟩ := ih s
      rw [hstep]
      refine ⟨hmem, by simpa [hp] using hheld, hout, fun hup x hx a n htgt => ?_⟩
      rcases List.mem_cons.1 hx with rfl | hx
      · simp [onPair, htgt] at hp
      · exact hnak hup x hx a n htgt
    | true =>
      obtain ⟨⟨v, a, n⟩, htgt, -⟩ : ∃ t, rdmaTarget h.2.2 = some t ∧ (t.1 == vi) = true := by
        simpa [onPair, Option.any_eq_true] using hp
      have hstep : s.nakHeld vi (h :: l) = ((s.dropHeld h.1).rdmaResult vi rdmaNak a []).nakHeld vi l := by
        simp [State.nakHeld, hp, htgt]
      obtain ⟨hmem, hheld, hout, hnak⟩ := ih ((s.dropHeld h.1).rdmaResult vi rdmaNak a [])
      rw [rdmaResult_out] at hout
      rw [hstep]
      refine ⟨hmem.trans (rdmaResult_mem _ _ _ _ _), ?_, fun m hm => hout (List.mem_append_left _ hm), fun hup x hx b m htgt' => ?_⟩
      · rw [hheld, rdmaResult_hostHeld]
        simp only [State.dropHeld, List.filter_filter, List.any_cons, hp, Bool.true_and, Bool.not_or, bne, Bool.and_comm,
          BEq.comm]
      · rcases List.mem_cons.1 hx with rfl | hx
        · obtain ⟨rfl, rfl, rfl⟩ : v = vi ∧ a = b ∧ n = m := by simpa [htgt] using htgt'
          exact hout (List.mem_append_right _ (by simp [State.dropHeld, hup]))
        · exact hnak ((rdmaResult_mode _ _ _ _ _).trans hup) x hx b m htgt'

/-- An operation stays held where none that the NAKs take away has its number. -/
theorem mem_nakHeld_hostHeld (s : State) (vi : Nat) (l : List (Nat × W64 × Instr)) (x : Nat × W64 × Instr) :
    x ∈ (s.nakHeld vi l).fe.hostHeld ↔ x ∈ s.fe.hostHeld ∧ ∀ h ∈ l, onPair vi h.2.2 = true → h.1 ≠ x.1 := by
  rw [(nakHeld_spec s vi l).2.1]
  simp

theorem exec_hostRdmaHoldExpiry {s : State} {k : Nat} {since : W64} {i : Instr} {vi n : Nat} {a : W64}
    (hfind : s.fe.hostHeld.find? (fun h => h.1 == k) = some (k, since, i)) (htgt : rdmaTarget i = some (vi, a, n))
    (hlong : 1800000 ≤ (s.clock - since).toNat) : exec (.hostRdmaHoldExpiry k) s =
      .next (s.nakHeld vi (s.fe.hostHeld.dropWhile (fun h => h.1 != k))) := by
  change execHostRdmaHoldExpiry k s = _
  simp only [execHostRdmaHoldExpiry, hfind, htgt]
  rw [if_pos (show oneMs ≤ _ from hlong)]

/-! ### Gated domains (R294) -/

theorem replayFor_hostHeld (s : State) (die : Bool) : (s.replayFor die).fe.hostHeld.map (fun h => h.2.2) =
    s.fe.replay.filter (fun i => waitsForDie i == die) ++ s.fe.hostHeld.map (fun h => h.2.2) := by
  simp only [State.replayFor, List.map_append, List.map_map]
  congr 1
  exact List.zipIdx_map_fst 0 _

theorem lineUp_eq (s : State) (vq : Nat) : ∃ w, s.lineUp vq = { s with fe := { s.fe with waiting := w } } := by
  unfold State.lineUp
  split
  · exact ⟨s.fe.waiting, rfl⟩
  · exact ⟨_, rfl⟩

/-- Queues that are looked at again for a lane change nothing but the list of those that wait for one. -/
theorem lineUpAll_eq (s : State) : ∃ w, s.lineUpAll = { s with fe := { s.fe with waiting := w } } := by
  unfold State.lineUpAll
  generalize s.fe.queues.map (·.1) = l
  induction l generalizing s with
  | nil => exact ⟨s.fe.waiting, rfl⟩
  | cons vq l ih =>
    obtain ⟨w, hw⟩ := lineUp_eq s vq
    obtain ⟨v, hv⟩ := ih (s.lineUp vq)
    exact ⟨v, by rw [List.foldl_cons, hv, hw]⟩

theorem flushDie_dies (s : State) (die : Nat) : (s.flushDie die).dies = s.dies := by
  obtain ⟨_, _, _, h⟩ := cacheWork_foldl (s.coresOf die) (fun s c => s.flushCore c (fun _ => true))
    (fun s c => cacheWork_flushCore s c _) s
  exact (congrArg State.dies h :)

theorem exec_gatedDomainWake_cp {s : State} (h : s.fe.cpGated = true) : exec (.gatedDomainWake 0) s =
    .next (State.replayFor { s with fe := { s.fe with cpGated := false } } false) := by
  change execGatedDomainWake 0 s = _
  rw [execGatedDomainWake, if_pos (show 0 = cpDomain from rfl), if_pos h]

theorem exec_gatedDomainWake_die {s : State} {k : Nat} {d : Die} (hd : s.dies.get k = some d) (h : d.gated = true) :
    exec (.gatedDomainWake (k + 1)) s = .next ((s.updDie k (fun d => { d with gated := false })).replayFor true) := by
  change execGatedDomainWake (k + 1) s = _
  rw [execGatedDomainWake, if_neg (show k + 1 ≠ cpDomain from Nat.succ_ne_zero k)]
  simp only [Nat.add_sub_cancel, hd, h, if_true]

/-- The package with its command processor gated and no queue on a lane. -/
def State.cpOff (s : State) : State :=
  { s with fe := { s.fe with cpGated := true, queues := s.fe.queues.map (fun (e : Nat × Queue) =>
      (e.1, { e.2 with lane := none })) } }

theorem exec_powerGating_cp {s : State} (hup : s.mode = .up) : exec (.powerGating 0) s = .next s.cpOff.lineUpAll := by
  change execPowerGating 0 s = _
  rw [execPowerGating, if_neg (by simp [hup]), if_pos (show 0 = cpDomain from rfl), State.cpOff]

theorem exec_powerGating_die {s : State} {k : Nat} (hup : s.mode = .up) (hfree : ∀ e ∈ s.ctxs, e.2.holdsOn k = false) :
    exec (.powerGating (k + 1)) s = .next ((s.flushDie k).updDie k (fun d => { d with gated := true })) := by
  change execPowerGating (k + 1) s = _
  rw [execPowerGating, if_neg (by simp [hup]), if_neg (show k + 1 ≠ cpDomain from Nat.succ_ne_zero k), Nat.add_sub_cancel,
    if_neg (by simpa using hfree)]

/-! ### The reload of the command processor (R466) -/

/-- A queue off its lane, with HEAD, TAIL and COMPL as they were. -/
def Queue.Reloaded (q u : Queue) : Prop :=
  u.lane = none ∧ u.en = q.en ∧ u.head = q.head ∧ u.tail = q.tail ∧ u.compl = q.compl

theorem Queue.Reloaded.trans {q u v : Queue} (h : q.Reloaded u) (k : u.Reloaded v) : q.Reloaded v := by
  obtain ⟨-, hen, hhead, htail, hcompl⟩ := h
  obtain ⟨klane, ken, khead, ktail, kcompl⟩ := k
  exact ⟨klane, ken.trans hen, khead.trans hhead, ktail.trans htail, kcompl.trans hcompl⟩

/-- One entry of the table is rebuilt, and no context changes. -/
theorem rebuildQueue_ctxs (s : State) (vq : Nat) : (s.rebuildQueue vq).ctxs = s.ctxs := by
  unfold State.rebuildQueue
  split
  · dsimp only
    split
    · rfl
    · split <;> rfl
  · rfl

theorem rebuildQueue_get_ne (s : State) {vq k : Nat} (h : k ≠ vq) :
    (s.rebuildQueue vq).fe.queues.get k = s.fe.queues.get k := by
  unfold State.rebuildQueue
  split
  · dsimp only
    split
    · exact Table.get_set_ne _ _ _ _ h
    · split <;> exact Table.get_set_ne _ _ _ _ h
  · rfl

theorem rebuildQueue_get_same {s : State} {vq : Nat} {q : Queue} (hq : s.fe.queues.get vq = some q)
    (hb : (s.blockOf vq).isSome = true) : ∃ u, (s.rebuildQueue vq).fe.queues.get vq = some u ∧ q.Reloaded u := by
  obtain ⟨⟨ctx, a⟩, hblock⟩ := Option.isSome_iff_exists.1 hb
  have set : ∀ u : Queue, (s.setQueue vq u).fe.queues.get vq = some u := fun u => Table.get_set_same _ _ _
  unfold State.rebuildQueue
  simp only [hq, hblock]
  split
  · exact ⟨_, set _, rfl, rfl, rfl, rfl, rfl⟩
  · split
    · exact ⟨_, set _, rfl, rfl, rfl, rfl, rfl⟩
    · exact ⟨_, set _, rfl, rfl, rfl, rfl, rfl⟩

/-- A queue whose control block is known is rebuilt with the others, in any order. -/
theorem foldl_rebuildQueue_get (l : List Nat) {s : State} {vq : Nat} {q : Queue} (hq : s.fe.queues.get vq = some q)
    (hb : (s.blockOf vq).isSome = true) : ∃ u, (l.foldl State.rebuildQueue s).fe.queues.get vq = some u ∧
      (vq ∈ l → q.Reloaded u) ∧ (vq ∉ l → u = q) := by
  induction l generalizing s q with
  | nil => exact ⟨q, hq, by simp, by simp⟩
  | cons k l ih =>
    have hb' : ((s.rebuildQueue k).blockOf vq).isSome = true := by
      simpa only [State.blockOf, State.viCtx, rebuildQueue_ctxs] using hb
    by_cases hk : vq = k
    · subst hk
      obtain ⟨u, hu, hqu⟩ := rebuildQueue_get_same hq hb
      obtain ⟨v, hv, hin, hout⟩ := ih hu hb'
      refine ⟨v, hv, fun _ => ?_, fun h => absurd List.mem_cons_self h⟩
      by_cases hl : vq ∈ l
      · exact hqu.trans (hin hl)
      · exact hout hl ▸ hqu
    · obtain ⟨v, hv, hin, hout⟩ := ih ((rebuildQueue_get_ne s hk).trans hq) hb'
      exact ⟨v, hv, fun h => hin ((List.mem_cons.1 h).resolve_left hk), fun h => hout (fun hl => h (List.mem_cons_of_mem _ hl))⟩

theorem foldl_relcntUp_fe (l : List Nat) (s : State) : (l.foldl State.relcntUp s).fe = s.fe := by
  induction l generalizing s with
  | nil => rfl
  | cons k l ih => exact ih (s.relcntUp k)

theorem Table.key_mem_of_get {α : Type} {t : Table α} {k : Nat} {x : α} (h : t.get k = some x) : k ∈ t.map (·.1) :=
  List.mem_map.2 ⟨(k, x), Table.mem_of_get h, rfl⟩

end Sys2Proof.Machine

namespace Sys2Proof

open Sys2Proof.Machine

/-- Settles O56: an RDMA operation by what stands before it and where its bytes lie, a NAK by the held operations that it takes
away, a wake by what the replay buffer held, a reload queue by queue. -/
theorem rdmaAndDomains : Obligations.RdmaAndDomains := by
  intro s fr vi ctx c a
  refine ⟨fun hvi hup hvlan => ⟨fun hreplay hheld => ⟨fun data l hwin hlocs hgate => ?_, fun n l hwin hlocs hgate => ?_⟩,
    fun hreplay hnew hheld n hwin => ?_, fun data n hd hn => ⟨?_, ?_⟩, ?_⟩, fun hvi hvlan => ?_, fun k since n hfind hlong => ?_,
    fun hgated => ?_, fun k d hd hgated => ?_, fun hup => ⟨?_, fun k d hd hfree => ?_⟩, ?_⟩
  · exact congrArg _ (rdma_performed (peer := ⟨fr, vi⟩) _ _ hvi hup hvlan hwin hreplay hheld hlocs hgate)
  · exact congrArg _ (rdma_performed (peer := ⟨fr, vi⟩) _ _ hvi hup hvlan hwin hreplay hheld hlocs hgate)
  · exact congrArg _ (rdma_behind_held (peer := ⟨fr, vi⟩) _ _ hvi hup hvlan hwin hreplay hnew hheld)
  · exact congrArg _ (rdma_outside_window (peer := ⟨fr, vi⟩) _ _ hvi hup hvlan hd)
  · exact congrArg _ (rdma_outside_window (peer := ⟨fr, vi⟩) _ _ hvi hup hvlan hn)
  · exact congrArg _ (if_pos ⟨hup, by simp [hvi, hvlan]⟩)
  · exact congrArg _ (if_neg (fun h => by simp [hvi, hvlan] at h))
  · obtain ⟨hmem, -, -, hnak⟩ := nakHeld_spec s vi (s.fe.hostHeld.dropWhile (fun h => h.1 != k))
    have hin := mem_nakHeld_hostHeld s vi (s.fe.hostHeld.dropWhile (fun h => h.1 != k))
    refine ⟨exec_hostRdmaHoldExpiry hfind rfl hlong, hmem, fun h hh hp x hx e => ((hin x).1 hx).2 h hh hp e.symm,
      fun x hx hp hid => (hin x).2 ⟨hx, fun h hh hph e => ?_⟩,
      fun hup => hnak hup (k, since, .rdmaRead ⟨fr, vi⟩ a n) ?_ a n rfl⟩
    · rw [hid h hh e, hp] at hph
      cases hph
    · rw [List.find?_eq_head?_dropWhile_not] at hfind
      exact List.mem_of_head? hfind
  · refine ⟨_, exec_gatedDomainWake_cp hgated, rfl, (replayFor_hostHeld _ false).trans (by simp [waitsForDie]), ?_⟩
    simp [State.replayFor, waitsForDie]
  · refine ⟨_, exec_gatedDomainWake_die hd hgated, ?_, (replayFor_hostHeld _ true).trans (by simp [waitsForDie])⟩
    simp [State.replayFor, Table.get_upd_same, hd]
  · obtain ⟨w, hw⟩ := lineUpAll_eq s.cpOff
    refine ⟨_, exec_powerGating_cp hup, by rw [hw]; rfl, fun e he => ?_⟩
    rw [hw] at he
    obtain ⟨x, -, rfl⟩ := List.mem_map.1 he
    rfl
  · refine ⟨_, { d with gated := true }, exec_powerGating_die hup hfree, ?_, rfl⟩
    rw [State.updDie_dies, Table.get_upd_same, flushDie_dies, hd, Option.map_some]
  · refine ⟨_, rfl, fun vq q hq hb => ?_⟩
    obtain ⟨u, hu, hin, -⟩ := foldl_rebuildQueue_get (s.fe.queues.map (·.1)) hq hb
    obtain ⟨w, hw⟩ := lineUpAll_eq (s.delayedCtxs.foldl State.relcntUp ((s.fe.queues.map (·.1)).foldl State.rebuildQueue s))
    obtain ⟨hlane, hen, hhead, htail, hcompl⟩ := hin (Table.key_mem_of_get hq)
    refine ⟨u, ?_, hlane, hen, hhead, htail, hcompl⟩
    rw [hw]
    exact (congrArg (fun fe : FrontEnd => fe.queues.get vq) (foldl_relcntUp_fe _ _)).trans hu

end Sys2Proof
end

/-! SUPPORT. What the events of the engines do where nothing is missing, and what an engine's progress leaves of a group's gathers
(R243, R250, R254-R259, R262, R266, R320); O50 settled. -/

section

namespace Sys2Proof.Machine

open Sys2Proof

/-! ### A pass over copies -/

/-- A pass whose live copies all have their pages moves what they move, in their order, and marks them alone. -/
theorem copyPass_of_mapped (s : State) (gid : Nat) (g : Group) (mv : CopyOp → List Moving) (l : List CopyOp)
    (h : ∀ c ∈ l.filter (s.copyLive g), s.copyMoves gid g c = .ok (mv c)) :
    s.copyPass gid g l = ⟨(l.filter (s.copyLive g)).flatMap mv, (l.filter (s.copyLive g)).map (·.id), [], []⟩ := by
  induction l with
  | nil => rfl
  | cons c l ih =>
    unfold State.copyPass
    by_cases live : s.copyLive g c = true
    · rw [List.filter_cons_of_pos live] at h ⊢
      simp [ih fun x hx => h x (List.mem_cons_of_mem _ hx), live, h c List.mem_cons_self]
    · rw [List.filter_cons_of_neg live] at h ⊢
      simp [ih h, live]

theorem execCopyBatchComplete_of_mapped {s : State} {gid n : Nat} {g : Group} {mv : CopyOp → List Moving}
    (hg : s.groups.get gid = some g) (hc : s.onCore g = true) :
    let s' := (g.eng.batch n).foldl (fun t c => t.noteCopy g c) s
    let l := (g.eng.batch n).filter (s'.copyLive g)
    (∀ c ∈ l, s'.copyMoves gid g c = .ok (mv c)) →
    execCopyBatchComplete gid n s = .next (((s'.moveAll gid g (l.flatMap mv)).updGroup gid (fun x =>
      { x with eng := x.eng.markCopies (fun c =>
          if (l.map (·.id)).contains c.id then { c with done := true, held := none } else c) })).engineMoved gid) := by
  intro s' l h
  have pass := copyPass_of_mapped s' gid g mv (g.eng.batch n) h
  simp only [execCopyBatchComplete, hg, State.enginesRun, hc, if_true]
  rw [pass]
  rfl

/-! ### Collectives whose destinations are mapped -/

/-- A generation whose destinations are all mapped, and whose sums come in no open order. -/
theorem finishColl_of_mapped {s : State} (id : Nat) {c : CollGen} {x : Arrival} {rest : List Arrival} {g : Group}
    {mv : Arrival → List Moving} (harr : c.arrivals = x :: rest) (hg : s.groups.get x.gid = some g) (hmixed : c.mixed = false)
    (hfn : c.fn ≠ .fsum) (hdst : ∀ a ∈ c.arrivals, s.collDst a.gid a.dst (s.collResult c) = .ready (mv a)) :
    s.finishColl id c =
      let moves := c.arrivals.map (fun a => (a.gid, (mv a).map (fun m => { m with op := a.op })))
      let s0 := c.arrivals.foldl (fun u a => u.noteResult a.gid a.dst (s.collResult c).length) s
      let gen : List Moving := [{ src := .bytes [] false, dst := c.genLocs }]
      let t : State := (c.arrivals.foldl (fun t a => t.noteWrote a.gid gen) (moves.foldl (fun t y => t.noteWrote y.1 y.2)
        (s0.moveWords g.core g.ctx x.gid (moves.flatMap (·.2))))).genUp c x.gid g
      (c.arrivals.foldl (fun (t : State) a => t.endArrival c (s.collResult c) a) { t with colls := t.colls.del id }).wakeColls := by
  rw [harr] at hdst
  simp only [State.finishColl, harr, hg, hmixed, hfn, if_false, Bool.false_eq_true]
  rw [List.filterMap_eq_map_iff_forall_eq_some (g := fun a => (a.gid, (mv a).map (fun m => { m with op := a.op }))).2]
  intro a ha
  rw [hdst a ha]

/-! ### What an engine's progress leaves of a group's gathers -/

/-- The group's gathers, their counter and its owed causes stand. -/
def SameGathers (gid : Nat) (s t : State) : Prop :=
  ∀ g, s.groups.get gid = some g → ∃ h, t.groups.get gid = some h ∧
    h.eng.gathers = g.eng.gathers ∧ h.eng.gth = g.eng.gth ∧ h.eng.owed = g.eng.owed

theorem sameGathers_of_eq {gid : Nat} {s t : State} (h : t.groups = s.groups) : SameGathers gid s t :=
  fun g hg => ⟨g, by rw [h, hg], rfl, rfl, rfl⟩

theorem SameGathers.trans {gid : Nat} {s t u : State} (h : SameGathers gid s t) (k : SameGathers gid t u) :
    SameGathers gid s u := by
  intro g hg
  obtain ⟨x, hx, gathers, gth, owed⟩ := h g hg
  obtain ⟨y, hy, gathers', gth', owed'⟩ := k x hx
  exact ⟨y, hy, gathers'.trans gathers, gth'.trans gth, owed'.trans owed⟩

theorem SameGathers.ite {gid : Nat} {c : Prop} {d : Decidable c} {s t u : State} (ht : SameGathers gid s t)
    (hu : SameGathers gid s u) : SameGathers gid s (if c then t else u) := by
  split
  · exact ht
  · exact hu

theorem sameGathers_foldl {α : Type} {gid : Nat} (l : List α) {f : State → α → State}
    (hf : ∀ s a, SameGathers gid s (f s a)) (s : State) : SameGathers gid s (l.foldl f s) := by
  induction l generalizing s with
  | nil => exact sameGathers_of_eq rfl
  | cons a l ih => exact (hf s a).trans (ih _)

theorem sameGathers_updGroup {gid : Nat} (s : State) (k : Nat) (f : Group → Group)
    (hf : ∀ g, (f g).eng.gathers = g.eng.gathers ∧ (f g).eng.gth = g.eng.gth ∧ (f g).eng.owed = g.eng.owed) :
    SameGathers gid s (s.updGroup k f) := by
  intro g hg
  by_cases hk : gid = k
  · subst hk
    exact ⟨f g, get_updGroup_same hg, hf g⟩
  · exact ⟨g, (Table.get_upd_ne _ _ _ _ hk).trans hg, rfl, rfl, rfl⟩

theorem groups_cleanTeam (s : State) (core gid : Nat) : (s.cleanTeam core gid).groups = s.groups := by
  obtain ⟨m, c, d, h⟩ := cacheWork_cleanTeam s core gid
  rw [h]

theorem sameGathers_accept (k : Nat) (s : State) (gid : Nat) (g : Group) (cm : Consumers) (o : Owing) :
    SameGathers k s (s.accept gid g cm o) := by
  have stands : ∀ u : State, SameGathers k u u := fun _ => sameGathers_of_eq rfl
  have put : ∀ (u t v : State) (f : Group → Group), t.groups = u.groups → v.groups = (t.updGroup gid f).groups →
      (∀ g, (f g).eng.gathers = g.eng.gathers ∧ (f g).eng.gth = g.eng.gth ∧ (f g).eng.owed = g.eng.owed) →
      SameGathers k u v := fun u t v f ht hv hf =>
    ((sameGathers_of_eq ht).trans (sameGathers_updGroup t gid f hf)).trans (sameGathers_of_eq hv)
  unfold State.accept
  refine SameGathers.trans ?_ (.ite (put _ (State.cleanTeam _ g.core gid) _ _ (groups_cleanTeam _ _ _) rfl
    fun _ => ⟨rfl, rfl, rfl⟩) (stands _))
  refine SameGathers.trans ?_ (.ite ?_ (stands _))
  · refine SameGathers.trans ?_ (.ite (put _ (State.cleanTeam _ g.core gid) _ _ (groups_cleanTeam _ _ _) rfl
      fun _ => ⟨rfl, rfl, rfl⟩) (stands _))
    exact .ite (put _ s _ _ rfl rfl fun _ => ⟨rfl, rfl, rfl⟩) (stands _)
  · have joined := fun (u v : State) (f : Cluster → Cluster) (op : Nat) (hv) =>
      put u (u.updCluster (clusterNo g.core) f) v (fun x => { x with eng := x.eng.beginColl op }) rfl hv
        fun _ => ⟨rfl, rfl, rfl⟩
    exact .ite (joined _ _ _ _ rfl) (joined _ _ _ _ rfl)

theorem sameGathers_offer (k : Nat) (s : State) (gid : Nat) (o : Owing) : SameGathers k s (s.offer gid o) := by
  unfold State.offer
  split
  · exact sameGathers_of_eq rfl
  · exact .ite ((sameGathers_accept k s gid _ _ o).trans (sameGathers_updGroup _ gid _ fun _ => ⟨rfl, rfl, rfl⟩))
      (sameGathers_accept k s gid _ _ o)

theorem sameGathers_offerOwed (k : Nat) (s : State) (gid : Nat) : SameGathers k s (s.offerOwed gid) := by
  unfold State.offerOwed
  split
  · exact sameGathers_of_eq rfl
  · refine (sameGathers_updGroup s gid _ ?_).trans (sameGathers_foldl _ (fun s o => sameGathers_offer k s gid o) _)
    exact fun _ => ⟨rfl, rfl, rfl⟩

/-- Memory stands, and the group's gathers too. -/
def Awakes (gid : Nat) (s t : State) : Prop := t.mem = s.mem ∧ SameGathers gid s t

theorem Awakes.trans {gid : Nat} {s t u : State} (h : Awakes gid s t) (k : Awakes gid t u) : Awakes gid s u :=
  ⟨k.1.trans h.1, h.2.trans k.2⟩

theorem awakes_push (gid : Nat) (s : State) (i : Instr) : Awakes gid s (s.push i) := ⟨rfl, sameGathers_of_eq rfl⟩

theorem awakes_wake (gid : Nat) (s : State) (k f : Nat) : Awakes gid s (s.wake k f) :=
  ⟨rfl, sameGathers_updGroup s k _ fun _ => ⟨rfl, rfl, rfl⟩⟩

theorem awakes_foldl {α : Type} {gid : Nat} (f : State → α → State) (hf : ∀ s a, Awakes gid s (f s a)) (s : State) (l : List α) :
    Awakes gid s (l.foldl f s) := by
  induction l generalizing s with
  | nil => exact ⟨rfl, sameGathers_of_eq rfl⟩
  | cons a l ih => exact (hf s a).trans (ih _)

/-- Past what results owe, an engine's progress only lets fragments look again. -/
theorem awakes_engineMoved (k : Nat) {s : State} {gid : Nat} {g : Group} (hg : s.groups.get gid = some g) :
    Awakes k (s.offerOwed gid) (s.engineMoved gid) := by
  simp only [State.engineMoved, hg]
  have woken := fun p => awakes_foldl (gid := k) (fun s (x : Nat × Nat) => s.wake x.1 x.2) (fun s _ => awakes_wake k s _ _)
    (s.offerOwed gid) p
  have pushed := fun u => awakes_foldl (gid := k) (fun s (f : Frag) => s.push (.waitcSatisfied gid f.id))
    (fun s _ => awakes_push k s _) u
  have moved := fun p l => (woken p).trans (pushed _ l)
  split
  · exact (moved _ _).trans (awakes_push k _ _)
  · exact moved _ _

theorem mem_offerOwed_of_nil {s : State} {gid : Nat} {g : Group} (hg : s.groups.get gid = some g) (h : g.owing = []) :
    (s.offerOwed gid).mem = s.mem := by
  simp only [State.offerOwed, hg, h, List.foldl_nil, State.updGroup_mem]

/-! ### A refused gather -/

theorem refuseEngine_gather {s : State} {gid : Nat} {g : Group} {o : GatherOp} {code : Nat} {a : W64}
    (hg : s.groups.get gid = some g) (ho : g.eng.gathers = [o]) (hc : ∀ c ∈ g.eng.copies, c.id ≠ o.id) :
    s.refuseEngine gid o.id code a =
      (s.updGroup gid (fun x => { x with eng := { g.eng with gathers := [] } })).endOwing gid .gth code (some a) := by
  have noCopy : g.eng.copies.any (fun c => c.id == o.id && !c.done && c.refused.isNone) = false :=
    List.any_eq_false.2 fun c h => by simp [hc c h]
  have left : [o].filter (fun x => x.id != o.id) = [] := by simp
  simp only [State.refuseEngine, hg, noCopy, ho, left, List.any_cons, BEq.rfl, Bool.true_or, if_true, Bool.false_eq_true, if_false]

/-- A gather that ends with a cause owed: its counter falls, and the cause stands where its number puts it. -/
theorem endOwing_gather {s : State} {gid code : Nat} {g : Group} {tv : Option W64} (hg : s.groups.get gid = some g) :
    ∃ h, (s.endOwing gid .gth code tv).groups.get gid = some h ∧ h.eng.gathers = g.eng.gathers ∧ h.eng.gth = g.eng.gth - 1 ∧
      h.eng.owed = (g.eng.endWith .gth code tv).owed ∧ (g.owing = [] → (s.endOwing gid .gth code tv).mem = s.mem) := by
  have ended := get_updGroup_same (f := fun g => { g with eng := g.eng.endWith .gth code tv }) hg
  have moved := awakes_engineMoved gid ended
  obtain ⟨h, hh, gathers, gth, owed⟩ := (sameGathers_offerOwed gid _ gid).trans moved.2 _ ended
  exact ⟨h, hh, gathers, gth, owed, fun none => moved.1.trans (mem_offerOwed_of_nil ended none)⟩

/-! ### The events -/

theorem exec_copyBatchComplete (g n : Nat) (s : State) : exec (.copyBatchComplete g n) s = execCopyBatchComplete g n s := rfl
theorem exec_gatherComplete (g : Nat) (s : State) : exec (.gatherComplete g) s = execGatherComplete g s := rfl
theorem exec_networkEntryPerformed (g : Nat) (s : State) :
    exec (.networkEntryPerformed g) s = execNetworkEntryPerformed g s := rfl
theorem exec_reductionGenerationComplete (k task dest : Nat) (s : State) :
    exec (.reductionGenerationComplete k task dest) s = execReductionGenerationComplete k task dest s := rfl
theorem exec_collGenerationComplete (c : Nat) (s : State) : exec (.collGenerationComplete c) s = execCollGenerationComplete c s := rfl
theorem exec_matrixFormComplete (g : Nat) (s : State) : exec (.matrixFormComplete g) s = execMatrixFormComplete g s := rfl
theorem exec_ringWaitWake (g f : Nat) (s : State) : exec (.ringWaitWake g f) s = execRingWaitWake g f s := rfl
theorem exec_engineOperationRefused (g op code : Nat) (a : W64) (s : State) :
    exec (.engineOperationRefused g op code a) s = execEngineOperationRefused g op code a s := rfl

theorem execGatherComplete_of_mapped {s : State} {gid : Nat} {g : Group} {o : GatherOp} {rest : List GatherOp} {m : List Moving}
    (hg : s.groups.get gid = some g) (hc : s.onCore g = true) (hq : g.eng.gathers = o :: rest)
    (held : s.stillHeld g o.held = false) (hm : (s.noteSpans g o.spans).spansMoves gid g o.spans = .ok m) :
    execGatherComplete gid s = .next ((((s.noteSpans g o.spans).moveAll gid g m).updGroup gid (fun x =>
      { x with eng := { x.eng with gathers := rest } })).endOne gid .gth) := by
  simp only [execGatherComplete, hg, hq, State.enginesRun, hc, held]
  rw [hm]
  rfl

theorem execNetworkEntryPerformed_of_mapped {s : State} {gid : Nat} {g : Group} {o : NetOp} {rest : List NetOp}
    {m : List Moving} (hg : s.groups.get gid = some g) (hc : s.onCore g = true) (hq : g.eng.sends = o :: rest)
    (held : s.stillHeld g o.held = false) (hm : (s.noteEngine g o.addr 128).entryMoves gid g o.addr o.row = .ok m) :
    execNetworkEntryPerformed gid s = .next ((((s.noteEngine g o.addr 128).moveAll gid g m).updGroup gid (fun x =>
      { x with eng := { x.eng with sends := rest } })).endOne gid .net) := by
  simp only [execNetworkEntryPerformed, hg, hq, State.enginesRun, hc, held]
  rw [hm]
  rfl

theorem execReductionGenerationComplete_of_alike {s : State} {k : Nat} {c : Cluster} {r : RedGen} (hk : s.clusters.get k = some c)
    (hr : c.reds.find? (fun y => y.task == r.task && y.dest == r.dest) = some r) (count : r.count ≤ r.rows.length)
    (hmixed : r.mixed = false) :
    execReductionGenerationComplete k r.task r.dest s = .next ((r.rows.foldl (fun t x => t.endColl x.1 x.2.1 none)
      ((s.updCluster k (fun c => { c with reds := c.reds.filter (fun y => !(y.task == r.task && y.dest == r.dest)) })).writeRed
        k r)).offerCluster k) := by
  simp only [execReductionGenerationComplete, hk, Option.bind_some, hr, Nat.not_lt.2 count, hmixed, if_false, Bool.false_eq_true]

theorem execMatrixFormComplete_done {s s1 : State} {gid : Nat} {g : Group} {o : MxOp} (hg : s.groups.get gid = some g)
    (ho : s.mxHead gid g = some o) (run : (s.noteMx g o).runMx gid g o = .done s1) :
    execMatrixFormComplete gid s =
      .next (((s1.countCycles g).updMx gid (fun m => { m with queue := m.queue.drop 1 })).endOne gid .mx) := by
  simp only [execMatrixFormComplete, hg, ho, run]

theorem execMatrixFormComplete_more {s s1 : State} {gid : Nat} {g : Group} {o : MxOp} (hg : s.groups.get gid = some g)
    (ho : s.mxHead gid g = some o) (run : (s.noteMx g o).runMx gid g o = .more s1) :
    execMatrixFormComplete gid s = .next (s1.countCycles g) := by
  simp only [execMatrixFormComplete, hg, ho, run]

section

variable {s : State} {gid fid : Nat} {w : Who} {r : RingWait} (hw : s.who? gid fid = some w) (hr : s.ringOf w = some r)
include hw hr

theorem execRingWaitWake_ok {s1 : State} (h : s.retryRing w r = .ok s1) : execRingWaitWake gid fid s = .next s1 := by
  simp only [execRingWaitWake, hw, hr, Option.map_some, h]

theorem execRingWaitWake_wait {s1 : State} (h : s.retryRing w r = .error (.wait .ring s1)) :
    execRingWaitWake gid fid s = .next s := by
  simp only [execRingWaitWake, hw, hr, Option.map_some, h]

theorem execRingWaitWake_cause {c : Nat} {tv : Option W64} (h : s.retryRing w r = .error (.cause c tv)) (hm : w.g.hm = false) :
    execRingWaitWake gid fid s =
      .next (((s.leaveWaits gid (fun k => k == fid)).wake gid fid).raisePrecise w c tv w.f.pc.addr) := by
  simp only [execRingWaitWake, hw, hr, Option.map_some, h, hm, Bool.false_and, Bool.false_eq_true, if_false]

end

/-- The one gather of a group is refused: it leaves the queue, its cause is owed, and memory stands where no result is owed. -/
theorem execEngineOperationRefused_gather {s : State} {gid code : Nat} {g : Group} {o : GatherOp} {a : W64}
    (hg : s.groups.get gid = some g) (ho : g.eng.gathers = [o]) (hc : ∀ c ∈ g.eng.copies, c.id ≠ o.id) :
    ∃ t h, execEngineOperationRefused gid o.id code a s = .next t ∧ t.groups.get gid = some h ∧ h.eng.gathers = [] ∧
      h.eng.gth = g.eng.gth - 1 ∧ h.eng.owed = (g.eng.owe .gth (g.eng.started .gth - g.eng.gth) code (some a)).owed ∧
      (g.owing = [] → t.mem = s.mem) := by
  obtain ⟨h, hh, gathers, gth, owed, mem⟩ := endOwing_gather (code := code) (tv := some a)
    (get_updGroup_same (f := fun x => { x with eng := { g.eng with gathers := [] } }) hg)
  exact ⟨_, h, congrArg Host.Outcome.next (refuseEngine_gather hg ho hc), hh, gathers, gth, owed, mem⟩

end Sys2Proof.Machine

namespace Sys2Proof

open Sys2Proof.Machine

/-- Settles O50: each event is evaluated under what its clause supposes; a refused gather leaves its queue, and what the engine's
progress does then touches no gather. -/
theorem enginesComplete : Obligations.EnginesComplete := by
  intro s gid g hg hc
  simp only [exec_copyBatchComplete, exec_gatherComplete, exec_networkEntryPerformed, exec_reductionGenerationComplete,
    exec_collGenerationComplete, exec_matrixFormComplete, exec_ringWaitWake, exec_engineOperationRefused]
  refine ⟨?copies, ?gathers, ?sends, ?reductions, ?collectives, ?mxDone, ?mxMore, ?rings, ?refused⟩
  case copies =>
    rintro n l mv rfl hmv
    exact execCopyBatchComplete_of_mapped hg hc hmv
  case gathers => exact fun o rest m hq held hm => execGatherComplete_of_mapped hg hc hq held hm
  case sends => exact fun o rest m hq held hm => execNetworkEntryPerformed_of_mapped hg hc hq held hm
  case reductions => exact fun k c r hk hr count hmixed => execReductionGenerationComplete_of_alike hk hr count hmixed
  case collectives =>
    rintro id c x rest mv hid hfull harr rfl hmixed hfn hdst
    simp only [execCollGenerationComplete, hid, hfull, if_true]
    exact congrArg Host.Outcome.next (finishColl_of_mapped id harr hg hmixed hfn hdst)
  case mxDone => exact fun o s1 ho run => execMatrixFormComplete_done hg ho run
  case mxMore => exact fun o s1 ho run => execMatrixFormComplete_more hg ho run
  case rings =>
    exact fun w r hw hr => ⟨fun s1 h => execRingWaitWake_ok hw hr h, fun s1 h => execRingWaitWake_wait hw hr h,
      fun c tv h hm => execRingWaitWake_cause hw hr h hm⟩
  case refused => exact fun o code a ho hcopies => execEngineOperationRefused_gather hg ho hcopies

end Sys2Proof
end

/-! SUPPORT. The canonical form of the memories through every step (R237, R374, R454): results that carry a state, the stores,
and what touches no store. -/

section

namespace Sys2Proof.Machine

open Sys2Proof

/-- Both branches of a choice keep the form. -/
theorem memsOk_ite {c : Prop} {d : Decidable c} {s t : State} (hs : memsOk s = true) (ht : memsOk t = true) :
    memsOk (if c then s else t) = true := by
  split
  · exact hs
  · exact ht

/-- What changes no store keeps the form. -/
theorem memsOk_framed {s t : State} (h : memsOk s = true) (k : SameStores s t) : memsOk t = true := k.memsOk h

/-! ### Results that carry a state -/

/-- What stands while a fragment waits has the form. -/
def StopOk : Stop → Prop
  | .wait _ t => memsOk t = true
  | _ => True

/-- The body of an instruction form ends, or waits, in a state with the form. -/
def BodyOk : Except Stop State → Prop
  | .ok t => memsOk t = true
  | .error e => StopOk e

/-- A check that makes a fragment wait leaves a state with the form. -/
def CheckOk {α : Type} : Except Stop α → Prop
  | .ok _ => True
  | .error e => StopOk e

/-- The next state, if there is one, has the form. -/
def OutOk : Host.Outcome State Fault Refusal → Prop
  | .next t => memsOk t = true
  | _ => True

def PutOk {ε : Type} : Except ε State → Prop
  | .ok t => memsOk t = true
  | .error _ => True

def OptOk : Option State → Prop
  | some t => memsOk t = true
  | none => True

def PerformedOk : Performed → Prop
  | .done t _ => memsOk t = true
  | _ => True

def TriedOk : Tried → Prop
  | .done t => memsOk t = true
  | _ => True

def ReplayOk : Replay → Prop
  | .done t => memsOk t = true
  | _ => True

def MxDoneOk : MxDone → Prop
  | .more t | .done t => memsOk t = true
  | .blocked _ _ => True

def ServedOk : Served → Prop
  | .done t => memsOk t = true
  | _ => True

def ActedOk : Acted → Prop
  | .reply _ _ t | .hold t => memsOk t = true

def CollReadOk : CollRead → Prop
  | .arrived t => memsOk t = true
  | _ => True

def PickOk : Pick → Prop
  | .run _ t | .stay t => memsOk t = true

theorem BodyOk.ok {r : Except Stop State} {t : State} (h : BodyOk r) (e : r = .ok t) : memsOk t = true := by
  subst e; exact h
theorem BodyOk.error {r : Except Stop State} {x : Stop} (h : BodyOk r) (e : r = .error x) : StopOk x := by
  subst e; exact h
theorem CheckOk.error {α : Type} {r : Except Stop α} {x : Stop} (h : CheckOk r) (e : r = .error x) : StopOk x := by
  subst e; exact h
theorem PutOk.ok {ε : Type} {r : Except ε State} {t : State} (h : PutOk r) (e : r = .ok t) : memsOk t = true := by
  subst e; exact h
theorem memsOk_fst {α : Type} {r : State × α} {t : State} {a : α} (h : memsOk r.1 = true) (e : r = (t, a)) :
    memsOk t = true := by subst e; exact h
theorem memsOk_snd {α : Type} {r : α × State} {t : State} {a : α} (h : memsOk r.2 = true) (e : r = (a, t)) :
    memsOk t = true := by subst e; exact h
theorem OptOk.some {r : Option State} {t : State} (h : OptOk r) (e : r = .some t) : memsOk t = true := by
  subst e; exact h
theorem PerformedOk.done {r : Performed} {t : State} {l : List (Nat × List Byte)} (h : PerformedOk r) (e : r = .done t l) :
    memsOk t = true := by subst e; exact h
theorem TriedOk.done {r : Tried} {t : State} (h : TriedOk r) (e : r = .done t) : memsOk t = true := by subst e; exact h
theorem ReplayOk.done {r : Replay} {t : State} (h : ReplayOk r) (e : r = .done t) : memsOk t = true := by subst e; exact h
theorem MxDoneOk.more {r : MxDone} {t : State} (h : MxDoneOk r) (e : r = .more t) : memsOk t = true := by subst e; exact h
theorem MxDoneOk.done {r : MxDone} {t : State} (h : MxDoneOk r) (e : r = .done t) : memsOk t = true := by subst e; exact h
theorem ServedOk.done {r : Served} {t : State} (h : ServedOk r) (e : r = .done t) : memsOk t = true := by subst e; exact h
theorem ActedOk.reply {r : Acted} {a : W32} {v : W64} {t : State} (h : ActedOk r) (e : r = .reply a v t) : memsOk t = true := by
  subst e; exact h
theorem ActedOk.hold {r : Acted} {t : State} (h : ActedOk r) (e : r = .hold t) : memsOk t = true := by subst e; exact h
theorem CollReadOk.arrived {r : CollRead} {t : State} (h : CollReadOk r) (e : r = .arrived t) : memsOk t = true := by
  subst e; exact h

theorem OptOk.getD {r : Option State} {s : State} (hr : OptOk r) (h : memsOk s = true) : memsOk (r.getD s) = true := by
  cases r with
  | none => exact h
  | some t => exact hr

theorem OptOk.map {α : Type} (o : Option α) {f : α → State} (hf : ∀ a, memsOk (f a) = true) : OptOk (o.map f) := by
  cases o with
  | none => trivial
  | some a => exact hf a

theorem optOk_ite {c : Prop} {d : Decidable c} {a b : Option State} (ha : OptOk a) (hb : OptOk b) :
    OptOk (if c then a else b) := by
  split
  · exact ha
  · exact hb

theorem OutOk.next {r : Host.Outcome State Fault Refusal} {t : State} (h : OutOk r) (e : r = .next t) : memsOk t = true := by
  subst e; exact h

/-! ### The frame of every instruction form -/

theorem memsOk_settle {s : State} {r : Except Stop State} (w : Who) (h : memsOk s = true) (hr : BodyOk r) :
    memsOk (settle s w r) = true :=
  settle_keeps (fun t => memsOk t = true) (fun _ _ m k => m.memsOk k) s w r h (fun _ e => hr.ok e) (fun _ _ e => hr.error e)

/-- An instruction form keeps the form where its body does. -/
theorem outOk_run {s : State} {body : Who → Except Stop State} (h : memsOk s = true) (hb : ∀ w, BodyOk (body w)) :
    OutOk (run s body) := by
  unfold run
  split
  · trivial
  · split
    · trivial
    · exact memsOk_settle _ h (hb _)

/-! ### The stores -/

theorem memsOk_tasks {s : State} {t : Table Task} (h : memsOk s = true)
    (ht : t.all (fun e => e.2.images.all (fun x => x.2.wf)) = true) : memsOk { s with tasks := t } = true := by
  rw [memsOk_iff] at h ⊢
  obtain ⟨hsys, hpriv, hback, hsram, hbank, -⟩ := h
  exact ⟨hsys, hpriv, hback, hsram, hbank, ht⟩

theorem memsOk_clusters {s : State} {t : Table Cluster} (h : memsOk s = true)
    (ht : t.all (fun e => e.2.sram.all (fun x => x.2.wf)) = true) : memsOk { s with clusters := t } = true := by
  rw [memsOk_iff] at h ⊢
  obtain ⟨hsys, hpriv, hback, -, hbank, htask⟩ := h
  exact ⟨hsys, hpriv, hback, ht, hbank, htask⟩

theorem memsOk_dies {s : State} {t : Table Die} (h : memsOk s = true)
    (ht : t.all (fun e => e.2.banks.all (fun x => x.2.wf)) = true) : memsOk { s with dies := t } = true := by
  rw [memsOk_iff] at h ⊢
  obtain ⟨hsys, hpriv, hback, hsram, -, htask⟩ := h
  exact ⟨hsys, hpriv, hback, hsram, ht, htask⟩

/-- What the canonical form says of each of the stores. -/
theorem tasksOk {s : State} (h : memsOk s = true) : s.tasks.all (fun e => e.2.images.all (fun x => x.2.wf)) = true := by
  obtain ⟨-, -, -, -, -, htask⟩ := (memsOk_iff s).1 h
  exact htask

theorem clustersOk {s : State} (h : memsOk s = true) : s.clusters.all (fun e => e.2.sram.all (fun x => x.2.wf)) = true := by
  obtain ⟨-, -, -, hsram, -⟩ := (memsOk_iff s).1 h
  exact hsram

theorem diesOk {s : State} (h : memsOk s = true) : s.dies.all (fun e => e.2.banks.all (fun x => x.2.wf)) = true := by
  obtain ⟨-, -, -, -, hbank, -⟩ := (memsOk_iff s).1 h
  exact hbank

theorem banksOk {s : State} {die : Nat} {d : Die} (h : memsOk s = true) (hd : s.dies.get die = some d) :
    d.banks.all (fun x => x.2.wf) = true :=
  Table.get_of_all (fun x : Die => x.banks.all (fun e => e.2.wf)) _ _ _ (diesOk h) hd

theorem images_filter_wf (l : List (Nat × Mem)) : (l.filter (fun x => x.2.wf)).all (fun x => x.2.wf) = true := by
  simp

/-- Tables of memories with the form, entered one by one under new keys. -/
theorem mems_foldl_set (l : List (Nat × Mem)) (key : Nat × Mem → Nat) (t : Table Mem) (hl : l.all (fun e => e.2.wf) = true)
    (ht : t.all (fun e => e.2.wf) = true) :
    (l.foldl (fun t e => Table.set t (key e) e.2) t).all (fun e => e.2.wf) = true := by
  induction l generalizing t with
  | nil => exact ht
  | cons e l ih =>
    rw [List.all_cons, Bool.and_eq_true] at hl
    exact ih _ hl.2 (Table.all_set (fun m : Mem => m.wf) _ _ _ ht hl.1)

theorem mems_filter_wf (l : List (Nat × Mem)) (p : Nat × Mem → Bool) :
    (l.filter (fun e => p e && e.2.wf)).all (fun e => e.2.wf) = true := by
  rw [List.all_eq_true]
  intro e he
  exact ((Bool.and_eq_true _ _).mp (List.mem_filter.mp he).2).2

theorem privOk {s : State} (h : memsOk s = true) : s.mem.priv.all (fun e => e.2.wf) = true := by
  obtain ⟨-, hpriv, -⟩ := (memsOk_iff s).1 h
  exact hpriv

theorem all_filter_of_all {α : Type} {l : List α} {q : α → Bool} (p : α → Bool) (h : l.all q = true) :
    (l.filter p).all q = true := by
  rw [List.all_eq_true] at h ⊢
  exact fun x hx => h x (List.mem_of_mem_filter hx)

theorem all_map_of {α β : Type} {l : List α} {f : α → β} {p : β → Bool} (h : ∀ a, p (f a) = true) : (l.map f).all p = true := by
  rw [List.all_map, List.all_eq_true]
  exact fun a _ => h a

/-! ### What touches no store -/

theorem memsOk_addOp (s : State) (o : MemOp) (h : memsOk s = true) : memsOk (s.addOp o) = true := h

theorem memsOk_nextId {s : State} {n : Nat} (h : memsOk s = true) : memsOk { s with nextId := n } = true := h

theorem memsOk_free {s : State} {n : Nat} (h : memsOk s = true) : memsOk { s with free := n } = true := h

theorem memsOk_updMx (s : State) (gid : Nat) (f : MxState → MxState) (h : memsOk s = true) : memsOk (s.updMx gid f) = true := h

theorem memsOk_writeTile (s : State) (gid : Nat) (g : Group) (t : Nat) (r : Tile × FlagSet) (h : memsOk s = true) :
    memsOk (s.writeTile gid g t r) = true := h

theorem memsOk_countStep (s : State) (g : Group) (h : memsOk s = true) : memsOk (s.countStep g) = true := h

theorem memsOk_noteWrote (s : State) (gid : Nat) (l : List Moving) (h : memsOk s = true) : memsOk (s.noteWrote gid l) = true := h

theorem memsOk_countCycles (s : State) (g : Group) (h : memsOk s = true) : memsOk (s.countCycles g) = true := h

theorem memsOk_dropStaging (s : State) (gid : Nat) (g : Group) (h : memsOk s = true) : memsOk (s.dropStaging gid g) = true := h

theorem memsOk_addEdge (s : State) (p q : Nat) (cmd : Nat) (ranges : List (W64 × W64)) (h : memsOk s = true) :
    memsOk (s.addEdge p q cmd ranges) = true := h

theorem memsOk_pages {s : State} {p : List Page} (h : memsOk s = true) :
    memsOk { s with mem := { s.mem with pages := p } } = true := h

theorem memsOk_groups {s : State} {t : Table Group} (h : memsOk s = true) : memsOk { s with groups := t } = true := h

theorem memsOk_sendPod (s : State) (kind pkg num : Nat) (data : List Byte) (h : memsOk s = true) :
    memsOk (s.sendPod kind pkg num data) = true := h

theorem memsOk_holdRequest {s : State} (i : Instr) (h : memsOk s = true) : memsOk (s.holdRequest i) = true := h

theorem memsOk_sendReply {s : State} (id vi : Nat) (seq stat : W32) (value : W64) (f : Ctx → Ctx) (h : memsOk s = true) :
    memsOk ((s.updCtx id f).send (Message.plain 4 vi seq stat value)) = true := h

theorem memsOk_setQueue {s : State} (vq : Nat) (q : Queue) (h : memsOk s = true) : memsOk (s.setQueue vq q) = true := h

theorem memsOk_dropHeld {s : State} (id : Nat) (h : memsOk s = true) : memsOk (s.dropHeld id) = true := h

theorem memsOk_holdRdma {s : State} (i : Instr) (again : Bool) (h : memsOk s = true) : memsOk (s.holdRdma i again) = true := h

theorem memsOk_replayFor {s : State} (die : Bool) (h : memsOk s = true) : memsOk (s.replayFor die) = true := h

theorem memsOk_relcntUp {s : State} (ctx : Nat) (h : memsOk s = true) : memsOk (s.relcntUp ctx) = true := h

theorem memsOk_takeFree {s : State} (h : memsOk s = true) : memsOk s.takeFree = true := h

theorem memsOk_followPage {s : State} (src n dst : Nat) (h : memsOk s = true) : memsOk (s.followPage src n dst) = true := h

theorem memsOk_informCapacity {s : State} (die : Nat) (h : memsOk s = true) : memsOk (s.informCapacity die) = true := h

theorem memsOk_countRetirement {s : State} (die : Nat) (h : memsOk s = true) : memsOk (s.countRetirement die) = true := h

theorem memsOk_enterSafe {s : State} (h : memsOk s = true) : memsOk s.enterSafe = true := h

theorem memsOk_inform {s : State} (data : Nat) (h : memsOk s = true) : memsOk (s.inform data) = true := h

theorem memsOk_failPort {s : State} (l : List (Nat × Nat)) (h : memsOk s = true) :
    memsOk { s with fabric := { s.fabric with portsFailed := l } } = true := h

theorem memsOk_dropOp {s : State} (id : Nat) (h : memsOk s = true) : memsOk (s.dropOp id) = true := h

theorem memsOk_market {s : State} {m : Market} (h : memsOk s = true) : memsOk { s with market := m } = true := h

theorem memsOk_cmds {s : State} {c : Table Cmd} (h : memsOk s = true) : memsOk { s with cmds := c } = true := h

theorem memsOk_send {s : State} (m : Message) (h : memsOk s = true) : memsOk (s.send m) = true := h

theorem memsOk_reviveCands {s : State} (old : State) (h : memsOk s = true) : memsOk (s.reviveCands old) = true := h

theorem memsOk_mgmt {s : State} {m : Mgmt} (h : memsOk s = true) : memsOk { s with mgmt := m } = true := h

theorem memsOk_rewound {s : State} (gid n : Nat) (f : Group → Group) (l : List MemOp) (h : memsOk s = true) :
    memsOk { s.updGroup gid f with nextId := n, ops := l } = true := h

theorem memsOk_writeLog {s : State} (b : List Byte) (h : memsOk s = true) : memsOk (s.writeLog b) = true := h

theorem memsOk_mreply {s : State} (seq stat : W32) (data : List Byte) (h : memsOk s = true) :
    memsOk (s.mreply seq stat data) = true := h

theorem memsOk_ops {s : State} {l : List MemOp} (h : memsOk s = true) : memsOk { s with ops := l } = true := h

theorem memsOk_signed {s : State} (fields : List Byte) (h : memsOk s = true) : memsOk (s.signed fields) = true := h

theorem memsOk_startMarket {s : State} (h : memsOk s = true) : memsOk s.startMarket = true := h

theorem memsOk_wearPipes {s : State} (h : memsOk s = true) : memsOk s.wearPipes = true := h

theorem memsOk_enterMode {s : State} {g : Mgmt} {m : Mode} (h : memsOk s = true) :
    memsOk { s with mgmt := g, mode := m } = true := h

theorem memsOk_tick {s : State} (h : memsOk s = true) : memsOk s.tick = true := h

theorem memsOk_resume {s : State} (x : Nat × W64 × Instr) (h : memsOk s = true) : memsOk (s.resume x) = true := h

theorem memsOk_cycle {s : State} {l : List Instr} (h : memsOk s = true) : memsOk { s with cycle := l } = true := h

theorem memsOk_due {s : State} {l : List Instr} (h : memsOk s = true) : memsOk { s with due := l } = true := h

theorem memsOk_agenda {s : State} {l : List Instr} (h : memsOk s = true) : memsOk { s.tick with agenda := l } = true := h

end Sys2Proof.Machine
end

/-! SUPPORT. The canonical form of the memories: causes, translations, queues and operands. -/

section

namespace Sys2Proof.Machine

open Sys2Proof

/-! ### Causes -/

theorem memsOk_deliverHeld (s : State) (gid : Nat) (h : memsOk s = true) : memsOk (s.deliverHeld gid) = true := by
  unfold State.deliverHeld
  split
  · exact h
  · split
    · exact h
    · split
      · exact h
      · exact (mild_deliverPending _ _ _ _).memsOk h

theorem memsOk_entryFails (s : State) (w : Who) (h : memsOk s = true) : memsOk (s.entryFails w) = true :=
  (mild_fatal _ _).memsOk ((mild_dropUrgent _ _ _).memsOk h)

theorem memsOk_cleanTeam (s : State) (core gid : Nat) (h : memsOk s = true) : memsOk (s.cleanTeam core gid) = true :=
  memsOk_foldl _ _ (fun _ _ hs => memsOk_cleanCore _ _ _ hs) _ (memsOk_cleanCore _ _ _ h)

theorem memsOk_dropStale (s : State) (core line : Nat) (h : memsOk s = true) : memsOk (s.dropStale core line) = true := by
  unfold State.dropStale
  split
  · exact memsOk_ite (memsOk_evictCopy _ _ _ h) h
  · exact h

/-! ### Translations -/

theorem memsOk_fetchUse (s : State) (ctx spa : Nat) (h : memsOk s = true) : memsOk (s.fetchUse ctx spa) = true :=
  memsOk_l2Use _ _ _ _ (memsOk_touch _ _ _ h)

theorem memsOk_notePage (s : State) (n : TlbEntry) (h : memsOk s = true) : memsOk (s.notePage n) = true := memsOk_ite h h

theorem memsOk_noteGpa (s : State) (ctx core : Nat) (walked : Bool) (gpa : Nat) (h : memsOk s = true) :
    memsOk (s.noteGpa ctx core walked gpa) = true := by
  unfold State.noteGpa
  split
  · exact h
  · extract_lets s1
    have h1 : memsOk s1 = true := memsOk_notePage _ _ h
    exact memsOk_ite (memsOk_updDie _ _ _ h1 (fun _ hx => hx)) h1

theorem memsOk_walkUse2 (s : State) (ctx core gpa : Nat) (h : memsOk s = true) : memsOk (s.walkUse2 ctx core gpa) = true := by
  unfold State.walkUse2
  split
  · exact h
  · exact memsOk_ite h (memsOk_foldl _ _ (fun _ _ hs => memsOk_fetchUse _ _ _ hs) _ h)

theorem memsOk_walkUse (s : State) (ctx core gpa : Nat) (h : memsOk s = true) : memsOk (s.walkUse ctx core gpa) = true := by
  unfold State.walkUse
  split
  · exact h
  · exact memsOk_fetchUse _ _ _ (memsOk_walkUse2 _ _ _ _ h)

theorem memsOk_walkReads (s : State) (ctx core gva : Nat) (h : memsOk s = true) : memsOk (s.walkReads ctx core gva) = true :=
  memsOk_foldl _ _ (fun _ _ hs => memsOk_walkUse2 _ _ _ _ hs) _ (memsOk_foldl _ _ (fun _ _ hs => memsOk_walkUse _ _ _ _ hs) _ h)

theorem memsOk_noteGva (s : State) (ctx core gva : Nat) (h : memsOk s = true) : memsOk (s.noteGva ctx core gva) = true := by
  unfold State.noteGva
  extract_lets s1
  have h1 : memsOk s1 = true := memsOk_foldl _ _ (fun _ _ hs => memsOk_noteGpa _ _ _ _ _ hs) _ h
  exact memsOk_ite h1 (memsOk_walkReads _ _ _ _ h1)

theorem memsOk_noteRange (s : State) (ctx core : Nat) (n : Nat) (a : Nat) (b : Nat) (h : memsOk s = true) :
    memsOk (s.noteRange ctx core n a b) = true := by
  induction n generalizing s a with
  | zero => exact h
  | succ n ih =>
    unfold State.noteRange
    exact memsOk_ite h (ih _ _ (memsOk_noteGva _ _ _ _ h))

theorem memsOk_cacheTlb (s : State) (ctx core gva : Nat) (need : Need) (h : memsOk s = true) :
    memsOk (s.cacheTlb ctx core gva need) = true := by
  unfold State.cacheTlb
  split
  · exact h
  · split
    · exact memsOk_noteGva _ _ _ _ h
    · extract_lets tables s1 s2
      have h1 : memsOk s1 = true := memsOk_foldl _ _ (fun _ _ hs => memsOk_noteGpa _ _ _ _ _ hs) _ h
      have h2 : memsOk s2 = true := memsOk_foldl _ _ (fun _ _ hs => memsOk_noteGpa _ _ _ _ _ hs) _ (memsOk_walkReads _ _ _ _ h1)
      exact memsOk_updCluster _ _ _ (memsOk_updCore _ _ _ h2) (fun _ hx => hx)

/-! ### Operand queues -/

theorem memsOk_setLists (s : State) (w : Who) (q : Nat) (f : Nat → List W32 → List W32) (h : memsOk s = true) :
    memsOk (s.setLists w q f) = true := by
  unfold State.setLists
  split
  · exact h
  · exact memsOk_updGroup _ _ _ h

theorem memsOk_queueMoved (s : State) (w : Who) (h : memsOk s = true) : memsOk (s.queueMoved w) = true :=
  memsOk_foldl _ _ (fun _ _ hs => memsOk_push _ _ hs) _ h

theorem memsOk_pop (s : State) (w : Who) (act : W32) (q : Nat) (h : memsOk s = true) : memsOk (s.pop w act q) = true :=
  memsOk_setLists _ _ _ _ h

theorem memsOk_popAll (s : State) (w : Who) (act : W32) (qs : List Nat) (h : memsOk s = true) :
    memsOk (s.popAll w act qs) = true := memsOk_foldl _ _ (fun _ _ hs => memsOk_pop _ _ _ _ hs) _ h

theorem memsOk_pushQ (s : State) (w : Who) (act : W32) (q : Nat) (x : Nat → W32) (h : memsOk s = true) :
    memsOk (s.pushQ w act q x) = true := memsOk_ite h (memsOk_setLists _ _ _ _ h)

/-- Each consumer that takes the entry takes it in the state that the consumers before it have left (R257-R259). -/
theorem memsOk_accept (s : State) (gid : Nat) (g : Group) (cm : Consumers) (o : Owing) (h : memsOk s = true) :
    memsOk (s.accept gid g cm o) = true := by
  have sent : ∀ (u : State) (f : Group → Group) (n : Nat), memsOk u = true →
      memsOk { (u.cleanTeam g.core gid).updGroup gid f with nextId := n } = true := fun u f n hu => memsOk_cleanTeam u _ _ hu
  have joined : ∀ (u : State) (f : Group → Group) (n : Nat), memsOk u = true →
      memsOk { (u.updCluster (clusterNo g.core) (fun c =>
        { c with reds := joinRed c.reds g.task gid u.nextId o.red o.row })).updGroup gid f with nextId := n } = true :=
    fun u f n hu => memsOk_updCluster u _ _ hu (fun _ hx => hx)
  unfold State.accept
  refine (fun hs => memsOk_ite (sent _ _ _ hs) hs) ?_
  refine (fun hs => memsOk_ite (memsOk_ite (memsOk_push _ _ (joined _ _ _ hs)) (joined _ _ _ hs)) hs) ?_
  refine (fun hs => memsOk_ite (sent _ _ _ hs) hs) ?_
  exact memsOk_ite h h

theorem memsOk_offer (s : State) (gid : Nat) (o : Owing) (h : memsOk s = true) : memsOk (s.offer gid o) = true := by
  unfold State.offer
  split
  · exact h
  · extract_lets now rest s1
    have h1 : memsOk s1 = true := memsOk_accept _ _ _ _ _ h
    exact memsOk_ite (memsOk_updGroup _ _ _ h1) h1

theorem memsOk_consume (s : State) (w : Who) (cm : Consumers) (row : Row) (h : memsOk s = true) :
    memsOk (s.consume w cm row) = true := by
  unfold State.consume
  split
  · dsimp only
    exact memsOk_offer _ _ _ (memsOk_updGroup _ _ _ h)
  · exact h

theorem memsOk_offerOwed (s : State) (gid : Nat) (h : memsOk s = true) : memsOk (s.offerOwed gid) = true := by
  unfold State.offerOwed
  split
  · exact h
  · exact memsOk_foldl _ _ (fun _ _ hs => memsOk_offer _ _ _ hs) _ (memsOk_updGroup _ _ _ h)

theorem memsOk_opDone (s : State) (core gid : Nat) (h : memsOk s = true) : memsOk (s.opDone core gid) = true :=
  memsOk_offerOwed _ _ ((mild_opGone _ _ _).memsOk h)

theorem memsOk_putLanes (s : State) (w : Who) (x : Shape) (val : Nat → W32) (h : memsOk s = true) :
    memsOk (s.putLanes w x val) = true := by
  unfold State.putLanes
  extract_lets s1 s2 s3 s4 s5
  have h1 : memsOk s1 = true := memsOk_popAll _ _ _ _ h
  have h2 : memsOk s2 = true := by
    unfold s2
    split
    · split
      · exact memsOk_updGroup _ _ _ h1
      · exact h1
    · exact h1
  have h3 : memsOk s3 = true := by
    unfold s3
    split
    · exact memsOk_pushQ _ _ _ _ _ h2
    · exact h2
  have h4 : memsOk s4 = true := memsOk_consume _ _ _ _ h3
  have h5 : memsOk s5 = true := memsOk_ite (memsOk_queueMoved _ _ h4) h4
  exact memsOk_ite ((mild_disarm _ _).memsOk h5) h5

theorem memsOk_putScalar (s : State) (w : Who) (x : Shape) (val : W64) (h : memsOk s = true) :
    memsOk (s.putScalar w x val) = true := by
  unfold State.putScalar
  extract_lets s1 s2 s4 s5
  have h1 : memsOk s1 = true := memsOk_popAll _ _ _ _ h
  have h2 : memsOk s2 = true := by
    unfold s2
    split
    · split
      · exact memsOk_updGroup _ _ _ h1
      · exact h1
    · exact h1
  have h4 : memsOk s4 = true := memsOk_consume _ _ _ _ h2
  have h5 : memsOk s5 = true := memsOk_ite (memsOk_queueMoved _ _ h4) h4
  exact memsOk_ite ((mild_disarm _ _).memsOk h5) h5

theorem memsOk_raiseFlags (s : State) (w : Who) (fl : FlagSet) (h : memsOk s = true) : memsOk (s.raiseFlags w fl) = true :=
  memsOk_ite h ((mild_updFrag _ _ _ _).memsOk h)

end Sys2Proof.Machine
end

/-! SUPPORT. The canonical form of the memories: the vector, scalar and lane forms, accesses performed, and the control forms.
-/

section

namespace Sys2Proof.Machine

open Sys2Proof

/-! ### Vector, scalar and lane forms -/

theorem checkOk_pre (s : State) (w : Who) (x : Shape) (h : memsOk s = true) : CheckOk (s.pre w x) := by
  unfold State.pre
  dsimp only
  split
  · trivial
  · split
    · trivial
    · split
      · exact h
      · split
        · split
          · exact h
          · trivial
        · split
          · exact h
          · trivial

theorem outOk_vecForm (s : State) (x : Args) (srcs : List Operand) (val : Who → Nat → W32 × FlagSet) (h : memsOk s = true) :
    OutOk (vecForm s x srcs val) := by
  unfold vecForm
  dsimp only
  refine outOk_run h (fun w => ?_)
  split
  · exact (checkOk_pre _ _ _ h).error ‹_›
  · split
    · trivial
    · exact (mild_advance _ _).memsOk (memsOk_raiseFlags _ _ _ (memsOk_putLanes _ _ _ _ h))

theorem outOk_scalForm (s : State) (x : Args) (val : Who → W64) (h : memsOk s = true) : OutOk (scalForm s x val) := by
  unfold scalForm
  dsimp only
  refine outOk_run h (fun w => ?_)
  split
  · exact (checkOk_pre _ _ _ h).error ‹_›
  · exact (mild_advance _ _).memsOk (memsOk_putScalar _ _ _ _ h)

theorem bodyOk_laneBody (s : State) (w : Who) (x : Args) (srcs : List Operand) (val : Who → W32 → W64)
    (fl : Who → W32 → Nat → FlagSet) (h : memsOk s = true) :
    BodyOk (s.laneBody w x srcs val fl) := by
  unfold State.laneBody
  dsimp only
  split
  · exact (checkOk_pre _ _ _ h).error ‹_›
  · split
    · trivial
    · exact (mild_advance _ _).memsOk (memsOk_raiseFlags _ _ _ (memsOk_putScalar _ _ _ _ h))

theorem outOk_laneForm (s : State) (x : Args) (srcs : List Operand) (val : Who → W32 → W64) (fl : Who → W32 → Nat → FlagSet)
    (h : memsOk s = true) :
    OutOk (laneForm s x srcs val fl) := outOk_run h (fun _ => bodyOk_laneBody _ _ _ _ _ _ h)

/-! ### Accesses performed -/

theorem memsOk_atomSteps (s : State) (gid : Nat) (g : Group) (i : Instr) (bytes : Nat) (fadd : W32 → W32 → W32)
    (l : List (LaneAccess × List Loc)) (h : memsOk s = true) : memsOk (s.atomSteps gid g i bytes fadd l).1 = true := by
  induction l generalizing s with
  | nil => exact h
  | cons x l ih => exact ih _ (memsOk_writeHome _ _ _ _ _ _ _ (memsOk_prepareHome _ _ _ _ _ h))

theorem memsOk_loadLanes (s : State) (g : Group) (hint : Hint) (ro : Bool) (l : List (LaneAccess × List Loc))
    (h : memsOk s = true) : memsOk (s.loadLanes g hint ro l).1 = true := by
  induction l generalizing s with
  | nil => exact h
  | cons x l ih => exact ih _ (memsOk_readBytes _ _ _ _ _ _ h)

theorem memsOk_writeUnits (s : State) (gid : Nat) (g : Group) (hint : Hint) (l : List (Nat × List Loc × List Byte))
    (h : memsOk s = true) :
    memsOk (s.writeUnits gid g hint l) = true := by
  induction l generalizing s with
  | nil => exact h
  | cons y l ih =>
    unfold State.writeUnits
    exact ih _ (memsOk_writeBytes _ _ _ _ _ _ _ h)

theorem memsOk_storeLanes (s : State) (gid : Nat) (g : Group) (a : AccForm) (l : List (LaneAccess × List Loc))
    (h : memsOk s = true) :
    memsOk (s.storeLanes gid g a l) = true :=
  memsOk_ite (memsOk_framed (memsOk_writeUnits _ _ _ _ _ h) ⟨rfl, rfl, rfl, rfl⟩) (memsOk_writeUnits _ _ _ _ _ h)

theorem memsOk_cacheLane (s : State) (g : Group) (a : AccForm) (addr : Nat) (h : memsOk s = true) :
    memsOk (s.cacheLane g a addr) = true := by
  unfold State.cacheLane
  extract_lets s1 last
  have h1 : memsOk s1 = true := memsOk_cacheTlb _ _ _ _ _ h
  exact memsOk_ite h1 (memsOk_cacheTlb _ _ _ _ _ h1)

theorem performedOk_performPast (s : State) (own : Loc → Bool) (gid : Nat) (g : Group) (i : Instr) (a : AccForm)
    (fadd : W32 → W32 → W32) (lanes : List LaneAccess) (h : memsOk s = true) :
    PerformedOk (s.performPast own gid g i a fadd lanes) := by
  have fin : ∀ (b : Bool) (u : State), memsOk u = true → memsOk (if b = true then u.acquire g a.attrs.scope else u) = true :=
    fun _ u hu => memsOk_ite (memsOk_acquire u _ _ hu) hu
  unfold State.performPast
  split
  · trivial
  · extract_lets s0 wide s1
    have h0 : memsOk s0 = true := memsOk_touch _ _ _ (memsOk_foldl _ _ (fun _ _ hs => memsOk_ite (memsOk_cacheLane _ _ _ _ hs) hs) _ h)
    have h1 : memsOk s1 = true := memsOk_ite (memsOk_release _ _ _ _ h0) h0
    split
    · split
      · trivial
      · exact fin _ _ (memsOk_loadLanes _ _ _ _ _ (fin _ _ h1))
    · exact fin _ _ (memsOk_storeLanes _ _ _ _ _ h1)
    · split
      · trivial
      · split
        · exact fin _ _ (memsOk_atomSteps _ _ _ _ _ _ _ h1)
        · exact fin _ _ (memsOk_atomSteps _ _ _ _ _ _ _ h1)

theorem performedOk_perform (s : State) (gid : Nat) (g : Group) (i : Instr) (a : AccForm) (fadd : W32 → W32 → W32)
    (lanes : List LaneAccess) (h : memsOk s = true) :
    PerformedOk (s.perform gid g i a fadd lanes) := performedOk_performPast _ _ _ _ _ _ _ _ h

theorem performedOk_performOp (s : State) (g : Group) (o : MemOp) (a : AccForm) (fadd : W32 → W32 → W32)
    (h : memsOk s = true) : PerformedOk (s.performOp g o a fadd) := by
  unfold State.performOp
  split
  · exact performedOk_perform _ _ _ _ _ _ _ h
  · have done := performedOk_perform (s.withPins g.core o) o.gid g o.instr a fadd o.lanes h
    split
    · rename_i s1 old e
      have kept : memsOk s1 = true := done.done e
      exact kept
    · exact done

/-! ### Transfers of control -/

theorem memsOk_reportFault (s : State) (w : Who) (gva : Nat) (f : WalkFail) (fetch : Bool) (h : memsOk s = true) :
    memsOk (s.reportFault w gva f fetch) = true := by
  unfold State.reportFault
  split <;> exact h

theorem stopOk_fetchHold (s : State) (w : Who) (a : W64) (f : WalkFail) (h : memsOk s = true) : StopOk (s.fetchHold w a f) := by
  unfold State.fetchHold
  split
  · trivial
  · exact memsOk_reportFault _ _ _ _ _ h

theorem bodyOk_lineUnread (s : State) (w : Who) (pc : Pc) (h : memsOk s = true) : BodyOk (s.lineUnread w pc) := by
  unfold State.lineUnread
  split
  · exact h
  · trivial

theorem bodyOk_transfer (s : State) (w : Who) (a : W64) (upd : State → State) (h : memsOk s = true)
    (hupd : memsOk (upd s) = true) : BodyOk (s.transfer w a upd) := by
  unfold State.transfer
  split
  · trivial
  · exact stopOk_fetchHold _ _ _ _ h
  · exact (mild_goto _ _ _ _).memsOk hupd
  · exact bodyOk_lineUnread _ _ _ h

theorem outOk_control (s : State) (body : Who → Except Stop State) (h : memsOk s = true) (hb : ∀ w, BodyOk (body w)) :
    OutOk (control s body) :=
  outOk_run h (fun w => by
    split
    · exact hb w
    · trivial)

theorem outOk_execNop (s : State) (h : memsOk s = true) : OutOk (execNop s) := outOk_run h (fun _ => h)

theorem outOk_execBra (x : BArgs) (s : State) (h : memsOk s = true) : OutOk (execBra x s) :=
  outOk_control _ _ h (fun _ => bodyOk_transfer _ _ _ _ h h)

theorem outOk_execBrc (fn : BrcFn) (x : BArgs) (s : State) (h : memsOk s = true) : OutOk (execBrc fn x s) := by
  unfold execBrc
  refine outOk_control _ _ h (fun w => ?_)
  split
  · exact bodyOk_transfer _ _ _ _ h h
  · exact h

theorem outOk_execCall (x : BArgs) (s : State) (h : memsOk s = true) : OutOk (execCall x s) :=
  outOk_control _ _ h (fun _ => bodyOk_transfer _ _ _ _ h h)

theorem outOk_execRet (x : BArgs) (s : State) (h : memsOk s = true) : OutOk (execRet x s) :=
  outOk_control _ _ h (fun _ => bodyOk_transfer _ _ _ _ h h)

theorem outOk_execJmpi (x : BArgs) (s : State) (h : memsOk s = true) : OutOk (execJmpi x s) :=
  outOk_control _ _ h (fun _ => bodyOk_transfer _ _ _ _ h h)

theorem outOk_execDjnz (x : BArgs) (s : State) (h : memsOk s = true) : OutOk (execDjnz x s) := by
  unfold execDjnz
  dsimp only
  refine outOk_control _ _ h (fun w => ?_)
  split
  · exact h
  · exact bodyOk_transfer _ _ _ _ h h

theorem memsOk_lastExit (s : State) (w : Who) (h : memsOk s = true) : memsOk (s.lastExit w) = true := memsOk_queueMoved _ _ h

theorem memsOk_exitFrag (s : State) (w : Who) (h : memsOk s = true) : memsOk (s.exitFrag w) = true := by
  unfold State.exitFrag
  extract_lets s1
  have h1 : memsOk s1 = true := h
  split
  · exact memsOk_push _ _ h1
  · exact memsOk_framed h1 ⟨rfl, rfl, rfl, rfl⟩
  · refine memsOk_ite (memsOk_lastExit _ _ h) ?_
    exact memsOk_foldl _ _ (fun _ _ hs => memsOk_push _ _ hs) _ (memsOk_updGroup s1 _ _ h1)

theorem outOk_execExit (x : Args) (s : State) (h : memsOk s = true) : OutOk (execExit x s) := by
  unfold execExit
  refine outOk_control _ _ h (fun w => ?_)
  split
  · trivial
  · exact memsOk_exitFrag _ _ h

theorem outOk_execYield (x : Args) (s : State) (h : memsOk s = true) : OutOk (execYield x s) :=
  outOk_control _ _ h (fun _ => h)

/-! ### Slices that part and join -/

theorem memsOk_part (s : State) (w : Who) (taken : BitVec 8) (tpc : Pc) (jump : Bool) (h : memsOk s = true) :
    memsOk (s.part w taken tpc jump) = true := memsOk_ite h (memsOk_ite h (memsOk_ite h h))

theorem memsOk_parkPart (s : State) (w : Who) (taken : BitVec 8) (tpc : Pc) (jump : Bool) (h : memsOk s = true) :
    memsOk (s.parkPart w taken tpc jump) = true := memsOk_ite h h

theorem outOk_execBrs (fn : BrsFn) (x : BArgs) (s : State) (h : memsOk s = true) : OutOk (execBrs fn x s) := by
  unfold execBrs
  dsimp only
  refine outOk_control _ _ h (fun w => ?_)
  split
  · split
    · exact memsOk_part _ _ _ _ _ h
    · split
      · trivial
      · exact memsOk_parkPart _ _ _ _ _ h
  · split
    · trivial
    · exact stopOk_fetchHold _ _ _ _ h
    · split
      · exact memsOk_part _ _ _ _ _ h
      · split
        · trivial
        · exact memsOk_parkPart _ _ _ _ _ h
    · exact bodyOk_lineUnread _ _ _ h

theorem outOk_execRegang (x : Args) (s : State) (h : memsOk s = true) : OutOk (execRegang x s) := by
  unfold execRegang
  dsimp only
  refine outOk_control _ _ h (fun w => ?_)
  split
  · trivial
  · split
    · trivial
    · split <;> exact h
  · split
    · trivial
    · split <;> exact h

theorem outOk_execMskip (x : Args) (s : State) (h : memsOk s = true) : OutOk (execMskip x s) := outOk_run h (fun _ => h)

end Sys2Proof.Machine
end

/-! SUPPORT. The canonical form of the memories: the access forms, register blocks and regions. -/

section

namespace Sys2Proof.Machine

open Sys2Proof

/-! ### Accesses -/

theorem memsOk_putMore (s : State) (w : Who) (d : Operand) (act : W32) (k : Nat) (val : Nat → Nat → W32) (h : memsOk s = true) :
    memsOk (s.putMore w d act k val) = true := by
  unfold State.putMore
  split
  · exact memsOk_foldl _ _ (fun _ _ hs => memsOk_updGroup _ _ _ hs) _ h
  · exact h

theorem memsOk_putLoaded (s : State) (w : Who) (sh : Shape) (i : Instr) (old : List (Nat × List Byte)) (h : memsOk s = true) :
    memsOk (s.putLoaded w sh i old) = true := by
  unfold State.putLoaded
  dsimp only
  split
  · exact memsOk_ite (memsOk_putMore _ _ _ _ _ _ (memsOk_putLanes _ _ _ _ h)) (memsOk_putLanes _ _ _ _ h)
  · exact memsOk_ite (memsOk_putMore _ _ _ _ _ _ (memsOk_putLanes _ _ _ _ h)) (memsOk_putLanes _ _ _ _ h)
  · exact memsOk_putScalar _ _ _ _ h
  · exact memsOk_putScalar _ _ _ _ h
  · exact memsOk_ite (memsOk_putMore _ _ _ _ _ _ (memsOk_putLanes _ _ _ _ h)) (memsOk_putLanes _ _ _ _ h)

theorem memsOk_noteAtomic (s : State) (w : Who) (a : AccForm) (h : memsOk s = true) : memsOk (s.noteAtomic w a) = true := by
  unfold State.noteAtomic
  split <;> exact h

theorem memsOk_noteIssue (s : State) (w : Who) (a : AccForm) (sh : Shape) (h : memsOk s = true) :
    memsOk (s.noteIssue w a sh) = true := memsOk_ite h (memsOk_noteAtomic _ _ _ h)

theorem bodyOk_hold (s : State) (w : Who) (i : Instr) (gva : Nat) (f : WalkFail) (h : memsOk s = true) :
    BodyOk (s.hold w i gva f) := by
  unfold State.hold
  split
  · trivial
  · dsimp only
    exact memsOk_framed (memsOk_reportFault _ _ _ _ _ h) ⟨rfl, rfl, rfl, rfl⟩

theorem bodyOk_keepAccess (s : State) (w : Who) (sh : Shape) (i : Instr) (lanes : List LaneAccess) (h : memsOk s = true) :
    BodyOk (s.keepAccess w sh i lanes) := by
  have fixed : ∀ (u : State) (f : Group → Group), memsOk u = true →
      memsOk (if anyEngine sh.cm = true then u.updGroup w.gid f else u) = true :=
    fun u f hu => memsOk_ite (memsOk_updGroup u _ f hu) hu
  unfold State.keepAccess
  refine memsOk_addOp _ _ (fixed _ _ ?_)
  split
  · exact memsOk_noteIssue _ _ _ _ h
  · exact h

theorem bodyOk_holdAccess (s : State) (w : Who) (sh : Shape) (i : Instr) (lanes : List LaneAccess) (gva : Nat) (f : WalkFail)
    (h : memsOk s = true) :
    BodyOk (s.holdAccess w sh i lanes gva f) := by
  unfold State.holdAccess
  split
  · trivial
  · exact bodyOk_keepAccess _ _ _ _ _ (memsOk_reportFault _ _ _ _ _ h)

theorem memsOk_sideLog (s : State) (w : Who) (sh : Shape) (i : Instr) (a : AccForm) (lanes : List LaneAccess)
    (why : Option (Nat × WalkFail)) (h : memsOk s = true) : memsOk (s.sideLog w sh i a lanes why) = true := by
  have logged : ∀ (u : State) (o : MemOp), memsOk u = true →
      memsOk ((((u.putLanes w sh (fun _ => 0)).noteAtomic w a).advance w).addOp o) = true := fun u o hu =>
    memsOk_addOp _ _ ((mild_advance _ _).memsOk (memsOk_noteAtomic _ _ _ (memsOk_putLanes _ _ _ _ hu)))
  unfold State.sideLog
  cases why with
  | none => exact logged _ _ h
  | some x =>
    have reported := memsOk_reportFault s w x.1 x.2 false h
    dsimp only
    split
    · exact memsOk_push _ _ (logged _ _ reported)
    · exact logged _ _ reported

theorem triedOk_tryLoad (s : State) (w : Who) (sh : Shape) (i : Instr) (a : AccForm) (t : TryRegion) (lanes : List LaneAccess)
    (h : memsOk s = true) :
    TriedOk (s.tryLoad w sh i a t lanes) := by
  unfold State.tryLoad
  split
  · trivial
  · dsimp only
    split
    · trivial
    · split
      · trivial
      · exact memsOk_noteIssue _ _ _ _ h
      · exact memsOk_putLoaded _ _ _ _ _ ((performedOk_performPast _ _ _ _ _ _ _ _ h).done ‹_› :)

theorem triedOk_tryStore (s : State) (w : Who) (sh : Shape) (i : Instr) (a : AccForm) (lanes : List LaneAccess)
    (h : memsOk s = true) :
    TriedOk (s.tryStore w sh i a lanes) := by
  unfold State.tryStore
  split
  · trivial
  · dsimp only
    split
    · exact h
    · split
      · trivial
      · exact memsOk_putLanes _ _ _ _ h

theorem triedOk_tryAccess (s : State) (w : Who) (sh : Shape) (i : Instr) (a : AccForm) (t : TryRegion)
    (lanes : List LaneAccess) (h : memsOk s = true) :
    TriedOk (s.tryAccess w sh i a t lanes) := by
  unfold State.tryAccess
  split
  · exact triedOk_tryStore _ _ _ _ _ _ h
  · exact triedOk_tryLoad _ _ _ _ _ _ _ h

theorem bodyOk_tryIssue (s : State) (w : Who) (sh : Shape) (i : Instr) (a : AccForm) (t : TryRegion) (lanes : List LaneAccess)
    (h : memsOk s = true) :
    BodyOk (s.tryIssue w sh i a t lanes) := by
  unfold State.tryIssue
  split
  · exact ((triedOk_tryAccess _ _ _ _ _ _ _ h).done ‹_› :)
  · exact bodyOk_holdAccess _ _ _ _ _ _ _ h
  · trivial

theorem bodyOk_accessNow (s : State) (w : Who) (sh : Shape) (i : Instr) (a : AccForm) (lanes : List LaneAccess)
    (h : memsOk s = true) :
    BodyOk (s.accessNow w sh i a lanes) := by
  unfold State.accessNow
  split
  · split
    · exact memsOk_sideLog _ _ _ _ _ _ _ h
    · exact bodyOk_keepAccess _ _ _ _ _ h
  · split
    · split
      · exact memsOk_sideLog _ _ _ _ _ _ _ h
      · exact bodyOk_holdAccess _ _ _ _ _ _ _ h
    · exact (mild_advance _ _).memsOk (memsOk_noteIssue _ _ _ _ h)
    · exact (mild_advance _ _).memsOk (memsOk_noteAtomic _ _ _ (memsOk_ite (memsOk_putLanes _ _ _ _ ((performedOk_perform _ _ _
        _ _ _ _ h).done ‹_›)) (memsOk_putLoaded _ _ _ _ _ ((performedOk_perform _ _ _ _ _ _ _ h).done ‹_›))))

theorem memsOk_accessLater (s : State) (w : Who) (sh : Shape) (i : Instr) (a : AccForm) (la : Nat) (lanes : List LaneAccess)
    (h : memsOk s = true) : memsOk (s.accessLater w sh i a la lanes) = true :=
  memsOk_addOp _ _ ((mild_advance _ _).memsOk (memsOk_noteAtomic _ _ _ h))

theorem memsOk_afterPaths (s : State) (w : Who) (h : memsOk s = true) : memsOk (s.afterPaths w) = true :=
  memsOk_ite ((mild_updFrag _ _ _ _).memsOk (memsOk_cleanCore _ _ _ h)) h

theorem checkOk_lowerStop {pre : Except Stop Unit} (chk : Except (Nat × W64) Unit) (h : CheckOk pre) :
    CheckOk (lowerStop pre chk) := by
  unfold lowerStop
  split
  · exact h
  · trivial
  · split <;> trivial
  · trivial

theorem bodyOk_access (s : State) (w : Who) (i : Instr) (x : MArgs) (a : AccForm) (h : memsOk s = true) :
    BodyOk (s.access w i x a) := by
  have checked : ∀ (c : Bool) (sh : Shape), CheckOk (if c = true then .error (.cause 0x0C none) else s.pre w sh) := by
    intro c sh
    split
    · trivial
    · exact checkOk_pre _ _ _ h
  have h0 := memsOk_afterPaths s w h
  unfold State.access
  extract_lets act sh lanes atomic pre s0
  split
  · trivial
  · split
    next e => exact (checkOk_lowerStop _ (checked _ _)).error e
    split
    · trivial
    · split
      · exact h
      · split
        · exact h
        · split
          · exact bodyOk_tryIssue _ _ _ _ _ _ _ h0
          · split
            · exact bodyOk_accessNow _ _ _ _ _ _ h0
            · exact memsOk_accessLater _ _ _ _ _ _ _ h0

theorem outOk_accessForm (i : Instr) (x : MArgs) (s : State) (h : memsOk s = true) : OutOk (accessForm i x s) := by
  refine outOk_run h (fun w => ?_)
  split
  · exact bodyOk_access _ _ _ _ _ h
  · exact h

theorem memsOk_prefetch (s : State) (w : Who) (fn : PrefFn) (a : W64) (h : memsOk s = true) :
    memsOk (s.prefetch w fn a) = true := by
  unfold State.prefetch
  split
  · exact h
  · split
    · exact h
    · split
      · split
        · exact memsOk_push _ _ h
        · exact h
      · extract_lets sb
        have hb : memsOk sb = true := memsOk_cacheTlb _ _ _ _ _ h
        split
        · exact memsOk_ensure _ _ _ _ _ hb
        · exact memsOk_l2Use _ _ _ _ hb
        · split
          · exact memsOk_push _ _ hb
          · exact hb

theorem outOk_execPref (fn : PrefFn) (x : MArgs) (s : State) (h : memsOk s = true) : OutOk (execPref fn x s) := by
  unfold execPref
  refine outOk_run h (fun w => ?_)
  split
  · trivial
  · exact (mild_advance _ _).memsOk (memsOk_foldl _ _ (fun _ _ hs => memsOk_prefetch _ _ _ _ hs) _ h)

theorem outOk_execLea (x : MArgs) (s : State) (h : memsOk s = true) : OutOk (execLea x s) := by
  unfold execLea
  dsimp only
  refine outOk_run h (fun w => ?_)
  split
  · split
    · trivial
    · split
      · exact (checkOk_pre _ _ _ h).error ‹_›
      · exact (mild_advance _ _).memsOk (memsOk_ite (memsOk_putMore _ _ _ _ _ _ (memsOk_putLanes _ _ _ _ h)) (memsOk_putLanes _
          _ _ _ h))
  · split
    · trivial
    · split
      · exact (checkOk_pre _ _ _ h).error ‹_›
      · exact (mild_advance _ _).memsOk (memsOk_ite (memsOk_putMore _ _ _ _ _ _ (memsOk_putLanes _ _ _ _ h)) (memsOk_putLanes _
          _ _ _ h))

theorem memsOk_keepSaved (s s1 : State) (o : MemOp) (h : memsOk s1 = true) : memsOk (s.keepSaved s1 o) = true := by
  unfold State.keepSaved
  split
  · exact h
  · exact memsOk_ite h h

theorem memsOk_finishOp (s : State) (o : MemOp) (w : Who) (a : AccForm) (old : List (Nat × List Byte)) (h : memsOk s = true) :
    memsOk (s.finishOp o w a old) = true := by
  unfold State.finishOp
  split
  · exact h
  · dsimp only
    split
    · exact memsOk_updGroup _ _ _ (memsOk_ite (memsOk_putLoaded _ _ _ _ _ h) (memsOk_ite (memsOk_putLanes _ _ _ _ h) h))
    · exact memsOk_keepSaved _ _ _ (memsOk_ite (memsOk_putLoaded _ _ _ _ _ h) (memsOk_ite (memsOk_putLanes _ _ _ _ h) h))

theorem memsOk_goOn (s : State) (o : MemOp) (w : Who) (h : memsOk s = true) : memsOk (s.goOn o w) = true := memsOk_ite h h

/-! ### Register blocks -/

theorem memsOk_takeBlocks (s : State) (w : Who) (n : Nat) (h : memsOk s = true) : memsOk (s.takeBlocks w n) = true := by
  unfold State.takeBlocks
  extract_lets s1
  have h1 : memsOk s1 = true := h
  exact memsOk_push _ _ (memsOk_shrinkL1 _ _ _ h1)

theorem memsOk_grantBlocks (s : State) (w : Who) (n : Nat) (h : memsOk s = true) : memsOk (s.grantBlocks w n) = true :=
  memsOk_updGroup _ _ _ (memsOk_takeBlocks _ _ _ h)

theorem memsOk_growResult (s : State) (w : Who) (x : Args) (r : W64) (h : memsOk s = true) :
    memsOk (s.growResult w x r) = true := memsOk_putScalar _ _ _ _ h

theorem outOk_execGrow (fn : NbFn) (x : Args) (s : State) (h : memsOk s = true) : OutOk (execGrow fn x s) := by
  unfold execGrow
  dsimp only
  refine outOk_run h (fun w => ?_)
  split
  · trivial
  · split
    · exact (checkOk_pre _ _ _ h).error ‹_›
    · split
      · split
        · exact h
        · exact (mild_advance _ _).memsOk (memsOk_growResult _ _ _ _ h)
      · split
        · split
          · trivial
          · split
            · exact h
            · exact (mild_advance _ _).memsOk (memsOk_growResult _ _ _ _ h)
        · split
          · split
            · exact (mild_advance _ _).memsOk (memsOk_grantBlocks _ _ _ h)
            · exact (mild_advance _ _).memsOk (memsOk_growResult _ _ _ _ (memsOk_grantBlocks _ _ _ h))
          · split
            · exact h
            · split
              · exact h
              · exact (mild_advance _ _).memsOk (memsOk_growResult _ _ _ _ h)

theorem outOk_execShrink (x : Args) (s : State) (h : memsOk s = true) : OutOk (execShrink x s) := by
  have freed : ∀ (w : Who) (f : Group → Group) (k n : Nat),
      memsOk (((s.updGroup w.gid f).dropReturned w.gid k).freeBlocks w.g.core w.g.octet n) = true :=
    fun w f k n => (mild_freeBlocks _ _ _ _).memsOk (memsOk_framed h ⟨rfl, rfl, rfl, rfl⟩)
  refine outOk_run h (fun w => ?_)
  dsimp only
  split
  · trivial
  · split
    · exact h
    · split
      · trivial
      · split
        · exact h
        · exact (mild_advance _ _).memsOk (freed _ _ _ _)

theorem outOk_execQctlCnt (x : Args) (s : State) (h : memsOk s = true) : OutOk (execQctlCnt x s) := by
  unfold execQctlCnt
  dsimp only
  refine outOk_run h (fun w => ?_)
  split
  · trivial
  · split
    · exact (checkOk_pre _ _ _ h).error ‹_›
    · exact (mild_advance _ _).memsOk (memsOk_putScalar _ _ _ _ h)

theorem outOk_execQctlRst (x : Args) (s : State) (h : memsOk s = true) : OutOk (execQctlRst x s) := by
  unfold execQctlRst
  refine outOk_run h (fun w => ?_)
  split
  · trivial
  · exact (mild_advance _ _).memsOk (memsOk_queueMoved _ _ (memsOk_setLists _ _ _ _ h))

/-! ### Regions -/

theorem bodyOk_openTry (s : State) (w : Who) (x : Args) (label : Pc) (h : memsOk s = true) : BodyOk (s.openTry w x label) := by
  unfold State.openTry
  split
  · trivial
  · dsimp only
    split
    · split
      · trivial
      · split
        · exact (mild_advance _ _).memsOk (memsOk_updGroup _ _ _ (memsOk_ite h (memsOk_takeBlocks _ _ _ h)))
        · exact h
    · split
      · trivial
      · split
        · trivial
        · split
          · trivial
          · split
            · exact (mild_advance _ _).memsOk (memsOk_updGroup _ _ _ (memsOk_ite h (memsOk_takeBlocks _ _ _ h)))
            · exact h

theorem outOk_execTryOpen (x : Args) (s : State) (h : memsOk s = true) : OutOk (execTryOpen x s) := by
  unfold execTryOpen
  dsimp only
  refine outOk_run h (fun w => ?_)
  split
  · trivial
  · exact stopOk_fetchHold _ _ _ _ h
  · split
    · trivial
    · exact bodyOk_openTry _ _ _ _ h
  · exact bodyOk_lineUnread _ _ _ h

theorem memsOk_publish (s : State) (w : Who) (o : MemOp) (h : memsOk s = true) : memsOk (s.publish w o) = true := by
  unfold State.publish
  split
  · extract_lets o' side
    have hide : memsOk side = true := h
    split
    · exact h
    · split
      · exact memsOk_addOp _ _ h
      · split
        · exact hide
        · split
          · exact hide
          · exact h
          · exact (performedOk_performOp _ _ _ _ _ h).done ‹_›
  · exact h

theorem memsOk_publishAll (s : State) (w : Who) (t : TryRegion) (h : memsOk s = true) : memsOk (s.publishAll w t) = true :=
  memsOk_foldl _ _ (fun _ _ hs => memsOk_publish _ _ _ hs) _ h

theorem memsOk_commitRegion (s : State) (w : Who) (t : TryRegion) (sh : Shape) (h : memsOk s = true) :
    memsOk (s.commitRegion w t sh) = true := by
  unfold State.commitRegion
  extract_lets s1
  have h1 : memsOk s1 = true := (mild_freeBlocks _ _ _ _).memsOk (memsOk_updGroup _ _ _ h)
  exact (mild_advance _ _).memsOk (memsOk_publishAll _ _ _ (memsOk_putScalar _ _ _ _ h1))

theorem outOk_execCommit (x : Args) (s : State) (h : memsOk s = true) : OutOk (execCommit x s) := by
  unfold execCommit
  dsimp only
  refine outOk_run h (fun w => ?_)
  split
  · trivial
  · split
    · trivial
    · split
      · exact (mild_advance _ _).memsOk (memsOk_putScalar _ _ _ _ h)
      · exact memsOk_commitRegion _ _ _ _ h

theorem outOk_execAbort (x : Args) (s : State) (h : memsOk s = true) : OutOk (execAbort x s) := by
  unfold execAbort
  refine outOk_run h (fun w => ?_)
  split <;> trivial

end Sys2Proof.Machine
end

/-! SUPPORT. The canonical form of the memories: barriers, maintenance, the forms of the engines, waits and commands. -/

section

namespace Sys2Proof.Machine

open Sys2Proof

theorem outOk_execFence (fn : Scope) (x : Args) (s : State) (h : memsOk s = true) : OutOk (execFence fn x s) := by
  unfold execFence
  refine outOk_run h (fun w => ?_)
  split
  · exact (mild_advance _ _).memsOk (memsOk_acquire _ _ _ (memsOk_release _ _ _ _ h))
  · exact h

/-! ### Barriers -/

theorem memsOk_arriveAt (s : State) (w : Who) (id count : Nat) (b : Barrier) (h : memsOk s = true) :
    memsOk (s.arriveAt w id count b) = true := by
  unfold State.arriveAt
  extract_lets s1 s2
  have h1 : memsOk s1 = true := memsOk_updTeam _ _ _ (memsOk_release _ _ _ _ h)
  have h2 : memsOk s2 = true := h1
  exact memsOk_ite h2 h2

theorem memsOk_leaveBar (s : State) (w : Who) (h : memsOk s = true) : memsOk (s.leaveBar w) = true :=
  (mild_advance _ _).memsOk (memsOk_updGroup _ _ _ (memsOk_acquire _ _ _ h))

theorem outOk_execBar (x : Args) (s : State) (h : memsOk s = true) : OutOk (execBar x s) := by
  unfold execBar
  dsimp only
  refine outOk_run h (fun w => ?_)
  split
  · trivial
  · split
    · trivial
    · split
      · split
        · exact h
        · exact memsOk_leaveBar _ _ h
      · split
        · trivial
        · split
          · exact h
          · split
            · exact memsOk_leaveBar _ _ (memsOk_arriveAt _ _ _ _ _ h)
            · exact memsOk_updGroup _ _ _ (memsOk_arriveAt _ _ _ _ _ h)

theorem outOk_execBara (x : Args) (s : State) (h : memsOk s = true) : OutOk (execBara x s) := by
  unfold execBara
  dsimp only
  refine outOk_run h (fun w => ?_)
  split
  · trivial
  · split
    · trivial
    · split
      · trivial
      · split
        · exact h
        · exact (mild_advance _ _).memsOk (memsOk_arriveAt _ _ _ _ _ h)

theorem outOk_execBarw (x : Args) (s : State) (h : memsOk s = true) : OutOk (execBarw x s) := by
  unfold execBarw
  dsimp only
  refine outOk_run h (fun w => ?_)
  split
  · split
    · trivial
    · split
      · exact h
      · exact memsOk_leaveBar _ _ h
  · trivial

/-! ### Cache maintenance and waits -/

theorem memsOk_discard (s : State) (core line : Nat) (h : memsOk s = true) : memsOk (s.discard core line) = true :=
  memsOk_pushConflicts _ _ h

theorem memsOk_maintainLine (s : State) (op : MaintOp) (ranges : List (Nat × Nat)) (core line : Nat) (h : memsOk s = true) :
    memsOk (s.maintainLine op ranges core line) = true := by
  unfold State.maintainLine
  split
  · exact memsOk_writeBack _ _ _ h
  · exact memsOk_evictCopy _ _ _ h
  · exact memsOk_ite (memsOk_discard _ _ _ h) (memsOk_evictCopy _ _ _ h)

theorem memsOk_maintainCore (s : State) (op : MaintOp) (ranges : List (Nat × Nat)) (core : Nat) (h : memsOk s = true) :
    memsOk (s.maintainCore op ranges core) = true := by
  unfold State.maintainCore
  split
  · exact h
  · exact memsOk_foldl _ _ (fun _ _ hs => memsOk_maintainLine _ _ _ _ _ hs) _ h

theorem outOk_execCmaint (op : MaintOp) (lvl : MaintLevel) (x : Args) (s : State) (h : memsOk s = true) :
    OutOk (execCmaint op lvl x s) := by
  unfold execCmaint
  dsimp only
  refine outOk_run h (fun w => ?_)
  split
  · trivial
  · split
    · exact h
    · split
      · trivial
      · split
        · exact h
        · exact (mild_advance _ _).memsOk (memsOk_foldl _ _ (fun _ _ hs => memsOk_maintainCore _ _ _ _ hs) _ h)

theorem memsOk_mwaitDone (s : State) (w : Who) (a : W64) (imm : W32) (h : memsOk s = true) :
    memsOk (s.mwaitDone w a imm) = true := by
  have read : ∀ o : Option Nat, memsOk ((o.map (fun p => s.dropStale w.g.core (p / 128))).getD s) = true := by
    intro o
    cases o with
    | none => exact h
    | some p => exact memsOk_dropStale _ _ _ h
  exact memsOk_ite ((mild_advance _ _).memsOk (memsOk_acquire _ _ _ (memsOk_ite (read _) h))) h

theorem outOk_execMwait (fn : MwaitFn) (x : Args) (s : State) (h : memsOk s = true) : OutOk (execMwait fn x s) := by
  unfold execMwait
  dsimp only
  refine outOk_run h (fun w => ?_)
  split
  · trivial
  · split
    · trivial
    · split
      · exact h
      · split
        · exact h
        · split
          · exact bodyOk_hold _ _ _ _ _ (memsOk_afterPaths _ _ h)
          · exact (mild_advance _ _).memsOk (memsOk_push _ _ (memsOk_afterPaths _ _ h))
          · split
            · exact memsOk_mwaitDone _ _ _ _ (memsOk_afterPaths _ _ h)
            · exact memsOk_afterPaths _ _ h

/-! ### The forms of the engines -/

theorem memsOk_noteEngine (s : State) (g : Group) (a : W64) (n : Nat) (h : memsOk s = true) :
    memsOk (s.noteEngine g a n) = true := memsOk_ite (memsOk_noteRange _ _ _ _ _ _ h) h

theorem memsOk_noteSpans (s : State) (g : Group) (l : List Span) (h : memsOk s = true) : memsOk (s.noteSpans g l) = true :=
  memsOk_foldl _ _ (fun _ _ hs => memsOk_noteEngine _ _ _ _ (memsOk_noteEngine _ _ _ _ hs)) _ h

theorem memsOk_noteCopy (s : State) (g : Group) (c : CopyOp) (h : memsOk s = true) : memsOk (s.noteCopy g c) = true := by
  unfold State.noteCopy
  split
  · exact memsOk_noteSpans _ _ _ h
  · exact memsOk_noteEngine _ _ _ _ h

theorem memsOk_reportEngine (s : State) (gid gva : Nat) (f : WalkFail) (h : memsOk s = true) :
    memsOk (s.reportEngine gid gva f) = true := by
  unfold State.reportEngine
  split
  · exact memsOk_reportFault _ _ _ _ _ h
  · exact h

theorem memsOk_wakeWhere (s : State) (core : Nat) (p : Nat → Frag → Bool) (h : memsOk s = true) :
    memsOk (s.wakeWhere core p) = true := memsOk_foldl _ _ (fun _ _ hs => (mild_wake _ _ _).memsOk hs) _ h

theorem memsOk_wakeAll (s : State) (p : Group → Frag → Bool) (h : memsOk s = true) : memsOk (s.wakeAll p) = true :=
  memsOk_foldl _ _ (fun _ _ hs => (mild_wake _ _ _).memsOk hs) _ h

theorem memsOk_engineMoved (s : State) (gid : Nat) (h : memsOk s = true) : memsOk (s.engineMoved gid) = true := by
  unfold State.engineMoved
  split
  · exact h
  · extract_lets s0 s1 s2
    have h0 : memsOk s0 = true := memsOk_offerOwed _ _ h
    have h1 : memsOk s1 = true := memsOk_wakeWhere _ _ _ h0
    have h2 : memsOk s2 = true := memsOk_foldl _ _ (fun _ _ hs => memsOk_push _ _ hs) _ h1
    exact memsOk_ite h2 h2

theorem memsOk_dropWrote (s : State) (gid : Nat) (g : Group) (h : memsOk s = true) : memsOk (s.dropWrote gid g) = true :=
  memsOk_updGroup _ _ _ (memsOk_foldl _ _ (fun _ _ hs => memsOk_evictCopy _ _ _ hs) _ h)

theorem outOk_engineForm (s : State) (body : Who → Except Stop State) (h : memsOk s = true) (hb : ∀ w, BodyOk (body w)) :
    OutOk (engineForm s body) :=
  outOk_run h (fun w => by
    split
    · trivial
    · exact hb w)

theorem bodyOk_startCopy (s : State) (w : Who) (fail : Option (Nat × Option W64)) (l : List Span) (h : memsOk s = true) :
    BodyOk (s.startCopy w fail l) := by
  unfold State.startCopy
  split
  · trivial
  · split
    · exact h
    · split
      · trivial
      · dsimp only
        exact (mild_advance _ _).memsOk (memsOk_nextId (memsOk_updGroup _ _ _ (memsOk_cleanTeam _ _ _ h)))

theorem outOk_execCpy (x : Args) (s : State) (h : memsOk s = true) : OutOk (execCpy x s) := by
  unfold execCpy
  dsimp only
  refine outOk_engineForm _ _ h (fun w => ?_)
  split
  · exact h
  · exact bodyOk_startCopy _ _ _ _ h

theorem outOk_execCpy2d (x : Args) (s : State) (h : memsOk s = true) : OutOk (execCpy2d x s) := by
  unfold execCpy2d
  dsimp only
  refine outOk_engineForm _ _ h (fun w => ?_)
  split
  · exact h
  · exact bodyOk_startCopy _ _ _ _ h

theorem outOk_execBatch (x : Args) (s : State) (h : memsOk s = true) : OutOk (execBatch x s) := by
  unfold execBatch
  dsimp only
  refine outOk_run h (fun w => ?_)
  split
  · exact (checkOk_pre _ _ _ h).error ‹_›
  · split
    · exact h
    · exact (mild_advance _ _).memsOk (memsOk_putScalar _ _ _ _ h)

theorem memsOk_raiseOwed (s : State) (w : Who) (code : Nat) (tv : Option W64) (h : memsOk s = true) :
    memsOk (s.raiseOwed w code tv) = true := (mild_raisePrecise _ _ _ _ _).memsOk h

theorem outOk_execWaitb (x : Args) (s : State) (h : memsOk s = true) : OutOk (execWaitb x s) := by
  unfold execWaitb
  dsimp only
  refine outOk_run h (fun w => ?_)
  split
  · exact memsOk_raiseOwed _ _ _ _ h
  · split
    · exact (mild_advance _ _).memsOk (memsOk_dropWrote _ _ _ h)
    · exact h

theorem outOk_execWaitbTest (x : Args) (s : State) (h : memsOk s = true) : OutOk (execWaitbTest x s) := by
  unfold execWaitbTest
  dsimp only
  refine outOk_run h (fun w => ?_)
  split
  · exact (checkOk_pre _ _ _ h).error ‹_›
  · exact (mild_advance _ _).memsOk (memsOk_putScalar _ _ _ _ (memsOk_ite (memsOk_dropWrote _ _ _ h) h))

theorem outOk_gatherForm (scatter : Bool) (fn : GthFn) (x : Args) (s : State) (h : memsOk s = true) :
    OutOk (gatherForm scatter fn x s) := by
  unfold gatherForm
  dsimp only
  refine outOk_engineForm _ _ h (fun w => ?_)
  split
  · trivial
  · split
    · exact h
    · split
      · trivial
      · split
        · exact h
        · exact (mild_advance _ _).memsOk (memsOk_nextId (memsOk_updGroup _ _ _ (memsOk_cleanTeam _ _ _ h)))

theorem memsOk_arriveColl (s : State) (id : Nat) (c : CollGen) (a : Arrival) (h : memsOk s = true) :
    memsOk (s.arriveColl id c a) = true := by
  unfold State.arriveColl
  extract_lets c' s1
  have h1 : memsOk s1 = true := h
  exact memsOk_ite h1 h1

theorem collReadOk_readColl (s : State) (gid : Nat) (g : Group) (o : CollStart) (h : memsOk s = true) :
    CollReadOk (s.readColl gid g o) := by
  unfold State.readColl
  split
  · trivial
  · dsimp only
    split
    · trivial
    · split
      · trivial
      · split
        · trivial
        · split
          · exact memsOk_arriveColl _ _ _ _ (memsOk_l2Lines _ _ _ _ (memsOk_touch _ _ _ h))
          · split
            · trivial
            · exact memsOk_arriveColl _ _ _ _ (memsOk_nextId (memsOk_l2Lines _ _ _ _ (memsOk_touch _ _ _ h)))

theorem memsOk_noteColl (s : State) (g : Group) (o : CollStart) (h : memsOk s = true) : memsOk (s.noteColl g o) = true :=
  memsOk_noteEngine _ _ _ _ (memsOk_noteEngine _ _ _ _ (memsOk_noteEngine _ _ _ _ h))

/-- The start of a COLL: it arrives, holds for its record or source, waits, or stops (R250, R262). -/
theorem bodyOk_startColl (s : State) (w : Who) (o : CollStart) (h : memsOk s = true) : BodyOk (s.startColl w o) := by
  have go : ∀ t : State, memsOk t = true → memsOk (((t.beginColl w.gid o.id).spoil w).advance w) = true := fun t ht =>
    (mild_advance _ _).memsOk ((mild_spoil _ _).memsOk (memsOk_updGroup t _ _ ht))
  have cleaned : memsOk (State.cleanTeam { s with nextId := s.nextId + 1 } w.g.core w.gid) = true :=
    memsOk_cleanTeam _ _ _ (memsOk_nextId h)
  have h1 := memsOk_noteColl _ w.g o cleaned
  unfold State.startColl
  split
  · exact h
  · have read := collReadOk_readColl _ w.gid w.g o h1
    dsimp only
    split
    · trivial
    · exact h
    · rename_i e
      split
      · exact h
      · exact go _ (read.arrived e)
    · split
      · trivial
      · split
        · exact h
        · exact memsOk_reportFault _ _ _ _ _ (memsOk_updGroup _ _ _ (go _ h1))

theorem outOk_execColl (fn : CollFn) (x : Args) (s : State) (h : memsOk s = true) : OutOk (execColl fn x s) := by
  unfold execColl
  dsimp only
  refine outOk_engineForm _ _ h (fun w => ?_)
  split
  · trivial
  · exact bodyOk_startColl _ _ _ h

theorem optOk_waitcEnd (s : State) (w : Who) (cls : WaitcFn) (thr : Nat) (h : memsOk s = true) :
    OptOk (s.waitcEnd w cls thr) := by
  unfold State.waitcEnd
  split
  · dsimp only
    exact memsOk_raiseOwed _ _ _ _ h
  · split
    · exact (mild_advance _ _).memsOk (memsOk_dropWrote _ _ _ h)
    · trivial

theorem outOk_execWaitc (fn : WaitcFn) (x : Args) (s : State) (h : memsOk s = true) : OutOk (execWaitc fn x s) := by
  unfold execWaitc
  dsimp only
  refine outOk_run h (fun w => ?_)
  split
  · exact (optOk_waitcEnd _ _ _ _ h).some ‹_›
  · exact h

/-! ### Commands -/

theorem memsOk_queueLaunch (s : State) (w : Who) (l : Launch) (h : memsOk s = true) : memsOk (s.queueLaunch w l) = true :=
  memsOk_framed (memsOk_tasks h (Table.all_set (fun x : Task => x.images.all (fun e => e.2.wf)) _ _ _ (tasksOk h) rfl))
    ⟨rfl, rfl, rfl, rfl⟩

theorem bodyOk_enqueue (s : State) (w : Who) (fn : NbFn) (x : Args) (l : Launch) (h : memsOk s = true) :
    BodyOk (s.enqueue w fn x l) := by
  unfold State.enqueue
  split
  · exact h
  · dsimp only
    split
    · split
      · exact (mild_advance _ _).memsOk ((mild_spoil _ _).memsOk (memsOk_putScalar _ _ _ _ h))
      · exact (mild_advance _ _).memsOk ((mild_spoil _ _).memsOk (memsOk_putScalar _ _ _ _ (memsOk_queueLaunch _ _ _ h)))
    · split
      · exact h
      · exact (mild_advance _ _).memsOk ((mild_spoil _ _).memsOk (memsOk_queueLaunch _ _ _ h))

theorem memsOk_admitEnqs (s : State) (team : Nat) (n : Nat) (h : memsOk s = true) : memsOk (s.admitEnqs team n) = true := by
  induction n generalizing s with
  | zero => exact h
  | succ n ih =>
    unfold State.admitEnqs
    split
    · exact h
    · split
      · exact h
      · split
        · exact h
        · split
          · split
            · exact ih _ ((mild_advance _ _).memsOk ((mild_spoil _ _).memsOk (memsOk_queueLaunch _ _ _ h)))
            · exact ih _ h
          · exact ih _ h

theorem outOk_execEnq (fn : NbFn) (x : Args) (s : State) (h : memsOk s = true) : OutOk (execEnq fn x s) := by
  unfold execEnq
  dsimp only
  refine outOk_engineForm _ _ h (fun w => ?_)
  split
  · exact (checkOk_pre _ _ _ h).error ‹_›
  · split
    · trivial
    · split
      · exact h
      · split
        · exact bodyOk_hold _ _ _ _ _ (memsOk_acquire _ _ _ (memsOk_release _ _ _ _ h))
        · split
          · exact (mild_advance _ _).memsOk (memsOk_push _ _ (memsOk_l2Lines _ _ _ _ (memsOk_noteEngine _ _ _ _ (memsOk_acquire
              _ _ _ (memsOk_release _ _ _ _ h)))))
          · split
            · trivial
            · split
              · exact bodyOk_enqueue _ _ _ _ _ (memsOk_l2Lines _ _ _ _ (memsOk_noteEngine _ _ _ _ (memsOk_acquire _ _ _
                  (memsOk_release _ _ _ _ h))))
              · trivial

theorem memsOk_lookTrigger (s : State) (task : Nat) (h : memsOk s = true) : memsOk (s.lookTrigger task) = true := memsOk_ite h h

theorem outOk_execTrig (x : Args) (s : State) (h : memsOk s = true) : OutOk (execTrig x s) := by
  unfold execTrig
  dsimp only
  refine outOk_engineForm _ _ h (fun w => ?_)
  split
  · exact h
  · exact (mild_advance _ _).memsOk (memsOk_lookTrigger _ _ ((mild_spoil _ _).memsOk (memsOk_updGroup _ _ _ (memsOk_release _ _
      _ _ h))))

theorem memsOk_droppedCause {s s1 : State} {w : Who} {a : W64} (h : memsOk s = true) (e : s.droppedCause w = some (a, s1)) :
    memsOk s1 = true := by
  unfold State.droppedCause at e
  split at e
  · cases e
  · split at e
    · cases e
    · cases e
      exact h

/-- JOIN reads its counter behind the stores of joined paths, and acquires where it is met (R270). -/
theorem outOk_execJoin (fn : NbFn) (x : Args) (s : State) (h : memsOk s = true) : OutOk (execJoin fn x s) := by
  refine outOk_run h (fun w => ?_)
  have h0 := memsOk_afterPaths s w h
  have met : ∀ b : Bool, memsOk (if b = true then (s.afterPaths w).acquire w.g .device else s.afterPaths w) = true := fun _ =>
    memsOk_ite (memsOk_acquire _ _ _ h0) h0
  dsimp only
  split
  next e _ => exact (checkOk_pre _ _ _ h).error ‹_›
  · trivial
  next e => exact memsOk_raiseOwed _ _ _ _ (memsOk_droppedCause h e)
  split
  · trivial
  · split
    · exact h
    · split
      · exact h
      · split
        · exact bodyOk_hold _ _ _ _ _ h0
        · exact (mild_advance _ _).memsOk (memsOk_push _ _ h0)
        · split
          · exact (mild_advance _ _).memsOk (memsOk_putScalar _ _ _ _ (met _))
          · split
            · exact (mild_advance _ _).memsOk (met _)
            · exact h0

end Sys2Proof.Machine
end

/-! SUPPORT. The canonical form of the memories: the events of fragments, cores and logged accesses. -/

section

namespace Sys2Proof.Machine

open Sys2Proof

/-! ### Fragments -/

theorem memsOk_lineBad (s : State) (w : Who) (h : memsOk s = true) : memsOk (s.lineBad w) = true :=
  memsOk_ite h (memsOk_ite (memsOk_entryFails _ _ h) ((mild_raisePrecise _ _ _ _ _).memsOk h))

theorem outOk_execFetchCheckFail (g f : Nat) (s : State) (h : memsOk s = true) : OutOk (execFetchCheckFail g f s) := by
  unfold execFetchCheckFail
  split
  · exact memsOk_lineBad _ _ h
  · exact h

theorem outOk_execLateFault (s : State) (h : memsOk s = true) : OutOk (execLateFault s) := by
  unfold execLateFault
  split
  · exact h
  · split
    · exact h
    · exact memsOk_opDone _ _ _ ((mild_raiseLate _ _ _ _).memsOk h)

theorem outOk_execConflict (g : Nat) (s : State) (h : memsOk s = true) : OutOk (execConflict g s) :=
  memsOk_ite ((mild_abortGroup _ _ _ _ _).memsOk h) h

theorem memsOk_wakeIf (s : State) (gid fid : Nat) (p : Wait → Bool) (h : memsOk s = true) :
    memsOk (s.wakeIf gid fid p) = true := by
  unfold State.wakeIf
  split
  · exact h
  · split
    · exact memsOk_ite h h
    · exact h

theorem outOk_execQueueWaitComplete (g f : Nat) (s : State) (h : memsOk s = true) : OutOk (execQueueWaitComplete g f s) :=
  memsOk_wakeIf _ _ _ _ h

theorem outOk_execQueueDeadlock (g : Nat) (s : State) (h : memsOk s = true) : OutOk (execQueueDeadlock g s) := by
  unfold execQueueDeadlock
  split
  · exact h
  · split
    · split
      · exact h
      · exact (mild_raisePrecise _ _ _ _ _).memsOk h
    · exact h

theorem memsOk_joinRecord (s : State) (gid id : Nat) (h : memsOk s = true) : memsOk (s.joinRecord gid id) = true := by
  unfold State.joinRecord
  split
  · exact h
  · dsimp only
    split
    · split
      · split <;> exact h
      · exact h
    · exact h

theorem outOk_execRegangJoin (g rec : Nat) (s : State) (h : memsOk s = true) : OutOk (execRegangJoin g rec s) :=
  memsOk_joinRecord _ _ _ h

theorem outOk_execParkedSlicesResume (g f : Nat) (s : State) (h : memsOk s = true) : OutOk (execParkedSlicesResume g f s) := by
  unfold execParkedSlicesResume
  split
  · exact h
  · exact memsOk_ite h h

theorem outOk_execBarrierPhaseComplete (team bar : Nat) (s : State) (h : memsOk s = true) :
    OutOk (execBarrierPhaseComplete team bar s) := by
  unfold execBarrierPhaseComplete
  split
  · exact h
  · exact memsOk_foldl _ _ (fun _ _ hs => memsOk_foldl _ _ (fun _ _ hs => memsOk_wakeIf _ _ _ _ hs) _ hs) _ h

theorem outOk_execBarrierDeadlock (team : Nat) (s : State) (h : memsOk s = true) : OutOk (execBarrierDeadlock team s) := by
  unfold execBarrierDeadlock
  split
  · exact h
  · split
    · exact h
    · exact (mild_raisePrecise _ _ _ _ _).memsOk h

theorem memsOk_grantOldest (s : State) (core octet : Nat) (w : Who) (h : memsOk s = true) :
    memsOk (s.grantOldest core octet w) = true := by
  unfold State.grantOldest
  split
  · split
    · extract_lets s1
      have h1 : memsOk s1 = true := (mild_wake _ _ _).memsOk ((mild_leaveWaits _ _ _).memsOk h)
      exact memsOk_ite h1 ((mild_raisePrecise _ _ _ _ _).memsOk h1)
    · exact memsOk_ite h ((mild_advance _ _).memsOk (memsOk_grantBlocks _ _ _ h))
  · exact memsOk_ite h h
  · exact h

theorem outOk_execGrowGrant (core octet : Nat) (s : State) (h : memsOk s = true) : OutOk (execGrowGrant core octet s) := by
  unfold execGrowGrant
  split
  · exact h
  · split
    · exact memsOk_grantOldest _ _ _ _ h
    · exact h

theorem memsOk_pruneYields (s : State) (h : memsOk s = true) : memsOk s.pruneYields = true := memsOk_ite h h

theorem outOk_execYieldEnd (g f : Nat) (s : State) (h : memsOk s = true) : OutOk (execYieldEnd g f s) := by
  unfold execYieldEnd
  split
  · exact h
  · split
    · exact memsOk_ite h h
    · exact h

theorem outOk_execMwaitWake (g f : Nat) (s : State) (h : memsOk s = true) : OutOk (execMwaitWake g f s) := by
  unfold execMwaitWake
  split
  · exact h
  · split
    · split
      · exact memsOk_ite (memsOk_mwaitDone _ _ _ _ h) h
      · exact h
      · exact h
    · exact h

theorem outOk_execMwaitTimeout (g f : Nat) (s : State) (h : memsOk s = true) : OutOk (execMwaitTimeout g f s) := by
  unfold execMwaitTimeout
  split
  · exact h
  · split
    · exact memsOk_ite (memsOk_mwaitDone _ _ _ _ h) h
    · exact h

theorem outOk_execWaitcSatisfied (g f : Nat) (s : State) (h : memsOk s = true) : OutOk (execWaitcSatisfied g f s) := by
  unfold execWaitcSatisfied
  split
  · exact h
  · split
    · exact (optOk_waitcEnd _ _ _ _ h).getD h
    · exact h

theorem outOk_execJoinWake (g f : Nat) (s : State) (h : memsOk s = true) : OutOk (execJoinWake g f s) := by
  unfold execJoinWake
  split
  · exact h
  · split
    · split
      · exact h
      · split
        · exact memsOk_ite ((mild_advance _ _).memsOk (memsOk_acquire _ _ _ h)) h
        · exact h
        · exact h
    · exact h

/-! ### Issue -/

theorem memsOk_ageOthers (s : State) (ready : List Who) (chosen : List (Nat × Nat)) (h : memsOk s = true) :
    memsOk (s.ageOthers ready chosen) = true := memsOk_foldl _ _ (fun _ _ hs => (mild_updFrag _ _ _ _).memsOk hs) _ h

theorem memsOk_parkQueues (s : State) (core : Nat) (access : Bool) (h : memsOk s = true) :
    memsOk (s.parkQueues core access) = true := memsOk_foldl _ _ (fun _ _ hs => (mild_setWaiting _ _ _ _).memsOk hs) _ h

theorem memsOk_issueOn (s0 : State) (core : Nat) (access : Bool) (h : memsOk s0 = true) :
    memsOk (s0.issueOn core access) = true := by
  have hs := memsOk_parkQueues s0 core access h
  have started : ∀ (u : State) (l : List Who) (k : List (Nat × Nat)) (f : Core → Core), memsOk u = true →
      memsOk ((u.ageOthers l k).updCore core f) = true := fun u l k f hu => memsOk_updCore _ _ _ (memsOk_ageOthers u l k hu)
  unfold State.issueOn
  extract_lets s
  split
  · exact hs
  · split
    · exact hs
    · extract_lets u times idle bar taken s1 idleCycle
      have h1 : memsOk s1 = true := hs
      have hidle : memsOk idleCycle = true := started s1 _ _ _ h1
      split
      · exact hidle
      · split
        · exact hidle
        · extract_lets x starts s2
          have h2 : memsOk s2 = true := started s1 _ _ _ h1
          exact memsOk_updCore s2 core (fun c => c.setUrgent access (s2.urgentNow core access c)) h2

theorem outOk_execIssueStart (core : Nat) (side : Side) (s : State) (h : memsOk s = true) :
    OutOk (execIssueStart core side s) := memsOk_issueOn _ _ _ h

theorem outOk_execFragmentUrgent (g f : Nat) (s : State) (h : memsOk s = true) : OutOk (execFragmentUrgent g f s) := by
  unfold execFragmentUrgent
  split
  · exact h
  · exact memsOk_ite h h

/-! ### Logged accesses -/

theorem memsOk_raiseOp (s : State) (o : MemOp) (w : Who) (code : Nat) (tval : W64) (h : memsOk s = true) :
    memsOk (s.raiseOp o w code tval) = true := by
  unfold State.raiseOp
  extract_lets s1
  have h1 : memsOk s1 = true := h
  exact memsOk_ite ((mild_abortGroup _ _ _ _ _).memsOk h1) (memsOk_ite ((mild_raiseIn _ _ _ _ _ _).memsOk h1) (memsOk_ite
    ((mild_raiseIn _ _ _ _ _ _).memsOk h1) (memsOk_ite ((mild_raiseIn _ _ _ _ _ _).memsOk h1) (memsOk_updGroup _ _ _
    ((mild_raiseIn _ _ _ _ _ _).memsOk h1)))))

theorem memsOk_raiseHeld (s : State) (o : MemOp) (w : Who) (code : Nat) (tval : W64) (h : memsOk s = true) :
    memsOk (s.raiseHeld o w code tval) = true := by
  unfold State.raiseHeld
  extract_lets s1
  have h1 : memsOk s1 = true := (mild_wake _ _ _).memsOk (memsOk_framed ((mild_giveBack _ _).memsOk h) ⟨rfl, rfl, rfl, rfl⟩)
  exact memsOk_opDone _ _ _ ((mild_raisePrecise _ _ _ _ _).memsOk h1)

theorem memsOk_raiseLogged (s : State) (o : MemOp) (w : Who) (code : Nat) (tval : W64) (h : memsOk s = true) :
    memsOk (s.raiseLogged o w code tval) = true := memsOk_opDone _ _ _ ((mild_raiseLate _ _ _ _).memsOk h)

theorem memsOk_refuseOp (s : State) (o : MemOp) (w : Who) (code : Nat) (tval : W64) (h : memsOk s = true) :
    memsOk (s.refuseOp o w code tval) = true :=
  memsOk_ite (memsOk_raiseLogged _ _ _ _ _ h) (memsOk_ite (memsOk_raiseHeld _ _ _ _ _ h) (memsOk_opDone _ _ _ (memsOk_raiseOp _
    _ _ _ _ h)))

theorem memsOk_retireOp (s : State) (o : MemOp) (w : Who) (a : AccForm) (old : List (Nat × List Byte)) (h : memsOk s = true) :
    memsOk (s.retireOp o w a old) = true :=
  memsOk_opDone _ _ _ (memsOk_goOn _ _ _ (memsOk_framed (memsOk_finishOp _ _ _ _ _ h) ⟨rfl, rfl, rfl, rfl⟩))

theorem memsOk_toSideLog (s : State) (o : MemOp) (w : Who) (a : AccForm) (h : memsOk s = true) :
    memsOk (s.toSideLog o w a) = true := by
  unfold State.toSideLog
  extract_lets s1
  have h1 : memsOk s1 = true := memsOk_ite (memsOk_goOn _ _ _ (memsOk_finishOp _ _ _ _ _ h)) h
  exact memsOk_opDone _ _ _ h1

theorem memsOk_blockOp (s : State) (o : MemOp) (w : Who) (a : AccForm) (gva : Nat) (f : WalkFail) (h : memsOk s = true) :
    memsOk (s.blockOp o w a gva f) = true := by
  unfold State.blockOp
  dsimp only
  split
  · exact memsOk_ite (memsOk_raiseHeld _ _ _ _ _ h) (memsOk_ite (memsOk_raiseLogged _ _ _ _ _ h) (memsOk_opDone _ _ _
      (memsOk_raiseOp _ _ _ _ _ h)))
  · exact memsOk_ite (memsOk_toSideLog _ _ _ _ (memsOk_reportFault _ _ _ _ _ h)) (memsOk_ite h (memsOk_framed
      (memsOk_reportFault _ _ _ _ _ h) ⟨rfl, rfl, rfl, rfl⟩))

theorem memsOk_retryInRegion (s : State) (o : MemOp) (w : Who) (a : AccForm) (x : MArgs) (t : TryRegion) (h : memsOk s = true) :
    memsOk (s.retryInRegion o w a x t) = true := by
  unfold State.retryInRegion
  split
  · exact memsOk_opDone _ _ _ (memsOk_goOn _ _ _ ((triedOk_tryAccess _ _ _ _ _ _ _ h).done ‹_› :))
  · exact memsOk_raiseHeld _ _ _ _ _ h
  · exact memsOk_ite h (memsOk_framed (memsOk_reportFault _ _ _ _ _ h) ⟨rfl, rfl, rfl, rfl⟩)
  · exact (mild_abortGroup _ _ _ _ _).memsOk h

theorem memsOk_retirePlain (s : State) (o : MemOp) (w : Who) (a : AccForm) (h : memsOk s = true) :
    memsOk (s.retirePlain o w a) = true := by
  unfold State.retirePlain
  extract_lets before
  have hbefore : memsOk before = true := h
  split
  · exact h
  · split
    · exact memsOk_ite (memsOk_toSideLog _ _ _ _ h) h
    · split
      · exact memsOk_retireOp _ _ _ _ _ ((performedOk_performOp _ _ _ _ _ h).done ‹_›)
      · exact memsOk_blockOp _ _ _ _ _ _ h
      · exact memsOk_opDone _ _ _ (memsOk_goOn _ _ _ h)

theorem memsOk_tryRetire (s : State) (o : MemOp) (w : Who) (a : AccForm) (h : memsOk s = true) :
    memsOk (s.tryRetire o w a) = true := by
  unfold State.tryRetire
  split
  · exact memsOk_ite (memsOk_retryInRegion _ _ _ _ _ _ h) (memsOk_retirePlain _ _ _ _ h)
  · exact memsOk_retirePlain _ _ _ _ h

theorem outOk_execLongLatencyRetirement (op : Nat) (s : State) (h : memsOk s = true) :
    OutOk (execLongLatencyRetirement op s) := by
  unfold execLongLatencyRetirement
  split
  · exact h
  · split
    · exact memsOk_ite (memsOk_tryRetire _ _ _ _ h) h
    · exact h

theorem outOk_execHeldAccessResume (op : Nat) (s : State) (h : memsOk s = true) : OutOk (execHeldAccessResume op s) := by
  unfold execHeldAccessResume
  split
  · exact h
  · split
    · exact h
    · exact memsOk_ite (memsOk_ite (memsOk_opDone _ _ _ (memsOk_wakeIf _ _ _ _ h)) h) h

theorem replayOk_replayEntry (s : State) (o : MemOp) (h : memsOk s = true) : ReplayOk (s.replayEntry o) := by
  unfold State.replayEntry
  split
  · split
    · trivial
    · split
      · trivial
      · split
        · split
          · trivial
          · split
            · exact memsOk_opDone _ _ _ ((performedOk_performOp _ _ _ _ _ h).done ‹_› :)
            · split <;> trivial
            · trivial
        · split
          · trivial
          · split
            · exact memsOk_opDone _ _ _ ((performedOk_performOp _ _ _ _ _ h).done ‹_› :)
            · split <;> trivial
            · trivial
  · trivial

theorem optOk_replayFirst (s : State) (l : List MemOp) (h : memsOk s = true) : OptOk (s.replayFirst l) := by
  induction l with
  | nil =>
    unfold State.replayFirst
    trivial
  | cons y l ih =>
    unfold State.replayFirst
    split
    · exact (replayOk_replayEntry _ _ h).done ‹_›
    · split
      · exact memsOk_raiseLogged _ _ _ _ _ h
      · split
        · exact memsOk_reportFault _ _ _ _ _ h
        · exact ih
      · exact h
    · exact ih

theorem outOk_execSideLogReplay (core : Nat) (s : State) (h : memsOk s = true) : OutOk (execSideLogReplay core s) :=
  (optOk_replayFirst _ _ h).getD h

theorem outOk_execL1WritebackTimeout (core line : Nat) (s : State) (h : memsOk s = true) :
    OutOk (execL1WritebackTimeout core line s) := by
  unfold execL1WritebackTimeout
  split
  · exact memsOk_ite (memsOk_writeBack _ _ _ h) h
  · exact h

theorem outOk_execL1CleanCopyExpiry (core line : Nat) (s : State) (h : memsOk s = true) :
    OutOk (execL1CleanCopyExpiry core line s) := by
  unfold execL1CleanCopyExpiry
  split
  · exact memsOk_ite (memsOk_evictCopy _ _ _ h) h
  · exact h

end Sys2Proof.Machine
end

/-! SUPPORT. The canonical form of the memories: the matrix engine and byte rings. -/

section

namespace Sys2Proof.Machine

open Sys2Proof

/-! ### Matrix forms -/

theorem checkOk_tensorRecord (s : State) (w : Who) (i : Instr) (h : memsOk s = true) : CheckOk (s.tensorRecord w i) := by
  unfold State.tensorRecord
  split
  · trivial
  · dsimp only
    split
    · trivial
    · split
      · exact h
      · split
        next gva f _ =>
          have held := bodyOk_hold s w i gva f h
          cases e : s.hold w i gva f with
          | error x => exact held.error e
          | ok _ => trivial
        · split <;> trivial

theorem bodyOk_acceptMx (s : State) (w : Who) (i : Instr) (p : MxPlan) (h : memsOk s = true) : BodyOk (s.acceptMx w i p) := by
  unfold State.acceptMx
  split
  · trivial
  · split
    · exact h
    · split
      · exact h
      · dsimp only
        exact (mild_advance _ _).memsOk (memsOk_nextId (memsOk_updGroup _ _ _ (memsOk_ite (memsOk_cleanTeam _ _ _ h) h)))

theorem outOk_mxForm (s : State) (i : Instr) (plan : Who → Except Stop MxPlan) (h : memsOk s = true)
    (hp : ∀ w, CheckOk (plan w)) : OutOk (mxForm s i plan) :=
  outOk_engineForm _ _ h (fun w => by
    have planned := hp w
    split
    · exact planned.error ‹_›
    · exact bodyOk_acceptMx _ _ _ _ h)

theorem outOk_execMxloop (x : Args) (s : State) (h : memsOk s = true) : OutOk (execMxloop x s) := by
  unfold execMxloop
  dsimp only
  refine outOk_mxForm _ _ _ h (fun w => ?_)
  split <;> trivial

theorem outOk_execMxstep (x : Args) (s : State) (h : memsOk s = true) : OutOk (execMxstep x s) := by
  unfold execMxstep
  refine outOk_mxForm _ _ _ h (fun w => ?_)
  split <;> trivial

theorem outOk_execMxzero (fn : MxzeroFn) (x : Args) (s : State) (h : memsOk s = true) : OutOk (execMxzero fn x s) :=
  outOk_mxForm _ _ _ h (fun _ => trivial)

theorem outOk_execMxld (fn : MxldFn) (x : Args) (s : State) (h : memsOk s = true) : OutOk (execMxld fn x s) := by
  unfold execMxld
  dsimp only
  refine outOk_mxForm _ _ _ h (fun w => ?_)
  split <;> trivial

theorem outOk_execMxst (fn : MxstFn) (x : Args) (s : State) (h : memsOk s = true) : OutOk (execMxst fn x s) := by
  unfold execMxst
  dsimp only
  refine outOk_mxForm _ _ _ h (fun w => ?_)
  split
  · trivial
  · split
    · exact (checkOk_tensorRecord _ _ _ h).error ‹_›
    · split <;> trivial

theorem outOk_execMxprogRd (x : Args) (s : State) (h : memsOk s = true) : OutOk (execMxprogRd x s) := by
  unfold execMxprogRd
  dsimp only
  refine outOk_run h (fun w => ?_)
  split
  · exact (checkOk_pre _ _ _ h).error ‹_›
  · exact (mild_advance _ _).memsOk (memsOk_putScalar _ _ _ _ h)

theorem outOk_execMxprogWr (x : Args) (s : State) (h : memsOk s = true) : OutOk (execMxprogWr x s) :=
  outOk_mxForm _ _ _ h (fun _ => trivial)

theorem outOk_execMxepi (fn : MxepiFn) (x : Args) (s : State) (h : memsOk s = true) : OutOk (execMxepi fn x s) := by
  unfold execMxepi
  dsimp only
  refine outOk_mxForm _ _ _ h (fun w => ?_)
  split
  · trivial
  · split
    · exact (checkOk_tensorRecord _ _ _ h).error ‹_›
    · trivial
  · trivial

theorem outOk_execQscale (fn : BsFn) (x : Args) (s : State) (h : memsOk s = true) : OutOk (execQscale fn x s) := by
  refine outOk_mxForm _ _ _ h (fun w => ?_)
  dsimp only
  split
  · split <;> trivial
  · trivial

theorem outOk_execQcvt (fn : BsFn) (x : Args) (s : State) (h : memsOk s = true) : OutOk (execQcvt fn x s) := by
  unfold execQcvt
  dsimp only
  refine outOk_mxForm _ _ _ h (fun w => ?_)
  split
  · trivial
  · split <;> trivial

theorem memsOk_l2Rows (s : State) (g : Group) (l : List (List Loc)) (h : memsOk s = true) : memsOk (s.l2Rows g l) = true :=
  memsOk_l2Lines _ _ _ _ (memsOk_touch _ _ _ h)

theorem mxDoneOk_runLoop (s : State) (gid : Nat) (g : Group) (op : MxOp) (x : Args) (h : memsOk s = true) :
    MxDoneOk (s.runLoop gid g op x) := by
  have stepped : ∀ (a b : List (List Loc)) (t : Nat) (r : Tile × FlagSet) (f : MxState → MxState),
      memsOk ((((((s.l2Rows g a).l2Rows g b).writeTile gid g t r).countStep g)).updMx gid f) = true := fun _ _ _ _ _ =>
    memsOk_updMx _ _ _ (memsOk_countStep _ _ (memsOk_writeTile _ _ _ _ _ (memsOk_l2Rows _ _ _ (memsOk_l2Rows _ _ _ h))))
  unfold State.runLoop
  extract_lets m fin
  split
  · exact h
  · split
    · exact h
    · split
      · trivial
      · split
        · trivial
        · dsimp only
          split
          · exact stepped _ _ _ _ _
          · exact stepped _ _ _ _ _

theorem memsOk_runStep (s : State) (gid : Nat) (g : Group) (op : MxOp) (x : Args) (h : memsOk s = true) :
    memsOk (s.runStep gid g op x) = true := by
  unfold State.runStep
  split
  · exact h
  · extract_lets n m need ar br s1
    have h1 : memsOk s1 = true := h
    exact h1

theorem memsOk_noteMx (s : State) (g : Group) (op : MxOp) (h : memsOk s = true) : memsOk (s.noteMx g op) = true :=
  memsOk_foldl _ _ (fun _ _ hs => memsOk_noteEngine _ _ _ _ hs) _ h

theorem mxDoneOk_runMx (s : State) (gid : Nat) (g : Group) (op : MxOp) (h : memsOk s = true) : MxDoneOk (s.runMx gid g op) := by
  unfold State.runMx
  split
  · exact mxDoneOk_runLoop _ _ _ _ _ h
  · exact memsOk_runStep _ _ _ _ _ h
  · exact h
  · exact h
  · dsimp only
    split
    · trivial
    · split
      · exact memsOk_updMx _ _ _ (memsOk_l2Rows _ _ _ h)
      · exact memsOk_updMx _ _ _ (memsOk_l2Rows _ _ _ h)
      · exact memsOk_framed (memsOk_l2Rows _ _ _ h) ⟨rfl, rfl, rfl, rfl⟩
  · dsimp only
    split
    · trivial
    · exact memsOk_updMx _ _ _ (memsOk_moveAll _ _ _ _ h)
  · exact h
  · split
    · split
      · trivial
      · dsimp only
        exact memsOk_writeTile _ _ _ _ _ (memsOk_l2Rows _ _ _ h)
    · exact h
  · dsimp only
    split
    · trivial
    · exact memsOk_updHalf _ _ _ (memsOk_l2Rows _ _ _ h)
  · split
    · exact h
    · split
      · exact h
      · split
        · trivial
        · exact memsOk_updHalf _ _ _ (memsOk_moveAll _ _ _ _ h)
  · exact h

/-! ### Rings -/

theorem memsOk_ringPut (s : State) (w : Who) (own : Bool) (l : List Loc) (b : List Byte) (h : memsOk s = true) :
    memsOk (s.ringPut w own l b) = true := memsOk_writeHome _ _ _ _ _ _ _ h

theorem memsOk_ringField (s : State) (w : Who) (x : RingAt) (off v : Nat) (h : memsOk s = true) :
    memsOk (s.ringField w x off v) = true := memsOk_ringPut _ _ _ _ _ h

theorem memsOk_zeroHeaders (s : State) (w : Who) (x : RingAt) (stop : Nat) (n : Nat) (a : Nat) (h : memsOk s = true) :
    memsOk (s.zeroHeaders w x stop n a) = true := by
  induction n generalizing s a with
  | zero => exact h
  | succ n ih =>
    unfold State.zeroHeaders
    exact memsOk_ite h (ih _ _ (memsOk_ringPut _ _ _ _ _ h))

theorem memsOk_joinRing (s : State) (r : RingWait) (h : memsOk s = true) : memsOk (s.joinRing r) = true := memsOk_ite h h

theorem memsOk_ringServed (s : State) (w : Who) (key : Nat) (h : memsOk s = true) : memsOk (s.ringServed w key) = true :=
  memsOk_foldl _ _ (fun _ _ hs => memsOk_push _ _ hs) _ h

theorem checkOk_openRing (s : State) (w : Who) (i : Instr) (ctl : W64) (h : memsOk s = true) :
    CheckOk (s.openRing w i ctl) := by
  unfold State.openRing
  split
  · split
    · exact (bodyOk_hold _ _ _ _ _ h).error ‹_›
    · exact h
  · dsimp only
    split
    · trivial
    · split
      · trivial
      · split
        · split
          · exact (bodyOk_hold _ _ _ _ _ h).error ‹_›
          · exact h
        · trivial

theorem memsOk_freshBlock (s : State) (w : Who) (ctl : W64) (h : memsOk s = true) : memsOk (s.freshBlock w ctl) = true := by
  unfold State.freshBlock
  split
  · dsimp only
    exact memsOk_prepareHome _ _ _ _ _ (memsOk_noteEngine _ _ _ _ (memsOk_noteEngine _ _ _ _ h))
  · exact h

theorem memsOk_pushRecord (s : State) (w : Who) (x : RingAt) (pad len tag : Nat) (src : List Loc) (h : memsOk s = true) :
    memsOk (s.pushRecord w x pad len tag src) = true := by
  unfold State.pushRecord
  extract_lets total s1 start s2 body s3 s4 s5
  have h1 : memsOk s1 = true := memsOk_ite h (memsOk_ringPut _ _ _ _ _ h)
  have h2 : memsOk s2 = true := memsOk_ringField _ _ _ _ _ h1
  have h3 : memsOk s3 = true := memsOk_ringPut _ _ _ _ _ h2
  have h4 : memsOk s4 = true := memsOk_poisonFrom _ _ _ h3
  have h5 : memsOk s5 = true := memsOk_ringPut _ _ _ _ _ h4
  exact memsOk_ringField _ _ _ _ _ h5

theorem memsOk_putOne (s : State) (w : Who) (x : Args) (v : W64) (h : memsOk s = true) : memsOk (s.putOne w x v) = true :=
  memsOk_putScalar _ _ _ _ h

theorem bodyOk_ringPush (s : State) (w : Who) (fn : NbFn) (x : Args) (ctl src : W64) (len : Nat) (h : memsOk s = true) :
    BodyOk (s.ringPush w fn x ctl src len) := by
  have answered : ∀ (u : State) (v : W64), memsOk u = true → memsOk ((u.putOne w x v).spoil w) = true := fun u v hu =>
    (mild_spoil _ _).memsOk (memsOk_putOne u w x v hu)
  unfold State.ringPush
  split
  · exact (checkOk_openRing _ _ _ _ h).error ‹_›
  · split
    · trivial
    · split
      · exact bodyOk_hold _ _ _ _ _ h
      · extract_lets total left pad s1
        split
        · split
          · exact (mild_advance _ _).memsOk (answered _ _ h)
          · exact memsOk_joinRing _ _ h
        · have pushed : memsOk s1 = true := memsOk_pushRecord _ _ _ _ _ _ _ (memsOk_cleanTeam _ _ _ h)
          exact (mild_advance _ _).memsOk (memsOk_ringServed _ _ _ (answered _ _ pushed))

theorem outOk_execRpush (fn : NbFn) (x : Args) (s : State) (h : memsOk s = true) : OutOk (execRpush fn x s) := by
  unfold execRpush
  dsimp only
  refine outOk_engineForm _ _ h (fun w => ?_)
  split
  · exact (checkOk_pre _ _ _ h).error ‹_›
  · trivial
  · split
    · exact h
    · exact bodyOk_ringPush _ _ _ _ _ _ _ (memsOk_freshBlock _ _ _ h)

theorem memsOk_popRingRecord (s : State) (w : Who) (x : RingAt) (pos len : Nat) (dst : List Loc) (h : memsOk s = true) :
    memsOk (s.popRingRecord w x pos len dst) = true := by
  unfold State.popRingRecord
  extract_lets stop s1 from_ s2 s3
  have h1 : memsOk s1 = true := memsOk_ringField _ _ _ _ _ h
  have h2 : memsOk s2 = true := memsOk_ringPut _ _ _ _ _ h1
  have h3 : memsOk s3 = true := memsOk_poisonFrom _ _ _ h2
  exact memsOk_ringField _ _ _ _ _ (memsOk_zeroHeaders _ _ _ _ _ _ h3)

theorem bodyOk_ringPop (s : State) (w : Who) (fn : NbFn) (x : Args) (ctl dst : W64) (cap : Nat) (h : memsOk s = true) :
    BodyOk (s.ringPop w fn x ctl dst cap) := by
  have answered : ∀ (u : State) (v : W64), memsOk u = true → memsOk ((u.putOne w x v).spoil w) = true := fun u v hu =>
    (mild_spoil _ _).memsOk (memsOk_putOne u w x v hu)
  unfold State.ringPop
  split
  · exact (checkOk_openRing _ _ _ _ h).error ‹_›
  · extract_lets key older pos s1 hd len s2
    have h1 : memsOk s1 = true := memsOk_ite h (memsOk_ringField _ _ _ _ _ h)
    have h2 : memsOk s2 = true := memsOk_l2Lines _ _ _ _ h
    split
    · split
      · exact (mild_advance _ _).memsOk (answered _ _ h1)
      · exact memsOk_joinRing _ _ ((mild_disarm _ _).memsOk h1)
    · split
      · trivial
      · split
        · exact bodyOk_hold _ _ _ _ _ h2
        · refine (mild_advance _ _).memsOk (memsOk_ringServed _ _ _ (answered _ _ (memsOk_acquire _ _ _ ?_)))
          exact memsOk_popRingRecord _ _ _ _ _ _ (memsOk_noteEngine _ _ _ _ h2)

theorem outOk_execRpop (fn : NbFn) (x : Args) (s : State) (h : memsOk s = true) : OutOk (execRpop fn x s) := by
  unfold execRpop
  dsimp only
  refine outOk_engineForm _ _ h (fun w => ?_)
  split
  · exact (checkOk_pre _ _ _ h).error ‹_›
  · trivial
  · split
    · exact h
    · exact bodyOk_ringPop _ _ _ _ _ _ _ (memsOk_freshBlock _ _ _ h)

theorem bodyOk_retryRing (s : State) (w : Who) (r : RingWait) (h : memsOk s = true) : BodyOk (s.retryRing w r) := by
  unfold State.retryRing
  dsimp only
  split
  · exact bodyOk_ringPush _ _ _ _ _ _ _ (memsOk_freshBlock _ _ _ h)
  · exact bodyOk_ringPop _ _ _ _ _ _ _ (memsOk_freshBlock _ _ _ h)

end Sys2Proof.Machine
end

/-! SUPPORT. The canonical form of the memories: what the engines complete, the end of groups and tasks, and the fetch. -/

section

namespace Sys2Proof.Machine

open Sys2Proof

/-! ### Engine operations that end -/

theorem memsOk_endOne (s : State) (gid : Nat) (cls : WaitcFn) (h : memsOk s = true) : memsOk (s.endOne gid cls) = true :=
  memsOk_engineMoved _ _ h

theorem memsOk_endOwing (s : State) (gid : Nat) (cls : WaitcFn) (code : Nat) (tval : Option W64) (h : memsOk s = true) :
    memsOk (s.endOwing gid cls code tval) = true := memsOk_engineMoved _ _ h

theorem memsOk_endColl (s : State) (gid op : Nat) (why : Option (Nat × Option W64)) (h : memsOk s = true) :
    memsOk (s.endColl gid op why) = true := memsOk_engineMoved _ _ h

theorem outOk_execCopyBatchComplete (g batch : Nat) (s : State) (h : memsOk s = true) :
    OutOk (execCopyBatchComplete g batch s) := by
  unfold execCopyBatchComplete
  dsimp only
  split
  · exact h
  · exact memsOk_ite (memsOk_engineMoved _ _ (memsOk_foldl _ _ (fun _ _ hs => memsOk_reportEngine _ _ _ _ hs) _ (memsOk_updGroup
      _ _ _ (memsOk_moveAll _ _ _ _ (memsOk_foldl _ _ (fun _ _ hs => memsOk_noteCopy _ _ _ hs) _ h))))) h

theorem memsOk_headBlocked (s : State) (gid : Nat) (cls : WaitcFn) (a : Nat) (f : WalkFail) (hold : Engines → Engines)
    (drop : Engines → Engines) (h : memsOk s = true) :
    memsOk (s.headBlocked gid cls a f hold drop) = true := by
  unfold State.headBlocked
  split
  · exact memsOk_endOwing _ _ _ _ _ h
  · exact memsOk_reportEngine _ _ _ _ h

theorem outOk_execGatherComplete (g : Nat) (s : State) (h : memsOk s = true) : OutOk (execGatherComplete g s) := by
  unfold execGatherComplete
  dsimp only
  split
  · exact h
  · split
    · exact h
    · split
      · exact h
      · split
        · exact memsOk_headBlocked _ _ _ _ _ _ _ (memsOk_noteSpans _ _ _ h)
        · exact memsOk_endOne _ _ _ (memsOk_updGroup _ _ _ (memsOk_moveAll _ _ _ _ (memsOk_noteSpans _ _ _ h)))

theorem outOk_execNetworkEntryPerformed (g : Nat) (s : State) (h : memsOk s = true) :
    OutOk (execNetworkEntryPerformed g s) := by
  unfold execNetworkEntryPerformed
  dsimp only
  split
  · exact h
  · split
    · exact h
    · split
      · exact h
      · split
        · exact memsOk_headBlocked _ _ _ _ _ _ _ (memsOk_noteEngine _ _ _ _ h)
        · exact memsOk_endOne _ _ _ (memsOk_updGroup _ _ _ (memsOk_moveAll _ _ _ _ (memsOk_noteEngine _ _ _ _ h)))

theorem memsOk_writeRed (s : State) (cluster : Nat) (r : RedGen) (h : memsOk s = true) :
    memsOk (s.writeRed cluster r) = true := by
  unfold State.writeRed
  extract_lets gid locs g s1
  have h1 : memsOk s1 = true := memsOk_writeHome _ _ _ _ _ _ _ h
  exact memsOk_ite (memsOk_free h1) h1

theorem memsOk_joinWaiting (s : State) (cluster : Nat) (l : List RedEntry) (h : memsOk s = true) :
    memsOk (s.joinWaiting cluster l) = true := by
  induction l generalizing s with
  | nil => exact h
  | cons y l ih =>
    unfold State.joinWaiting
    split
    · exact h
    · split
      · extract_lets lb s1
        have h1 : memsOk s1 = true := memsOk_updCluster _ _ _ h (fun _ hx => hx)
        exact ih _ (memsOk_ite h1 h1)
      · exact ih _ h

theorem memsOk_offerCluster (s0 : State) (cluster : Nat) (h : memsOk s0 = true) : memsOk (s0.offerCluster cluster) = true := by
  unfold State.offerCluster
  extract_lets s
  have hs : memsOk s = true := memsOk_joinWaiting _ _ _ h
  exact memsOk_foldl _ _ (fun _ _ hs => memsOk_offerOwed _ _ hs) _ hs

theorem outOk_execReductionGenerationComplete (cluster task dest : Nat) (s : State) (h : memsOk s = true) :
    OutOk (execReductionGenerationComplete cluster task dest s) := by
  unfold execReductionGenerationComplete
  dsimp only
  split
  · exact h
  · exact memsOk_ite h (memsOk_offerCluster _ _ (memsOk_foldl _ _ (fun _ _ hs => memsOk_endColl _ _ _ _ hs) _ (memsOk_ite
      (memsOk_updCluster _ _ _ h (fun _ hx => hx)) (memsOk_writeRed _ _ _ (memsOk_updCluster _ _ _ h (fun _ hx => hx))))))

theorem memsOk_genUp (s : State) (c : CollGen) (gid : Nat) (g : Group) (h : memsOk s = true) :
    memsOk (s.genUp c gid g) = true := memsOk_addHome _ _ _ _ _ _ h

theorem memsOk_keepResult (s : State) (gid op : Nat) (dst : W64) (v : List (W32 × Bool)) (why : Option (Nat × WalkFail))
    (h : memsOk s = true) :
    memsOk (s.keepResult gid op dst v why) = true := by
  unfold State.keepResult
  dsimp only
  split
  · exact h
  · split
    · exact memsOk_endColl _ _ _ _ h
    · exact memsOk_reportEngine _ _ _ _ h

theorem memsOk_endArrival (s : State) (c : CollGen) (v : List (W32 × Bool)) (a : Arrival) (h : memsOk s = true) :
    memsOk (s.endArrival c v a) = true := by
  unfold State.endArrival
  split
  · exact memsOk_endColl _ _ _ _ h
  · split
    · exact memsOk_endColl _ _ _ _ h
    · exact memsOk_keepResult _ _ _ _ _ _ h

theorem memsOk_noteResult (s : State) (gid : Nat) (dst : W64) (words : Nat) (h : memsOk s = true) :
    memsOk (s.noteResult gid dst words) = true := by
  unfold State.noteResult
  split
  · exact memsOk_noteEngine _ _ _ _ h
  · exact h

theorem memsOk_wakeColls (s : State) (h : memsOk s = true) : memsOk s.wakeColls = true := memsOk_wakeAll _ _ h

/-- The generation's words move, its GEN rises, and each participant's operation ends (R262). -/
theorem memsOk_finishColl (s : State) (id : Nat) (c : CollGen) (h : memsOk s = true) : memsOk (s.finishColl id c) = true := by
  have noted := memsOk_foldl c.arrivals _ (fun u a hu => memsOk_noteResult u a.gid a.dst (s.collResult c).length hu) s h
  unfold State.finishColl
  split
  · exact h
  · split
    · exact h
    · extract_lets v moves gen s0 s1 s2
      have h1 : memsOk s1 = true := by
        refine memsOk_genUp _ _ _ _ (memsOk_foldl _ _ (fun _ _ hs => memsOk_noteWrote _ _ _ hs) _ ?_)
        exact memsOk_foldl _ _ (fun _ _ hs => memsOk_noteWrote _ _ _ hs) _ (memsOk_moveWords _ _ _ _ _ noted)
      have h2 : memsOk s2 = true := memsOk_framed h1 ⟨rfl, rfl, rfl, rfl⟩
      exact memsOk_wakeColls _ (memsOk_foldl _ _ (fun _ _ hs => memsOk_endArrival _ _ _ _ hs) _ h2)

theorem memsOk_retryStart (s : State) (gid : Nat) (g : Group) (o : CollStart) (h : memsOk s = true) :
    memsOk (s.retryStart gid g o) = true := by
  unfold State.retryStart
  dsimp only
  split
  · exact ((collReadOk_readColl _ _ _ _ (memsOk_noteColl _ _ _ h)).arrived ‹_› :)
  · exact h
  · split
    · exact memsOk_endColl _ _ _ _ h
    · exact memsOk_reportEngine _ _ _ _ h
  · exact memsOk_endColl _ _ _ _ h

theorem memsOk_retryWrite (s : State) (gid : Nat) (g : Group) (o : CollWrite) (h : memsOk s = true) :
    memsOk (s.retryWrite gid g o) = true := by
  unfold State.retryWrite
  dsimp only
  split
  · exact memsOk_endColl _ _ _ _ (memsOk_moveAll _ _ _ _ (memsOk_noteResult _ _ _ _ h))
  · exact memsOk_keepResult _ _ _ _ _ _ h

theorem memsOk_retryColl (s : State) (op : Nat) (h : memsOk s = true) : memsOk (s.retryColl op) = true := by
  unfold State.retryColl
  split
  · exact h
  · split
    · exact memsOk_ite (memsOk_retryStart _ _ _ _ h) h
    · exact memsOk_ite (memsOk_retryWrite _ _ _ _ h) h
    · exact h

theorem outOk_execCollGenerationComplete (coll : Nat) (s : State) (h : memsOk s = true) :
    OutOk (execCollGenerationComplete coll s) := by
  unfold execCollGenerationComplete
  split
  · exact memsOk_retryColl _ _ h
  · exact memsOk_ite (memsOk_finishColl _ _ _ h) h

theorem outOk_execRingWaitWake (g f : Nat) (s : State) (h : memsOk s = true) : OutOk (execRingWaitWake g f s) := by
  unfold execRingWaitWake
  split
  · exact h
  next w _ =>
    have left := (mild_wake _ g f).memsOk ((mild_leaveWaits s g (fun k => k == f)).memsOk h)
    cases s.ringOf w with
    | none => exact h
    | some r =>
      have retried := bodyOk_retryRing s w r h
      dsimp only [Option.map_some]
      split
      next e => exact retried.ok (Option.some.inj e)
      next e => exact (mild_setStatus _ _ _ _).memsOk (retried.error (Option.some.inj e))
      · exact memsOk_ite left ((mild_raisePrecise _ _ _ _ _).memsOk left)
      · exact h

theorem memsOk_refuseEngine (s : State) (gid op code : Nat) (addr : W64) (h : memsOk s = true) :
    memsOk (s.refuseEngine gid op code addr) = true := by
  unfold State.refuseEngine
  split
  · exact h
  · dsimp only
    split
    · exact memsOk_engineMoved _ _ h
    · split
      · exact memsOk_endOwing _ _ _ _ _ h
      · split
        · exact memsOk_endOwing _ _ _ _ _ h
        · split
          · exact memsOk_endOwing _ _ _ _ _ h
          · split
            · exact memsOk_endColl _ _ _ _ h
            · exact memsOk_ite (memsOk_endColl _ _ _ _ h) h

theorem outOk_execEngineOperationRefused (g op : Nat) (code : Nat) (addr : W64) (s : State) (h : memsOk s = true) :
    OutOk (execEngineOperationRefused g op code addr s) := memsOk_refuseEngine _ _ _ _ _ h

theorem outOk_execMatrixFormComplete (g : Nat) (s : State) (h : memsOk s = true) : OutOk (execMatrixFormComplete g s) := by
  unfold execMatrixFormComplete
  split
  · exact h
  next x _ =>
    split
    · exact h
    next o _ =>
      have noted := memsOk_noteMx s x o h
      have ran := mxDoneOk_runMx _ g x o noted
      dsimp only
      split
      · split
        · exact memsOk_refuseEngine _ _ _ _ _ noted
        · exact memsOk_reportEngine _ _ _ _ (memsOk_updMx _ _ _ noted)
      next e => exact memsOk_countCycles _ _ (ran.more e)
      next e => exact memsOk_endOne _ _ _ (memsOk_updMx _ _ _ (memsOk_countCycles _ _ (ran.done e)))

/-! ### Groups, teams and tasks that end -/

theorem memsOk_releaseGroup (s : State) (gid : Nat) (g : Group) (h : memsOk s = true) :
    memsOk (s.releaseGroup gid g) = true :=
  memsOk_dropStaging _ _ _ ((mild_freeBlocks _ _ _ _).memsOk (memsOk_updCore _ _ _ ((mild_leaveWaits _ _ _).memsOk h)))

theorem memsOk_countExit (s : State) (task : Nat) (h : memsOk s = true) : memsOk (s.countExit task) = true := by
  unfold State.countExit
  split
  · exact h
  · extract_lets src
    have hsrc : memsOk src = true := memsOk_updTask _ _ _ h (fun _ hx => hx)
    exact hsrc

theorem memsOk_priv {s : State} {t : Table Mem} (h : memsOk s = true) (ht : t.all (fun e => e.2.wf) = true) :
    memsOk { s with mem := { s.mem with priv := t } } = true := by
  rw [memsOk_iff] at h ⊢
  obtain ⟨hsys, -, hrest⟩ := h
  exact ⟨hsys, ht, hrest⟩

/-- A group's own lane memories go with it (R79). -/
theorem memsOk_leave (s : State) (gid : Nat) (g : Group) (h : memsOk s = true) : memsOk (s.leave gid g) = true := by
  have h1 := memsOk_countExit _ g.task (memsOk_releaseGroup _ gid g (memsOk_cleanCore s g.core gid h))
  exact memsOk_framed (memsOk_priv h1 (dropPriv_all _ gid (privOk h1))) ⟨rfl, rfl, rfl, rfl⟩

theorem memsOk_completeTask (s : State) (id : Nat) (t : Task) (h : memsOk s = true) : memsOk (s.completeTask id t) = true := by
  unfold State.completeTask
  extract_lets s1 s2
  have h1 : memsOk s1 = true := memsOk_updTask _ _ _ h (fun _ hx => hx)
  have h2 : memsOk s2 = true := memsOk_foldl _ _ (fun _ _ hs => memsOk_addEdge _ _ _ _ _ hs) _ h1
  exact h2

theorem memsOk_lookTask (s : State) (id : Nat) (h : memsOk s = true) : memsOk (s.lookTask id) = true := by
  unfold State.lookTask
  split
  · exact h
  · exact memsOk_ite (memsOk_completeTask _ _ _ h) h

theorem memsOk_freeSram (s : State) (id : Nat) (t : Team) (h : memsOk s = true) : memsOk (s.freeSram id t) = true :=
  memsOk_ite h (memsOk_updCluster _ _ _ h (fun _ hx => Table.all_del Mem.wf _ _ hx))

theorem memsOk_lookTeam (s : State) (id : Nat) (h : memsOk s = true) : memsOk (s.lookTeam id) = true := by
  unfold State.lookTeam
  split
  · exact h
  · split
    · extract_lets s1
      have h1 : memsOk s1 = true := memsOk_updTeam _ _ _ (memsOk_freeSram _ _ _ h)
      exact h1
    · exact h

theorem memsOk_raiseAtExit (s : State) (w : Who) (code : Nat) (tv : Option W64) (h : memsOk s = true) :
    memsOk (s.raiseAtExit w code tv) = true := by
  unfold State.raiseAtExit
  split
  · exact (mild_raiseIn _ _ _ _ _ _).memsOk ((mild_orFree s tv).memsOk h)
  · exact memsOk_raiseOwed _ _ _ _ h

theorem memsOk_tryLeave (s : State) (gid : Nat) (g : Group) (f : Frag) (h : memsOk s = true) :
    memsOk (s.tryLeave gid g f) = true := by
  unfold State.tryLeave
  dsimp only
  split
  · exact h
  · split
    · exact memsOk_raiseAtExit _ _ _ _ h
    · split
      next e =>
        split at e
        · exact memsOk_raiseAtExit _ _ _ _ (memsOk_droppedCause h e)
        · cases e
      · refine memsOk_ite ?_ h
        have left := memsOk_foldl (s.pairOf gid g) _ (fun s e hs => memsOk_leave s e.1 e.2 hs) s h
        exact memsOk_lookTask _ _ (memsOk_lookTrigger _ _ (memsOk_lookTeam _ _ left))

theorem outOk_execGroupLeavesCore (g : Nat) (s : State) (h : memsOk s = true) : OutOk (execGroupLeavesCore g s) := by
  unfold execGroupLeavesCore
  split
  · exact h
  · split
    · exact h
    · exact memsOk_ite h (memsOk_tryLeave _ _ _ _ h)

theorem memsOk_flushRegion (s : State) (ctx : Nat) (ranges : List (W64 × W64)) (h : memsOk s = true) :
    memsOk (s.flushRegion ctx ranges) = true := memsOk_foldl _ _ (fun _ _ hs => memsOk_flushCore _ _ _ hs) _ h

theorem outOk_execEdgeFlushEnd (edge : Nat) (s : State) (h : memsOk s = true) : OutOk (execEdgeFlushEnd edge s) := by
  unfold execEdgeFlushEnd
  dsimp only
  split
  · exact h
  · split
    · exact h
    · exact memsOk_push _ _ (memsOk_framed (memsOk_flushRegion _ _ _ h) ⟨rfl, rfl, rfl, rfl⟩)

/-! ### The fetch -/

theorem checkOk_word (s : State) (w : Who) (line : List Byte) (h : memsOk s = true) : CheckOk (s.word w line) := by
  unfold State.word
  split
  · trivial
  · split
    · trivial
    · split
      · trivial
      · split
        · trivial
        · split
          · trivial
          · split
            · trivial
            · split
              · exact h
              · trivial

theorem memsOk_lineGood (s : State) (w : Who) (h : memsOk s = true) : memsOk (s.lineGood w) = true := by
  unfold State.lineGood
  extract_lets a s1 s2
  have h1 : memsOk s1 = true := memsOk_ite h h
  have h2 : memsOk s2 = true := memsOk_cacheTlb _ _ _ _ _ h1
  split
  · exact memsOk_fetchUse _ _ _ h2
  · exact h2

theorem pickOk_fetch (s : State) (c : Issuer) (h : memsOk s = true) : PickOk (s.fetch c) := by
  unfold State.fetch
  split
  · exact h
  next w _ =>
    have good := memsOk_lineGood s w h
    split
    · exact memsOk_settle _ h (stopOk_fetchHold _ _ _ _ h)
    next line _ =>
      split
      · exact h
      · split
        · exact memsOk_entryFails _ _ good
        · split
          · exact good
          next e => exact memsOk_settle _ good ((checkOk_word _ _ _ good).error e)

theorem memsOk_startSecond (s : State) (x : Start) (h : memsOk s = true) : memsOk (s.startSecond x) = true := by
  unfold State.startSecond
  split
  · exact memsOk_ite h h
  · exact h

end Sys2Proof.Machine
end

/-! SUPPORT. The canonical form of the memories: the market forms, placement and pre-emption. -/

section

namespace Sys2Proof.Machine

open Sys2Proof

/-! ### The market forms -/

theorem outOk_execBid (cls : MktClass) (x : Args) (s : State) (h : memsOk s = true) : OutOk (execBid cls x s) :=
  outOk_engineForm _ _ h (fun _ => (mild_advance _ _).memsOk ((mild_disarm _ _).memsOk (memsOk_updCtx s _ _ h)))

theorem outOk_execBidrd (cls : MktClass) (x : Args) (s : State) (h : memsOk s = true) : OutOk (execBidrd cls x s) := by
  unfold execBidrd
  dsimp only
  refine outOk_run h (fun w => ?_)
  split
  · exact (checkOk_pre _ _ _ h).error ‹_›
  · exact (mild_advance _ _).memsOk (memsOk_putScalar _ _ _ _ h)

theorem outOk_execLease (cls : MktClass) (x : Args) (s : State) (h : memsOk s = true) : OutOk (execLease cls x s) := by
  unfold execLease
  dsimp only
  refine outOk_run h (fun w => ?_)
  split
  · exact (checkOk_pre _ _ _ h).error ‹_›
  · exact (mild_advance _ _).memsOk (memsOk_putScalar _ _ _ _ ((mild_orFree _ _).memsOk h))

theorem outOk_execMighintOn (x : Args) (s : State) (h : memsOk s = true) : OutOk (execMighintOn x s) := by
  unfold execMighintOn
  dsimp only
  refine outOk_engineForm _ _ h (fun w => ?_)
  split
  · trivial
  · exact h

theorem outOk_execMighintOff (x : Args) (s : State) (h : memsOk s = true) : OutOk (execMighintOff x s) :=
  outOk_engineForm _ _ h (fun _ => (mild_advance _ _).memsOk ((mild_disarm _ _).memsOk (memsOk_updCtx s _ _ h)))

/-! ### Placement -/

theorem memsOk_feMiss (s : State) (ctx gva : Nat) (f : WalkFail) (held : Option W64) (h : memsOk s = true) :
    memsOk (s.feMiss ctx gva f held) = true := by
  unfold State.feMiss
  split
  · exact h
  · split <;> exact h

theorem memsOk_feNote (s : State) (ctx a : Nat) (l : List Loc) (h : memsOk s = true) : memsOk (s.feNote ctx a l) = true :=
  memsOk_touch _ _ _ (memsOk_noteRange _ _ _ _ _ _ h)

theorem memsOk_feRead (s : State) (ctx a : Nat) (l : List Loc) (h : memsOk s = true) : memsOk (s.feRead ctx a l) = true :=
  memsOk_l2Lines _ _ _ _ (memsOk_feNote _ _ _ _ h)

theorem memsOk_forward (s : State) (id : Nat) (h : memsOk s = true) : memsOk (s.forward id) = true := by
  unfold State.forward
  split
  · exact h
  · split
    · exact h
    · extract_lets s1 hot
      have h1 : memsOk s1 = true := memsOk_updTask _ _ _ h (fun _ hx => hx)
      exact memsOk_foldl _ _ (fun _ _ hs => memsOk_push _ _ hs) _ (memsOk_pages (s := s1) h1)

theorem memsOk_forwardAll (s : State) (ctx : Nat) (h : memsOk s = true) : memsOk (s.forwardAll ctx) = true :=
  memsOk_foldl _ _ (fun _ _ hs => memsOk_forward _ _ hs) _ h

theorem memsOk_takeRoom (s : State) (core octet n gid slot : Nat) (h : memsOk s = true) :
    memsOk (s.takeRoom core octet n gid slot) = true := memsOk_shrinkL1 _ _ _ (memsOk_updCore _ _ _ h)

theorem memsOk_birth (s : State) (team : Nat) (t : Task) (task : Nat) (index core octet blocks extra : Nat) (access : Bool)
    (partner : Option Nat) (pc : Pc) (h : memsOk s = true) :
    memsOk (s.birth team t task index core octet blocks extra access partner pc) = true := by
  unfold State.birth
  extract_lets slot gid b s1
  have h1 : memsOk s1 = true := memsOk_takeRoom _ _ _ _ _ _ h
  exact memsOk_framed h1 ⟨rfl, rfl, rfl, rfl⟩

theorem memsOk_birthPair (s : State) (team task : Nat) (t : Task) (pc : Pc) (x : Nat × Nat × Nat) (alone : Bool)
    (h : memsOk s = true) :
    memsOk (s.birthPair team task t pc x alone) = true :=
  memsOk_ite (memsOk_birth _ _ _ _ _ _ _ _ _ _ _ _ h) (memsOk_birth _ _ _ _ _ _ _ _ _ _ _ _ (memsOk_birth _ _ _ _ _ _ _ _ _ _ _
    _ h))

theorem memsOk_firstPlacement (s : State) (task core : Nat) (h : memsOk s = true) :
    memsOk (s.firstPlacement task core) = true := by
  unfold State.firstPlacement
  split
  · exact h
  · exact memsOk_ite h (memsOk_updTask _ _ _ (memsOk_dropForeign _ _ h) (fun _ hx => hx))

theorem memsOk_reserveSram (s : State) (ctx task cluster n : Nat) (h : memsOk s = true) :
    memsOk (s.reserveSram ctx task cluster n) = true :=
  memsOk_updCluster _ _ _ h (fun _ hx => by split <;> exact hx)

theorem memsOk_resplitSram (s : State) (h : memsOk s = true) : memsOk s.resplitSram = true :=
  memsOk_clusters h (by rw [List.all_map]; exact clustersOk h)

theorem memsOk_openSpot (s : State) (ctx task : Nat) (l : Launch) (x : Spot) (h : memsOk s = true) :
    memsOk (s.openSpot ctx task l x) = true := by
  refine memsOk_reserveSram _ _ _ _ _ (memsOk_foldl _ _ (fun u k hu => ?_) _ h)
  exact memsOk_firstPlacement _ _ _ (memsOk_updHalf u _ _ hu)

theorem memsOk_entryLeft (s : State) (task team : Nat) (h : memsOk s = true) : memsOk (s.entryLeft task team) = true := by
  unfold State.entryLeft
  extract_lets s1
  have h1 : memsOk s1 = true := h
  split
  · exact h1
  · exact memsOk_foldl _ _ (fun _ _ hs => memsOk_ite (memsOk_push _ _ hs) hs) _ (memsOk_admitEnqs _ _ _ h1)

theorem memsOk_entryPlaced (s : State) (task : Nat) (h : memsOk s = true) : memsOk (s.entryPlaced task) = true := by
  unfold State.entryPlaced
  split
  · exact h
  · split
    · exact h
    · exact memsOk_ite h (memsOk_entryLeft _ _ _ h)

theorem memsOk_placeNew (s : State) (id : Nat) (t : Task) (x : Spot) (h : memsOk s = true) :
    memsOk (s.placeNew id t x) = true :=
  memsOk_entryPlaced _ _ (memsOk_updTask _ _ _ (memsOk_framed (memsOk_foldl _ _ (fun _ _ hs => memsOk_birthPair _ _ _ _ _ _ _
    hs) _ (memsOk_nextId (memsOk_openSpot _ _ _ _ _ h))) ⟨rfl, rfl, rfl, rfl⟩) (fun _ hx => hx))

/-! ### Saving a team -/

theorem memsOk_replayEntries (s : State) (l : List MemOp) (h : memsOk s = true) : memsOk (s.replayEntries l) = true := by
  induction l generalizing s with
  | nil => exact h
  | cons y l ih =>
    unfold State.replayEntries
    split
    · exact ih _ ((replayOk_replayEntry _ _ h).done ‹_›)
    · exact h

theorem memsOk_replayGroup (s : State) (gid : Nat) (h : memsOk s = true) : memsOk (s.replayGroup gid) = true :=
  memsOk_replayEntries _ _ h

theorem memsOk_cleanCtx (s : State) (core ctx : Nat) (h : memsOk s = true) : memsOk (s.cleanCtx core ctx) = true := by
  unfold State.cleanCtx
  split
  · exact h
  · exact memsOk_foldl _ _ (fun _ _ hs => memsOk_writeBack _ _ _ hs) _ h

theorem memsOk_quiesce (s : State) (gid : Nat) (h : memsOk s = true) : memsOk (s.quiesce gid) = true := by
  have h2 := memsOk_replayGroup _ gid ((mild_abortGroup s gid 0x07 0 none).memsOk h)
  unfold State.quiesce
  extract_lets s1 s2
  split
  · exact h2
  next g _ => exact memsOk_framed (memsOk_cleanCtx _ g.core g.ctx (memsOk_cleanCore _ g.core gid h2)) ⟨rfl, rfl, rfl, rfl⟩

theorem memsOk_saveTiles (s : State) (id : Nat) (t : Team) (h : memsOk s = true) : memsOk (s.saveTiles id t) = true := by
  unfold State.saveTiles
  refine memsOk_foldl _ _ (fun s x hs => ?_) _ h
  split
  · exact hs
  · split
    · exact hs
    · exact memsOk_updHalf _ _ _ (memsOk_updTeam _ _ _ hs)

theorem memsOk_saveStagings (s : State) (id : Nat) (t : Team) (h : memsOk s = true) : memsOk (s.saveStagings id t) = true := by
  unfold State.saveStagings
  refine memsOk_foldl _ _ (fun s x hs => ?_) _ h
  split
  · exact memsOk_ite (memsOk_updHalf _ _ _ (memsOk_updTeam _ _ _ hs)) hs
  · exact hs

theorem memsOk_setImage (s : State) (task k : Nat) {m : Mem} (h : memsOk s = true) (hm : m.wf = true) :
    memsOk (s.updTask task (fun x => { x with images := x.images.set k m })) = true :=
  memsOk_updTask _ _ _ h (fun _ hx => Table.all_set Mem.wf _ _ _ hx hm)

theorem memsOk_dropSram (s : State) (k task : Nat) (h : memsOk s = true) :
    memsOk (s.updCluster k (fun c => { c with sram := c.sram.del task, taken := c.taken.del task })) = true :=
  memsOk_updCluster _ _ _ h (fun _ hx => Table.all_del Mem.wf _ _ hx)

theorem memsOk_saveSram (s : State) (id : Nat) (t : Team) (h : memsOk s = true) : memsOk (s.saveSram id t) = true := by
  refine memsOk_ite h ?_
  dsimp only
  split
  · exact h
  next c e =>
    have held := Table.get_of_all (fun x : Cluster => x.sram.all (fun e => e.2.wf)) _ _ c (clustersOk h) e
    exact memsOk_dropSram _ _ _ (memsOk_setImage s _ _ h (memOf_wf _ _ held))

theorem memsOk_unitsFree (s : State) (gid : Nat) (g : Group) (h : memsOk s = true) : memsOk (s.unitsFree gid g) = true :=
  (mild_opGone _ _ _).memsOk h

theorem memsOk_writeImage (s : State) (id : Nat) (h : memsOk s = true) : memsOk (s.writeImage id) = true := by
  unfold State.writeImage
  split
  · exact h
  · split
    · exact h
    · split
      · exact h
      · dsimp only
        exact memsOk_updTeam _ _ _ (memsOk_writeHome _ _ _ _ _ _ _ h)

theorem memsOk_groupsFrom (s : State) (b : List Byte) (l : List (Nat × Group)) (h : memsOk s = true) :
    memsOk (s.groupsFrom b l) = true := by
  induction l generalizing s b with
  | nil => exact h
  | cons y l ih =>
    unfold State.groupsFrom
    exact ih _ _ h

theorem memsOk_readImage (s : State) (id : Nat) (t : Team) (h : memsOk s = true) : memsOk (s.readImage id t) = true := by
  unfold State.readImage
  split
  · exact h
  · extract_lets b live k tiles s1
    have h1 : memsOk s1 = true := memsOk_updTeam _ _ _ (memsOk_groupsFrom _ _ _ h)
    split
    · exact h1
    · exact memsOk_setImage _ _ _ h1 (Mem.writeL_wf _ _ rfl)

theorem memsOk_saveTeam (s : State) (id : Nat) (why : SaveReason) (h : memsOk s = true) :
    memsOk (s.saveTeam id why) = true := by
  unfold State.saveTeam
  split
  · exact h
  · split
    · exact h
    · extract_lets live s1 s2 s3
      have h1 : memsOk s1 = true := memsOk_foldl _ _ (fun _ _ hs => memsOk_quiesce _ _ hs) _ h
      have h2 : memsOk s2 = true := memsOk_saveSram _ _ _ (memsOk_saveTiles _ _ _ (memsOk_saveStagings _ _ _ h1))
      have h3 : memsOk s3 = true := by
        unfold s3
        refine memsOk_foldl _ _ (fun s x hs => ?_) _ ?_
        · split
          · exact memsOk_releaseGroup _ _ _ hs
          · exact hs
        · exact h2
      exact memsOk_writeImage _ _ (memsOk_foldl _ _ (fun _ _ hs => memsOk_unitsFree _ _ _ hs) _ h3)

theorem outOk_execPreemptSave (team : Nat) (why : SaveReason) (s : State) (h : memsOk s = true) :
    OutOk (execPreemptSave team why s) := memsOk_saveTeam _ _ _ h

/-! ### Restoring a team -/

theorem memsOk_seatGroup (s : State) (gid : Nat) (core octet extra : Nat) (h : memsOk s = true) :
    memsOk (s.seatGroup gid core octet extra) = true := by
  unfold State.seatGroup
  split
  · exact h
  · extract_lets slot s1 src
    have h1 : memsOk s1 = true := memsOk_takeRoom _ _ _ _ _ _ h
    have hsrc : memsOk src = true := h1
    exact memsOk_framed hsrc ⟨rfl, rfl, rfl, rfl⟩

theorem memsOk_seatPair (s : State) (t : Team) (x : Nat × Nat × Nat) (h : memsOk s = true) :
    memsOk (s.seatPair t x) = true := memsOk_foldl _ _ (fun _ _ hs => memsOk_ite (memsOk_seatGroup _ _ _ _ _ hs) hs) _ h

theorem memsOk_loadTiles (s : State) (id : Nat) (t : Team) (old : List (Nat × Group)) (h : memsOk s = true) :
    memsOk (s.loadTiles id t old) = true := by
  unfold State.loadTiles
  refine memsOk_updTeam _ _ _ ?_
  refine memsOk_foldl _ _ (fun s x hs => ?_) _ h
  split
  · exact hs
  · exact memsOk_ite hs (memsOk_updHalf _ _ _ hs)

theorem memsOk_loadStagings (s : State) (id : Nat) (t : Team) (h : memsOk s = true) : memsOk (s.loadStagings id t) = true := by
  unfold State.loadStagings
  refine memsOk_updTeam _ _ _ ?_
  refine memsOk_foldl _ _ (fun s x hs => ?_) _ h
  split
  · exact memsOk_updHalf _ _ _ hs
  · exact hs

theorem memsOk_loadSram (s : State) (t : Team) (cluster : Nat) (stood : Bool) (h : memsOk s = true) :
    memsOk (s.loadSram t cluster stood) = true := by
  unfold State.loadSram
  dsimp only
  split
  · exact h
  next m e =>
    obtain ⟨x, hx, hm⟩ := Option.bind_eq_some_iff.1 e
    have images := Table.get_of_all (fun x : Task => x.images.all (fun e => e.2.wf)) _ _ x (tasksOk h) hx
    have image := Table.get_of_all Mem.wf _ _ m images hm
    refine memsOk_updTask _ _ _ (memsOk_ite h ?_) (fun _ hy => Table.all_del Mem.wf _ _ hy)
    exact memsOk_updCluster _ _ _ h (fun _ hy => Table.all_set Mem.wf _ _ _ hy image)

theorem memsOk_raise3A (s : State) (id : Nat) (t : Team) (h : memsOk s = true) : memsOk (s.raise3A id t) = true := by
  unfold State.raise3A
  split
  · exact h
  · extract_lets s1
    have h1 : memsOk s1 = true := memsOk_updTeam _ _ _ h
    split
    · exact (mild_raiseLate _ _ _ _).memsOk h1
    · exact h1

theorem memsOk_moveReds (s : State) (gids : List Nat) (from_ to_ : Nat) (h : memsOk s = true) :
    memsOk (s.moveReds gids from_ to_) = true := by
  unfold State.moveReds
  split
  · exact h
  · split
    · exact h
    · dsimp only
      exact memsOk_offerCluster _ _ (memsOk_offerCluster _ _ (memsOk_updCluster _ _ _ (memsOk_updCluster _ _ _ h (fun _ hx =>
        hx)) (fun _ hx => hx)))

theorem memsOk_raise3D (s : State) (gids : List Nat) (h : memsOk s = true) : memsOk (s.raise3D gids) = true := by
  unfold State.raise3D
  refine memsOk_foldl _ _ (fun s x hs => ?_) _ h
  split
  · exact (mild_fatal _ _).memsOk ((mild_raiseLate _ _ _ _).memsOk hs)
  · exact hs

theorem memsOk_resumeOps (s : State) (gid : Nat) (h : memsOk s = true) : memsOk (s.resumeOps gid) = true := by
  unfold State.resumeOps
  extract_lets refused s1 s2 s3 s4
  have h1 : memsOk s1 = true := by
    unfold s1
    refine memsOk_foldl _ _ (fun s x hs => ?_) _ ?_
    · split
      · exact memsOk_refuseOp _ _ _ _ _ hs
      · exact hs
    · exact h
  have h2 : memsOk s2 = true := memsOk_replayGroup _ _ h1
  have h3 : memsOk s3 = true := memsOk_framed h2 ⟨rfl, rfl, rfl, rfl⟩
  have h4 : memsOk s4 = true := memsOk_offerOwed _ _ h3
  split
  · exact h4
  · exact memsOk_foldl _ _ (fun _ _ hs => memsOk_retryColl _ _ hs) _ h4

theorem memsOk_restoreAt (s0 : State) (id : Nat) (t0 : Team) (x : Spot) (h : memsOk s0 = true) :
    memsOk (s0.restoreAt id t0 x) = true := by
  unfold State.restoreAt
  extract_lets s t old l stood s1 s2 s3 s4 s5 s6
  have hs : memsOk s = true := memsOk_readImage _ _ _ h
  have h1 : memsOk s1 = true := memsOk_openSpot _ _ _ _ _ hs
  have h2 : memsOk s2 = true := memsOk_foldl _ _ (fun _ _ hs => memsOk_seatPair _ _ _ hs) _ h1
  have h3 : memsOk s3 = true := memsOk_loadSram _ _ _ _ (memsOk_loadStagings _ _ _ (memsOk_loadTiles _ _ _ _ h2))
  have h4 : memsOk s4 = true := memsOk_updTeam _ _ _ h3
  have h5 : memsOk s5 = true := memsOk_moveReds _ _ _ _ (memsOk_foldl _ _ (fun _ _ hs => memsOk_dropForeign _ _ hs) _ h4)
  have h6 : memsOk s6 = true := memsOk_raise3A _ _ _ (memsOk_foldl _ _ (fun _ _ hs => memsOk_resumeOps _ _ hs) _ h5)
  exact memsOk_ite h6 (memsOk_raise3D _ _ h6)

theorem optOk_restoreTeam (s : State) (id : Nat) (closed : List Nat) (h : memsOk s = true) :
    OptOk (s.restoreTeam id closed) := by
  unfold State.restoreTeam
  cases s.restoreSpot id closed with
  | none => trivial
  | some x => exact memsOk_restoreAt _ _ _ _ h

theorem outOk_execContextRestore (team : Nat) (s : State) (h : memsOk s = true) : OutOk (execContextRestore team s) :=
  (optOk_restoreTeam _ _ _ h).getD h

theorem memsOk_oweMoved (s : State) (id : Nat) (t : Team) (h : memsOk s = true) : memsOk (s.oweMoved id t) = true := by
  unfold State.oweMoved
  split
  · exact h
  · split
    · exact h
    · extract_lets s1
      have h1 : memsOk s1 = true := memsOk_updTeam _ _ _ h
      split
      · exact (mild_fatal _ _).memsOk h1
      · exact h1

theorem memsOk_oweAll (s : State) (h : memsOk s = true) : memsOk s.oweAll = true :=
  memsOk_foldl _ _ (fun _ _ hs => memsOk_oweMoved _ _ _ hs) _ h

theorem outOk_execDrainTimeout (team : Nat) (s : State) (h : memsOk s = true) : OutOk (execDrainTimeout team s) := by
  unfold execDrainTimeout
  split
  · exact h
  · split
    · exact memsOk_ite (memsOk_saveTeam _ _ _ h) h
    · exact h

theorem memsOk_discardGroup (s : State) (gid : Nat) (g : Group) (h : memsOk s = true) :
    memsOk (s.discardGroup gid g) = true := by
  have h1 := memsOk_releaseGroup s gid g h
  have h2 := memsOk_priv h1 (dropPriv_all _ gid (privOk h1))
  exact memsOk_framed (memsOk_updCluster _ (clusterNo g.core) (fun c => c.dropReds [gid]) h2 (fun _ hx => hx))
    ⟨rfl, rfl, rfl, rfl⟩

theorem memsOk_flushTeam (s : State) (id : Nat) (h : memsOk s = true) : memsOk (s.flushTeam id) = true := by
  unfold State.flushTeam
  split
  · exact h
  next t _ =>
    refine memsOk_ite h ?_
    extract_lets s1 s2
    have h1 : memsOk s1 = true := by
      refine memsOk_foldl _ _ (fun u e hu => ?_) _ h
      exact memsOk_unitsFree _ _ _ ((mild_setGroup _ _ _).memsOk (memsOk_discardGroup _ _ _ hu))
    have h2 : memsOk s2 = true := memsOk_groups h1
    exact memsOk_offerCluster _ _ (memsOk_updTeam _ _ _ (memsOk_freeSram s2 id t h2))

theorem outOk_execPreemptDrain (team : Nat) (s : State) (h : memsOk s = true) : OutOk (execPreemptDrain team s) :=
  memsOk_updTeam _ _ _ h

theorem outOk_execPreemptFlushRestart (team : Nat) (s : State) (h : memsOk s = true) :
    OutOk (execPreemptFlushRestart team s) := by
  unfold execPreemptFlushRestart
  dsimp only
  split
  · exact h
  · exact memsOk_ite ((optOk_restoreTeam _ _ _ (memsOk_flushTeam _ _ h)).getD (memsOk_flushTeam _ _ h)) h

theorem memsOk_preempt (s : State) (id : Nat) (why : SaveReason) (h : memsOk s = true) : memsOk (s.preempt id why) = true := by
  unfold State.preempt
  split
  · exact h
  · split
    · split
      · exact memsOk_updTeam _ _ _ h
      · exact memsOk_flushTeam _ _ h
      · exact memsOk_saveTeam _ _ _ h
    · exact h

theorem outOk_execTeamSwapOut (team : Nat) (s : State) (h : memsOk s = true) : OutOk (execTeamSwapOut team s) := by
  unfold execTeamSwapOut
  split
  · exact h
  · exact memsOk_ite (memsOk_saveTeam _ _ _ h) h

theorem outOk_execTeamSwapIn (team : Nat) (s : State) (h : memsOk s = true) : OutOk (execTeamSwapIn team s) := by
  unfold execTeamSwapIn
  split
  · exact h
  · exact memsOk_ite ((optOk_restoreTeam _ _ _ h).getD h) h

/-! ### Rounds -/

theorem memsOk_placeCand (s : State) (c : Candidate) (x : Spot) (h : memsOk s = true) : memsOk (s.placeCand c x) = true := by
  unfold State.placeCand
  split
  · split
    · exact memsOk_restoreAt _ _ _ _ h
    · exact h
  · split
    · exact memsOk_placeNew _ _ _ _ h
    · exact h

theorem memsOk_round (s : State) (ctx : Nat) (h : memsOk s = true) : memsOk (s.round ctx) = true := by
  unfold State.round
  extract_lets s0 s1
  have h0 : memsOk s0 = true := memsOk_framed h ⟨rfl, rfl, rfl, rfl⟩
  have h1 : memsOk s1 = true := memsOk_framed h0 ⟨rfl, rfl, rfl, rfl⟩
  split
  · dsimp only
    exact memsOk_ite h1 (memsOk_updDie _ _ _ (memsOk_placeCand _ _ _ h1) (fun _ hx => hx))
  · exact h1

theorem memsOk_seekEntries (s : State) (ctx : Nat) (h : memsOk s = true) : memsOk (s.seekEntries ctx) = true := by
  unfold State.seekEntries
  refine memsOk_foldl _ _ (fun s x hs => ?_) _ h
  split
  · exact memsOk_updTask _ _ _ (memsOk_feMiss _ _ _ _ _ hs) (fun _ hx => hx)
  · split
    · exact hs
    · exact memsOk_updTask _ _ _ hs (fun _ hx => hx)

theorem outOk_execPlacementRound (ctx : Nat) (s : State) (h : memsOk s = true) : OutOk (execPlacementRound ctx s) :=
  memsOk_ite (memsOk_round _ _ (memsOk_seekEntries _ _ (memsOk_forwardAll _ _ h))) h

theorem memsOk_setCand (s : State) (k : Nat) (f : Candidate → Candidate) (h : memsOk s = true) :
    memsOk (s.setCand k f) = true := by
  unfold State.setCand
  split
  · exact h
  · exact memsOk_framed h ⟨rfl, rfl, rfl, rfl⟩

theorem outOk_execCandidateAged (ctx cand : Nat) (s : State) (h : memsOk s = true) : OutOk (execCandidateAged ctx cand s) := by
  unfold execCandidateAged
  split
  · exact h
  · exact memsOk_ite (memsOk_setCand _ _ _ h) h

theorem outOk_execCandidateNoRegion (ctx cand : Nat) (s : State) (h : memsOk s = true) :
    OutOk (execCandidateNoRegion ctx cand s) := by
  unfold execCandidateNoRegion
  split
  · exact h
  · split
    · split
      · exact memsOk_setCand _ _ _ (memsOk_framed h ⟨rfl, rfl, rfl, rfl⟩)
      · exact h
    · exact h

end Sys2Proof.Machine
end

/-! SUPPORT. The canonical form of the memories: the front end and the command processor. -/

section

namespace Sys2Proof.Machine

open Sys2Proof

/-! ### Commands and queues -/

theorem memsOk_fePut (s : State) (ctx : Nat) (l : List Loc) (b : List Byte) (h : memsOk s = true) :
    memsOk (s.fePut ctx l b) = true := memsOk_writeHome _ _ _ _ _ _ _ h

theorem outOk_execDependenceMet (task k : Nat) (s : State) (h : memsOk s = true) : OutOk (execDependenceMet task k s) := by
  unfold execDependenceMet
  dsimp only
  split
  · exact h
  · split
    · split
      · exact memsOk_updTask _ _ _ (memsOk_feMiss _ _ _ _ _ h) (fun _ hx => hx)
      · exact memsOk_ite (memsOk_forward _ _ (memsOk_updTask _ _ _ (memsOk_feRead _ _ _ _ h) (fun _ hx => hx))) h
    · exact h

theorem outOk_execTriggerPoint (task : Nat) (s : State) (h : memsOk s = true) : OutOk (execTriggerPoint task s) := by
  unfold execTriggerPoint
  dsimp only
  split
  · exact h
  · split
    · exact h
    · split
      · exact memsOk_updTask _ _ _ h (fun _ hx => hx)
      · split
        · exact memsOk_updTask _ _ _ (memsOk_feMiss _ _ _ _ _ h) (fun _ hx => hx)
        · exact memsOk_updTask _ _ _ (memsOk_addHome _ _ _ _ _ _ (memsOk_feNote _ _ _ _ h)) (fun _ hx => hx)

theorem putOk_putQueue (s : State) (vq : Nat) (q : Queue) (h : memsOk s = true) : PutOk (s.putQueue vq q) := by
  unfold State.putQueue
  split
  · exact h
  · split
    · trivial
    · exact memsOk_fePut _ _ _ _ (memsOk_feNote _ _ _ _ h)

theorem memsOk_queueMiss (s : State) (vq gva : Nat) (f : WalkFail) (h : memsOk s = true) :
    memsOk (s.queueMiss vq gva f) = true := by
  unfold State.queueMiss
  split
  · exact memsOk_framed (memsOk_feMiss _ _ _ _ _ h) ⟨rfl, rfl, rfl, rfl⟩
  · exact h

theorem memsOk_notifyHost (s : State) (vq kind : Nat) (stat : W32) (value : W64) (h : memsOk s = true) :
    memsOk (s.notifyHost vq kind stat value) = true := by
  unfold State.notifyHost
  split
  · exact h
  · exact memsOk_ite h h

theorem outOk_execCommandComplete (cmd : Nat) (s : State) (h : memsOk s = true) : OutOk (execCommandComplete cmd s) := by
  unfold execCommandComplete
  split
  · exact h
  · split
    · exact h
    · extract_lets s1
      have h1 : memsOk s1 = true := h
      split
      · split
        · exact memsOk_sendPod _ _ _ _ _ h1
        · exact h1
      · split
        · exact memsOk_queueMiss _ _ _ _ h
        next e => exact memsOk_notifyHost _ _ _ _ _ ((putOk_putQueue s1 _ _ h1).ok e)

theorem memsOk_lineUp (s : State) (vq : Nat) (h : memsOk s = true) : memsOk (s.lineUp vq) = true := by
  unfold State.lineUp
  split
  · exact h
  · dsimp only
    exact h

theorem memsOk_stopQueue (s : State) (vq code : Nat) (h : memsOk s = true) : memsOk (s.stopQueue vq code) = true := by
  unfold State.stopQueue
  split
  · split
    · exact h
    next m _ =>
      split
      · exact memsOk_queueMiss _ _ _ _ h
      next e =>
        have put := (putOk_putQueue { s with mgmt := m } _ _ h).ok e
        exact memsOk_push _ _ (memsOk_notifyHost _ _ _ _ _ (memsOk_lineUp _ _ put))
  · exact h

theorem memsOk_take (s : State) (vq : Nat) (h : memsOk s = true) : memsOk (s.take vq) = true := by
  unfold State.take
  split
  · exact h
  · split
    · exact h
    · split
      · exact h
      · split
        · split
          · exact memsOk_queueMiss _ _ _ _ h
          · exact (putOk_putQueue _ _ _ h).ok ‹_›
        · extract_lets s1
          have h1 : memsOk s1 = true := memsOk_stopQueue _ _ _ h
          split
          · exact memsOk_ite h1 h1
          · exact h1

theorem outOk_execQueueMap (vq : Nat) (s : State) (h : memsOk s = true) : OutOk (execQueueMap vq s) := by
  unfold execQueueMap
  dsimp only
  split
  · exact memsOk_ite (memsOk_take _ _ (memsOk_framed (memsOk_framed h ⟨rfl, rfl, rfl, rfl⟩) ⟨rfl, rfl, rfl, rfl⟩))
      h
  · exact h

theorem memsOk_unmap (s : State) (vq : Nat) (h : memsOk s = true) : memsOk (s.unmap vq) = true :=
  memsOk_lineUp _ _ (memsOk_take _ _ (memsOk_framed h ⟨rfl, rfl, rfl, rfl⟩))

theorem outOk_execQueueUnmap (vq : Nat) (s : State) (h : memsOk s = true) : OutOk (execQueueUnmap vq s) := by
  unfold execQueueUnmap
  split
  · exact memsOk_ite (memsOk_stopQueue _ _ _ h) (memsOk_ite (memsOk_unmap _ _ h) h)
  · exact h

theorem outOk_execQueueTimesliceExpiry (vq : Nat) (s : State) (h : memsOk s = true) :
    OutOk (execQueueTimesliceExpiry vq s) := by
  unfold execQueueTimesliceExpiry
  split
  · split
    · exact memsOk_ite (memsOk_unmap _ _ h) h
    · exact h
  · exact h

theorem memsOk_passHead (s : State) (vq ctx : Nat) (q : Queue) (n : Nat) (hdr : List Loc) (h : memsOk s = true) :
    memsOk (s.passHead vq ctx q n hdr) = true := by
  unfold State.passHead
  split
  · exact memsOk_queueMiss _ _ _ _ h
  · exact memsOk_fePut _ _ _ _ ((putOk_putQueue _ _ _ h).ok ‹_›)

theorem memsOk_skipRecords (s : State) (vq ctx : Nat) (n : Nat) (h : memsOk s = true) :
    memsOk (s.skipRecords vq ctx n) = true := by
  induction n generalizing s with
  | zero => exact h
  | succ n ih =>
    unfold State.skipRecords
    split
    · exact h
    · split
      · extract_lets s1
        have h1 : memsOk s1 = true := memsOk_passHead _ _ _ _ _ _ h
        split
        · exact memsOk_ite h1 (ih _ h1)
        · exact h1
      · exact h

theorem memsOk_openPass (s : State) (vq : Nat) (h : memsOk s = true) : memsOk (s.openPass vq) = true := by
  unfold State.openPass
  extract_lets s0
  have h0 : memsOk s0 = true := memsOk_take _ _ h
  split
  · split
    · exact h0
    · extract_lets s1
      have h1 : memsOk s1 = true := memsOk_skipRecords _ _ _ _ h0
      split
      · exact h1
      · split
        · exact memsOk_queueMiss _ _ _ _ h1
        · exact memsOk_stopQueue _ _ _ h1
        · exact memsOk_framed h1 ⟨rfl, rfl, rfl, rfl⟩
        · exact memsOk_framed h1 ⟨rfl, rfl, rfl, rfl⟩
        · exact h1
  · exact h0

theorem outOk_execCpPass (s : State) (h : memsOk s = true) : OutOk (execCpPass s) :=
  memsOk_ite h (memsOk_framed (memsOk_foldl _ _ (fun _ _ hs => memsOk_openPass _ _ hs) _ h) ⟨rfl, rfl, rfl, rfl⟩)

/-! ### Packets -/

theorem memsOk_serve (s : State) (vq tag : Nat) (effect : Nat → List Byte → Served) (h : memsOk s = true)
    (he : ∀ ctx b, ServedOk (effect ctx b)) : memsOk (s.serve vq tag effect) = true := by
  unfold State.serve
  split
  · split
    · exact h
    · split
      · split
        · exact memsOk_ite (memsOk_stopQueue _ _ _ h) h
        · split
          · exact memsOk_stopQueue _ _ _ h
          · split
            · exact memsOk_queueMiss _ _ _ _ h
            · exact memsOk_queueMiss _ _ _ _ h
            · split
              next e => exact memsOk_passHead _ _ _ _ _ _ (memsOk_feRead _ _ _ _ ((he _ _).done e))
              · exact memsOk_stopQueue _ _ _ h
              · exact h
              · exact memsOk_queueMiss _ _ _ _ h
      · exact h
  · exact h

theorem servedOk_packetLocs (s : State) (ctx a n align : Nat) (need : Need) {body : List Loc → Served}
    (hb : ∀ l, ServedOk (body l)) : ServedOk (s.packetLocs ctx a n align need body) := by
  unfold State.packetLocs
  split
  · trivial
  · split
    · trivial
    · split
      · trivial
      · exact hb _

theorem outOk_execPktNop (vq : Nat) (s : State) (h : memsOk s = true) : OutOk (execPktNop vq s) :=
  memsOk_serve _ _ _ _ h (fun _ _ => h)

theorem memsOk_createTask (s : State) (c : Cmd) (ctx : Nat) (l : Launch) (h : memsOk s = true) :
    memsOk (s.createTask c ctx l) = true := by
  have tasks := Table.all_set (fun x : Task => x.images.all (fun e => e.2.wf)) _ (s.nextId + 1) (Task.fresh ctx s.nextId none l)
    (tasksOk h) rfl
  exact memsOk_forward _ _ (memsOk_tasks (s := { s with nextId := s.nextId + 2, cmds := s.cmds.set s.nextId c }) h tasks)

theorem memsOk_createCommand (s : State) (vq ctx : Nat) (l : Launch) (raw : List Byte) (h : memsOk s = true) :
    memsOk (s.createCommand vq ctx l raw) = true := by
  unfold State.createCommand
  split
  · exact memsOk_framed (memsOk_framed h ⟨rfl, rfl, rfl, rfl⟩) ⟨rfl, rfl, rfl, rfl⟩
  · exact memsOk_createTask _ _ _ _ h

theorem outOk_execPktLaunch (vq : Nat) (s : State) (h : memsOk s = true) : OutOk (execPktLaunch vq s) := by
  unfold execPktLaunch
  generalize 512 = n
  refine memsOk_serve s vq 1 _ h fun ctx p => servedOk_packetLocs _ _ _ _ _ _ fun l => ?_
  split
  · trivial
  · exact memsOk_createCommand _ _ _ _ _ (memsOk_feRead _ _ _ _ h)

theorem outOk_execPktWaitctr (vq : Nat) (s : State) (h : memsOk s = true) : OutOk (execPktWaitctr vq s) := by
  refine memsOk_serve s vq 2 _ h (fun ctx p => servedOk_packetLocs _ _ _ _ _ _ (fun l => ?_))
  split
  · exact memsOk_feRead _ _ _ _ h
  · trivial

theorem outOk_execPktStore64 (vq : Nat) (s : State) (h : memsOk s = true) : OutOk (execPktStore64 vq s) :=
  memsOk_serve s vq 3 _ h (fun _ _ => servedOk_packetLocs _ _ _ _ _ _ (fun _ =>
    memsOk_fePut _ _ _ _ (memsOk_feNote _ _ _ _ h)))

theorem outOk_execPktAdd64 (vq : Nat) (s : State) (h : memsOk s = true) : OutOk (execPktAdd64 vq s) :=
  memsOk_serve s vq 4 _ h (fun _ _ => servedOk_packetLocs _ _ _ _ _ _ (fun _ =>
    memsOk_addHome _ _ _ _ _ _ (memsOk_feNote _ _ _ _ h)))

theorem outOk_execPktDrain (vq : Nat) (s : State) (h : memsOk s = true) : OutOk (execPktDrain vq s) := by
  refine memsOk_serve s vq 5 _ h (fun _ _ => ?_)
  split
  · exact h
  · trivial

theorem memsOk_dropTask (s : State) (task team : Nat) (a : W64) (h : memsOk s = true) :
    memsOk (s.dropTask task team a) = true :=
  memsOk_entryLeft _ _ _ (memsOk_updTeam _ _ _ (memsOk_updTask _ _ _ h (fun _ hx => hx)))

theorem memsOk_refuseTask (s : State) (r : TrapRec) (id : Nat) (t : Task) (h : memsOk s = true) :
    memsOk (s.refuseTask r id t) = true := by
  unfold State.refuseTask
  dsimp only
  split
  · exact h
  · split
    · exact memsOk_updTask _ _ _ (memsOk_updTask _ _ _ h (fun _ hx => hx)) (fun _ hx => hx)
    · split
      · exact memsOk_ite (memsOk_updTeam _ _ _ (memsOk_updTask _ _ _ (memsOk_updTask _ _ _ h (fun _ hx => hx)) (fun _ hx =>
          hx))) (memsOk_dropTask _ _ _ _ (memsOk_updTask _ _ _ h (fun _ hx => hx)))
      · split
        · exact memsOk_stopQueue _ _ _ (memsOk_ite (memsOk_updTask _ _ _ (memsOk_updTask _ _ _ h (fun _ hx => hx)) (fun _ hx =>
            hx)) (memsOk_updTask _ _ _ h (fun _ hx => hx)))
        · exact memsOk_ite (memsOk_updTask _ _ _ (memsOk_updTask _ _ _ h (fun _ hx => hx)) (fun _ hx => hx)) (memsOk_updTask _ _
            _ h (fun _ hx => hx))

theorem memsOk_refuseQueue (s : State) (r : TrapRec) (vq : Nat) (q : Queue) (h : memsOk s = true) :
    memsOk (s.refuseQueue r vq q) = true := by
  unfold State.refuseQueue
  split
  · exact memsOk_ite (memsOk_stopQueue _ _ _ h) h
  · exact h

theorem memsOk_refuseFront (s : State) (r : TrapRec) (h : memsOk s = true) : memsOk (s.refuseFront r) = true := by
  unfold State.refuseFront
  extract_lets s1
  have h1 : memsOk s1 = true := memsOk_foldl _ _ (fun _ _ hs => memsOk_refuseTask _ _ _ _ hs) _ h
  exact memsOk_foldl _ _ (fun _ _ hs => memsOk_refuseQueue _ _ _ _ hs) _ h1

end Sys2Proof.Machine
end

/-! SUPPORT. The canonical form of the memories: what hosts do to the package. -/

section

namespace Sys2Proof.Machine

open Sys2Proof

/-! ### Requests -/

theorem optOk_replayLater (s : State) (i : Instr) (h : memsOk s = true) : OptOk (s.replayLater i) := by
  unfold State.replayLater
  split
  · dsimp only
    exact h
  · trivial

theorem memsOk_request (s : State) (i : Instr) (fr : Frame) (vi : Nat) (seq : W32) (act : State → Nat → Ctx → Acted)
    (h : memsOk s = true) (hact : ∀ s id c, memsOk s = true → ActedOk (act s id c)) :
    memsOk (s.request i fr vi seq act) = true := by
  unfold State.request
  extract_lets again fe0 s0
  have h0 : memsOk s0 = true := h
  split
  · exact h0
  next id c _ =>
    split
    · exact h0
    · split
      · split
        next e => exact memsOk_holdRequest _ ((hact s0 id c h0).hold e)
        next e => exact memsOk_sendReply _ _ _ _ _ _ ((hact s0 id c h0).reply e)
      · split
        · exact memsOk_ite h0 h0
        · split
          next e => exact memsOk_holdRequest _ (memsOk_updCtx _ _ _ ((hact s0 id c h0).hold e))
          next e => exact memsOk_sendReply _ _ _ _ _ _ ((hact s0 id c h0).reply e)

theorem memsOk_registerRequest (s : State) (i : Instr) (fr : Frame) (vi : Nat) (seq : W32) (act : State → Nat → Ctx → Acted)
    (h : memsOk s = true) (hact : ∀ s id c, memsOk s = true → ActedOk (act s id c)) :
    memsOk (s.registerRequest i fr vi seq act) = true := by
  unfold State.registerRequest
  split
  · exact h
  · split
    · exact h
    · split
      · refine memsOk_push _ _ ?_
        split
        next e =>
          have h2 := (optOk_replayLater { s with fe := { s.fe with resuming := false } } i h).some e
          exact memsOk_ite h2 (memsOk_updCtx _ _ _ h2)
        · exact h
      · exact memsOk_request _ _ _ _ _ _ h hact

theorem outOk_execDoorbell (fr : Frame) (vq : Nat) (seq : W32) (tail : W64) (s : State) (h : memsOk s = true) :
    OutOk (execDoorbell fr vq seq tail s) := by
  refine memsOk_request _ _ _ _ _ _ h fun s _ _ hs => ?_
  have h1 := memsOk_lineUp _ vq (memsOk_setQueue vq { s.queueOf vq with latch := some tail } hs)
  exact memsOk_ite (memsOk_push _ _ h1) h1

theorem outOk_execRegrd (fr : Frame) (vi : Nat) (seq : W32) (off : W64) (s : State) (h : memsOk s = true) :
    OutOk (execRegrd fr vi seq off s) := by
  refine memsOk_registerRequest _ _ _ _ _ _ h fun s _ _ hs => ?_
  split <;> exact hs

/-! ### The register page -/

theorem actedOk_writeQcb (s : State) (id vi q : Nat) (val : W64) (h : memsOk s = true) : ActedOk (s.writeQcb id vi q val) := by
  unfold State.writeQcb
  split <;> exact h

theorem actedOk_qEnable (s : State) (vi q : Nat) (h : memsOk s = true) : ActedOk (s.qEnable vi q) := by
  unfold State.qEnable
  dsimp only
  split
  · exact h
  · split
    · exact h
    · split
      · exact memsOk_feMiss _ _ _ _ _ h
      · split
        · exact memsOk_feMiss _ _ _ _ _ h
        · exact memsOk_lineUp _ _ (memsOk_ite ((putOk_putQueue _ _ _ (memsOk_feRead _ _ _ _ h)).ok ‹_›) (memsOk_stopQueue _ _ _
            ((putOk_putQueue _ _ _ (memsOk_feRead _ _ _ _ h)).ok ‹_›)))

theorem actedOk_qDisable (s : State) (vi q : Nat) (h : memsOk s = true) : ActedOk (s.qDisable vi q) := by
  unfold State.qDisable
  dsimp only
  split
  · split
    · exact h
    · split
      · exact memsOk_feMiss _ _ _ _ _ h
      · exact memsOk_lineUp _ _ ((putOk_putQueue _ _ _ h).ok ‹_› :)
  · exact h

theorem actedOk_qClearStop (s : State) (vi q : Nat) (h : memsOk s = true) : ActedOk (s.qClearStop vi q) := by
  unfold State.qClearStop
  dsimp only
  split
  · split
    · exact memsOk_feMiss _ _ _ _ _ h
    · exact memsOk_lineUp _ _ ((putOk_putQueue _ _ _ h).ok ‹_›)
  · exact h

theorem actedOk_qcmd (s : State) (vi q val : Nat) (h : memsOk s = true) : ActedOk (s.qcmd vi q val) := by
  unfold State.qcmd
  split
  · exact h
  · split
    · exact actedOk_qEnable _ _ _ h
    · split
      · exact actedOk_qDisable _ _ _ h
      · split
        · exact actedOk_qClearStop _ _ _ h
        · exact h

theorem actedOk_pageWrite (s : State) (id vi off : Nat) (val : W64) (h : memsOk s = true) :
    ActedOk (s.pageWrite id vi off val) := by
  unfold State.pageWrite
  split
  · exact h
  · split
    · exact actedOk_writeQcb _ _ _ _ _ h
    · split
      · exact actedOk_qcmd _ _ _ _ h
      · exact h

theorem outOk_execRegwr (fr : Frame) (vi : Nat) (seq : W32) (off val : W64) (s : State) (h : memsOk s = true) :
    OutOk (execRegwr fr vi seq off val s) := by
  refine memsOk_registerRequest _ _ _ _ _ _ h fun s _ _ hs => ?_
  split
  · exact hs
  · exact actedOk_pageWrite _ _ _ _ _ hs

theorem outOk_execQcbWrite (fr : Frame) (vi : Nat) (seq : W32) (q : Nat) (val : W64) (s : State) (h : memsOk s = true) :
    OutOk (execQcbWrite fr vi seq q val s) :=
  memsOk_registerRequest _ _ _ _ _ _ h fun _ _ _ hs => actedOk_writeQcb _ _ _ _ _ hs

theorem outOk_execQcmdEnable (fr : Frame) (vi : Nat) (seq : W32) (q : Nat) (s : State) (h : memsOk s = true) :
    OutOk (execQcmdEnable fr vi seq q s) :=
  memsOk_registerRequest _ _ _ _ _ _ h fun _ _ _ hs => actedOk_qEnable _ _ _ hs

theorem outOk_execQcmdDisable (fr : Frame) (vi : Nat) (seq : W32) (q : Nat) (s : State) (h : memsOk s = true) :
    OutOk (execQcmdDisable fr vi seq q s) :=
  memsOk_registerRequest _ _ _ _ _ _ h fun _ _ _ hs => actedOk_qDisable _ _ _ hs

theorem outOk_execQcmdClearStop (fr : Frame) (vi : Nat) (seq : W32) (q : Nat) (s : State) (h : memsOk s = true) :
    OutOk (execQcmdClearStop fr vi seq q s) :=
  memsOk_registerRequest _ _ _ _ _ _ h fun _ _ _ hs => actedOk_qClearStop _ _ _ hs

/-! ### RDMA -/

theorem memsOk_rdmaResult (s : State) (vi kind : Nat) (addr : W64) (data : List Byte) (h : memsOk s = true) :
    memsOk (s.rdmaResult vi kind addr data) = true := memsOk_ite h h

theorem memsOk_nakHeld (s : State) (vi : Nat) (l : List (Nat × W64 × Instr)) (h : memsOk s = true) :
    memsOk (s.nakHeld vi l) = true := by
  refine memsOk_foldl _ _ (fun s x hs => ?_) _ h
  split
  · exact memsOk_rdmaResult _ _ _ _ _ (memsOk_dropHeld _ hs)
  · exact hs

theorem memsOk_replayRdma (s : State) (i : Instr) (vi : Nat) (addr : W64) (h : memsOk s = true) :
    memsOk (s.replayRdma i vi addr) = true :=
  (optOk_replayLater _ _ h).getD (memsOk_nakHeld _ _ _ (memsOk_rdmaResult _ _ _ _ _ h))

theorem memsOk_rdma (s : State) (i : Instr) (peer : RdmaPeer) (addr : W64) (n : Nat) (need : Need)
    (body : State → Nat → List Loc → State) (h : memsOk s = true)
    (hbody : ∀ s ctx l, memsOk s = true → memsOk (body s ctx l) = true) :
    memsOk (s.rdma i peer addr n need body) = true := by
  unfold State.rdma
  extract_lets again vi fe0 s0
  have h0 : memsOk s0 = true := h
  split
  · exact h0
  · refine memsOk_ite h0 (memsOk_ite (memsOk_rdmaResult _ _ _ _ _ h0) (memsOk_ite (memsOk_replayRdma _ _ _ _ h0)
      (memsOk_ite (memsOk_holdRdma _ _ h0) ?_)))
    split
    · exact memsOk_holdRdma _ _ (memsOk_feMiss _ _ _ _ _ h0)
    · split
      · exact memsOk_push _ _ (memsOk_replayRdma _ _ _ _ h0)
      · exact hbody _ _ _ h0

theorem outOk_execRdmaWrite (peer : RdmaPeer) (addr : W64) (data : List Byte) (s : State) (h : memsOk s = true) :
    OutOk (execRdmaWrite peer addr data s) :=
  memsOk_rdma _ _ _ _ _ _ _ h fun _ _ _ hs => memsOk_rdmaResult _ _ _ _ _ (memsOk_fePut _ _ _ _ (memsOk_feNote _ _ _ _ hs))

theorem outOk_execRdmaRead (peer : RdmaPeer) (addr : W64) (n : Nat) (s : State) (h : memsOk s = true) :
    OutOk (execRdmaRead peer addr n s) :=
  memsOk_rdma _ _ _ _ _ _ _ h fun _ _ _ hs =>
    memsOk_ite (memsOk_rdmaResult _ _ _ _ _ hs) (memsOk_rdmaResult _ _ _ _ _ (memsOk_feRead _ _ _ _ hs))

theorem outOk_execRdmaAtomicRefused (peer : RdmaPeer) (addr : W64) (s : State) (h : memsOk s = true) :
    OutOk (execRdmaAtomicRefused peer addr s) := memsOk_ite (memsOk_rdmaResult _ _ _ _ _ h) h

theorem outOk_execHostRdmaHoldExpiry (id : Nat) (s : State) (h : memsOk s = true) : OutOk (execHostRdmaHoldExpiry id s) := by
  unfold execHostRdmaHoldExpiry
  split
  · exact h
  · split
    · exact memsOk_ite (memsOk_nakHeld _ _ _ h) h
    · exact h

/-! ### Gated domains and the reload -/

theorem memsOk_refuseHost (s : State) (r : TrapRec) (h : memsOk s = true) : memsOk (s.refuseHost r) = true := by
  refine memsOk_foldl _ _ (fun s x hs => ?_) _ h
  split
  · exact hs
  · split
    · exact memsOk_ite (memsOk_rdmaResult _ _ _ _ _ (memsOk_dropHeld _ hs)) hs
    · exact hs

theorem outOk_execGatedDomainWake (dom : Nat) (s : State) (h : memsOk s = true) : OutOk (execGatedDomainWake dom s) := by
  refine memsOk_ite (memsOk_ite h h) ?_
  split
  · exact memsOk_ite (memsOk_replayFor _ (memsOk_updDie _ _ _ h (fun _ hx => hx))) h
  · exact h

theorem memsOk_flushDie (s : State) (die : Nat) (h : memsOk s = true) : memsOk (s.flushDie die) = true :=
  memsOk_foldl _ _ (fun _ _ hs => memsOk_flushCore _ _ _ hs) _ h

theorem memsOk_lineUpAll (s : State) (h : memsOk s = true) : memsOk s.lineUpAll = true :=
  memsOk_foldl _ _ (fun _ _ hs => memsOk_lineUp _ _ hs) _ h

theorem outOk_execPowerGating (dom : Nat) (s : State) (h : memsOk s = true) : OutOk (execPowerGating dom s) :=
  memsOk_ite h (memsOk_ite (memsOk_lineUpAll _ h) (memsOk_ite h (memsOk_updDie _ _ _ (memsOk_flushDie _ _ h) (fun _ hx => hx))))

theorem memsOk_rebuildQueue (s : State) (vq : Nat) (h : memsOk s = true) : memsOk (s.rebuildQueue vq) = true := by
  unfold State.rebuildQueue
  split
  · dsimp only
    split
    · exact h
    · exact memsOk_ite h h
  · exact h

theorem outOk_execCpFirmwareReload (s : State) (h : memsOk s = true) : OutOk (execCpFirmwareReload s) := by
  have h1 := memsOk_foldl (s.fe.queues.map (·.1)) State.rebuildQueue (fun t vq ht => memsOk_rebuildQueue t vq ht) s h
  have h2 := memsOk_foldl s.delayedCtxs State.relcntUp (fun _ ctx ht => memsOk_relcntUp ctx ht) _ h1
  exact memsOk_lineUpAll _ h2

end Sys2Proof.Machine
end

/-! SUPPORT. The canonical form of the memories: pages, channels, scrubbing and links. -/

section

namespace Sys2Proof.Machine

open Sys2Proof

/-! ### Moves of pages -/

theorem memsOk_updPage (s : State) (k : Nat) (f : Page → Page) (h : memsOk s = true) : memsOk (s.updPage k f) = true := by
  unfold State.updPage
  split <;> exact h

theorem memsOk_quitCore (s : State) (core : Nat) (p : Nat → Bool) (h : memsOk s = true) :
    memsOk (s.quitCore core p) = true := by
  unfold State.quitCore
  split
  · exact h
  · exact memsOk_foldl _ _ (fun _ _ hs => memsOk_leaveL1 _ _ _ (memsOk_writeBack _ _ _ hs)) _ h

theorem memsOk_cleanPage (s : State) (p : Page) (h : memsOk s = true) : memsOk (s.cleanPage p) = true :=
  memsOk_l2Drop _ _ (memsOk_foldl _ _ (fun _ _ hs => memsOk_ite (memsOk_flushCore _ _ _ hs) (memsOk_quitCore _ _ _ hs)) _ h)

theorem optOk_startMove (s : State) (k : Nat) (p : Page) (far : Bool) (die frame : Nat) (h : memsOk s = true) :
    OptOk (s.startMove k p far die frame) := by
  unfold State.startMove
  dsimp only
  split
  · split
    · exact memsOk_updPage _ _ _ (memsOk_cleanPage _ _ h)
    · trivial
  · split
    · exact memsOk_updPage _ _ _ (memsOk_cleanPage _ _ h)
    · trivial

theorem memsOk_rehome (s : State) (k : Nat) (p : Page) (die : Nat) (h : memsOk s = true) :
    memsOk (s.rehome k p die) = true := memsOk_ite h (memsOk_updPage _ _ _ (memsOk_cleanPage _ _ h))

theorem memsOk_requestMove (s : State) (k : Nat) (m : PageMove) (h : memsOk s = true) : memsOk (s.requestMove k m) = true := by
  unfold State.requestMove
  split
  · exact h
  · split
    · exact memsOk_updPage _ _ _ h
    · split
      · dsimp only
        split
        next e => exact (optOk_startMove _ _ _ _ _ _ (memsOk_takeFree h)).some e
        · exact memsOk_updPage _ _ _ (memsOk_takeFree h)
      · split
        · exact memsOk_ite (memsOk_rehome _ _ _ _ h) h
        · exact h

theorem outOk_execPageMoveStart (page : Nat) (far : Bool) (die : Nat) (frame : W64) (s : State) (h : memsOk s = true) :
    OutOk (execPageMoveStart page far die frame s) := by
  unfold execPageMoveStart
  dsimp only
  split
  · exact h
  · split
    · exact memsOk_updPage _ _ _ h
    · split
      · exact (optOk_startMove _ _ _ _ _ _ h).getD h
      · exact h

theorem memsOk_dropFrame (s : State) (frame n : Nat) (h : memsOk s = true) : memsOk (s.dropFrame frame n) = true := by
  rw [memsOk_iff] at h ⊢
  obtain ⟨hsys, hpriv, hback, hsram, hbank, htask⟩ := h
  refine ⟨hsys, hpriv, hback, ?_, ?_, htask⟩
  · exact List.all_map.trans hsram
  · exact List.all_map.trans hbank

theorem memsOk_moveFrame {s : State} (src n dst : Nat) (l : List Poison) (h : memsOk s = true) :
    memsOk { s with mem := { s.mem with sys := moveBytes s.mem.sys src n dst, poison := l } } = true := by
  rw [memsOk_iff] at h ⊢
  obtain ⟨hsys, hrest⟩ := h
  exact ⟨moveBytes_wf _ _ _ hsys, hrest⟩

theorem memsOk_arrivePage (s : State) (k : Nat) (p : Page) (far : Bool) (die frame : Nat) (h : memsOk s = true) :
    memsOk (s.arrivePage k p far die frame) = true :=
  memsOk_updPage _ _ _ (memsOk_followPage _ _ _ (memsOk_dropFrame _ _ _ (memsOk_remapLeaf _ _ _ (memsOk_moveFrame _ _ _ _ h))))

theorem memsOk_decideAgain (s : State) (k : Nat) (l : List PageMove) (h : memsOk s = true) :
    memsOk (s.decideAgain k l) = true := by
  induction l generalizing s with
  | nil => exact h
  | cons m t ih =>
    cases m with
    | evict => exact ih _ (memsOk_push _ _ h)
    | promote => exact ih _ (memsOk_requestMove _ _ _ h)
    | migrate d => exact ih _ (memsOk_requestMove _ _ _ h)

theorem memsOk_nextRequest (s : State) (k : Nat) (h : memsOk s = true) : memsOk (s.nextRequest k) = true := by
  unfold State.nextRequest
  split
  · exact h
  · exact memsOk_ite h (memsOk_decideAgain _ _ _ (memsOk_updPage _ _ _ h))

theorem memsOk_retryMoves (s : State) (h : memsOk s = true) : memsOk s.retryMoves = true := by
  unfold State.retryMoves
  refine memsOk_foldl _ _ (fun s x hs => ?_) _ h
  split
  · exact memsOk_ite hs (memsOk_nextRequest _ _ hs)
  · exact hs

theorem memsOk_quitFrame (s : State) (k : Nat) (die : Nat) (h : memsOk s = true) : memsOk (s.quitFrame k die) = true := by
  have h1 : memsOk s.takeFree = true := memsOk_takeFree h
  unfold State.quitFrame
  split
  · exact h
  · dsimp only
    split
    next e => exact (optOk_startMove _ _ _ _ _ _ h1).some e
    · exact (optOk_startMove _ _ _ _ _ _ h1).getD (memsOk_updPage _ _ _ h1)

theorem memsOk_quitLost (s : State) (k : Nat) (far : Bool) (die frame : Nat) (h : memsOk s = true) :
    memsOk (s.quitLost k far die frame) = true := memsOk_ite (memsOk_quitFrame _ _ _ h) h

theorem outOk_execPageMoveComplete (page : Nat) (s : State) (h : memsOk s = true) : OutOk (execPageMoveComplete page s) := by
  unfold execPageMoveComplete
  dsimp only
  split
  · exact h
  · split
    · exact memsOk_retryMoves _ (memsOk_nextRequest _ _ (memsOk_quitLost _ _ _ _ _ (memsOk_wakeAll _ _ (memsOk_arrivePage _ _ _
        _ _ _ h))))
    · exact h

theorem outOk_execPageEviction (die : Nat) (s : State) (h : memsOk s = true) : OutOk (execPageEviction die s) := by
  unfold execPageEviction
  dsimp only
  split
  · split
    · exact memsOk_requestMove _ _ _ (memsOk_updDie _ _ _ h (fun _ hx => hx))
    · exact memsOk_updDie _ _ _ h (fun _ hx => hx)
  · exact memsOk_updDie _ _ _ h (fun _ hx => hx)

theorem outOk_execFarAccessPromotion (page : Nat) (s : State) (h : memsOk s = true) :
    OutOk (execFarAccessPromotion page s) := by
  unfold execFarAccessPromotion
  split
  · exact h
  · exact memsOk_requestMove _ _ _ h

theorem memsOk_movePages (s : State) (ctx old die : Nat) (h : memsOk s = true) : memsOk (s.movePages ctx old die) = true :=
  memsOk_foldl _ _ (fun _ _ hs => memsOk_requestMove _ _ _ hs) _ (memsOk_foldl _ _ (fun _ _ hs => memsOk_rehome _ _ _ _ hs) _ h)

theorem memsOk_pagesAway (s : State) (ctx pkg : Nat) (h : memsOk s = true) : memsOk (s.pagesAway ctx pkg) = true :=
  memsOk_foldl _ _ (fun _ _ hs => memsOk_updPage _ _ _ (memsOk_cleanPage _ _ hs)) _ h

theorem memsOk_pagesBack (s : State) (ctx : Nat) (h : memsOk s = true) : memsOk (s.pagesBack ctx) = true :=
  memsOk_foldl _ _ (fun _ _ hs => memsOk_updPage _ _ _ hs) _ h

/-! ### Channels, scrubbing and slices -/

theorem memsOk_clearChannel (s : State) (die stack chan : Nat) (h : memsOk s = true) :
    memsOk (s.clearChannel die stack chan) = true := memsOk_foldl _ _ (fun _ _ hs => memsOk_quitFrame _ _ _ hs) _ h

theorem outOk_execChannelRetire (die stack chan : Nat) (s : State) (h : memsOk s = true) :
    OutOk (execChannelRetire die stack chan s) := by
  have h1 : ∀ f : Die → Die, (∀ d, (f d).banks = d.banks) → memsOk ((s.countRetirement die).updDie die f) = true :=
    fun f hf => memsOk_updDie _ _ _ (memsOk_countRetirement die h) (fun d hx => hf d ▸ hx)
  unfold execChannelRetire
  dsimp only [OutOk]
  split
  · exact h
  · refine memsOk_ite h (memsOk_ite (memsOk_updDie _ _ _ (h1 _ fun _ => rfl) (fun _ hx => hx)) ?_)
    exact memsOk_informCapacity _ (memsOk_clearChannel _ _ _ _
      (memsOk_updDie _ _ _ (h1 _ fun _ => rfl) (fun _ hx => hx)))

theorem outOk_execChannelRebuildComplete (die stack chan : Nat) (s : State) (h : memsOk s = true) :
    OutOk (execChannelRebuildComplete die stack chan s) := by
  unfold execChannelRebuildComplete
  split
  · exact h
  · exact memsOk_ite (memsOk_foldl _ _ (fun _ _ hs => memsOk_poisonLine _ _ _ hs) _ (memsOk_takeFree (memsOk_updDie _ _ _ h
      (fun _ hx => hx)))) h

theorem memsOk_noteFix (s : State) (line : Nat) (symbol : Bool) (h : memsOk s = true) :
    memsOk (s.noteFix line symbol) = true := by
  unfold State.noteFix
  split
  · split
    · exact h
    · split
      · exact h
      · extract_lets fixes rows s1
        have h1 : memsOk s1 = true := memsOk_updDie _ _ _ h (fun _ hx => hx)
        exact memsOk_ite h1 h1

theorem memsOk_correct (s : State) (line : Nat) (symbol : Bool) (h : memsOk s = true) :
    memsOk (s.correct line symbol) = true := memsOk_noteFix _ _ _ h

theorem memsOk_scrubbed (s : State) (line : Nat) (res : ScrubResult) (h : memsOk s = true) :
    memsOk (s.scrubbed line res) = true := by
  unfold State.scrubbed
  dsimp only
  split
  · split <;> exact h
  · exact memsOk_correct _ _ _ h
  · exact memsOk_correct _ _ _ h
  · exact memsOk_poisonLine _ _ _ h

theorem outOk_execScrubVisit (line : Nat) (res : ScrubResult) (s : State) (h : memsOk s = true) :
    OutOk (execScrubVisit line res s) := memsOk_framed (memsOk_scrubbed _ _ _ h) ⟨rfl, rfl, rfl, rfl⟩

theorem memsOk_poisonLines (l : List L2Line) (s : State) (h : memsOk s = true) :
    memsOk (l.foldl (fun s x => s.poisonLine x.ctx (.spa (128 * x.line))) s) = true :=
  memsOk_foldl _ _ (fun _ _ hs => memsOk_poisonLine _ _ _ hs) _ h

theorem outOk_execSliceRetire (die slice : Nat) (readable : Bool) (s : State) (h : memsOk s = true) :
    OutOk (execSliceRetire die slice readable s) := by
  have h1 : ∀ f : Die → Die, (∀ d, (f d).banks = d.banks) → memsOk ((s.countRetirement die).updDie die f) = true :=
    fun f hf => memsOk_updDie _ _ _ (memsOk_countRetirement die h) (fun d hx => hf d ▸ hx)
  unfold execSliceRetire
  dsimp only [OutOk]
  split
  · exact h
  · have h2 : ∀ (b : Bool) (l : List L2Line) (p : L2Line → Bool) (f : Die → Die), (∀ d, (f d).banks = d.banks) →
        memsOk (if b then (s.countRetirement die).updDie die f
          else l.foldl (fun s x => s.poisonLine x.ctx (.spa (128 * x.line))) (((s.countRetirement die).updDie die f).l2Drop p)) =
          true :=
      fun b l p f hf => memsOk_ite (h1 f hf) (memsOk_poisonLines _ _ (memsOk_l2Drop _ _ (h1 f hf)))
    exact memsOk_ite h (memsOk_ite (memsOk_enterSafe (h2 _ _ _ _ fun _ => rfl)) (h2 _ _ _ _ fun _ => rfl))

theorem memsOk_mapOut (s : State) (die : Nat) (d : Die) (h : memsOk s = true) : memsOk (s.mapOut die d) = true :=
  memsOk_updDie _ _ _ h (fun _ hx => hx)

/-! ### Links, packets and packages given up -/

theorem memsOk_failMesh (s : State) (die : Nat) (d : Die) (r p : Nat) (h : memsOk s = true)
    (hd : d.banks.all (fun x => x.2.wf) = true) : memsOk (s.failMesh die d r p) = true := by
  unfold State.failMesh
  extract_lets far src d1 s1
  have h1 : memsOk s1 = true := memsOk_inform _ (memsOk_updDie _ _ _ h (fun _ _ => hd))
  exact memsOk_ite h1 (memsOk_enterSafe h1)

theorem outOk_execLinkFailure (die router port : Nat) (s : State) (h : memsOk s = true) :
    OutOk (execLinkFailure die router port s) := by
  unfold execLinkFailure
  dsimp only [OutOk]
  refine memsOk_ite (memsOk_ite (memsOk_enterSafe (memsOk_inform _ (memsOk_failPort _ h))) h) (memsOk_ite ?_ ?_)
  · split
    · exact memsOk_ite h h
    · exact h
  · split
    · exact h
    next hd => exact memsOk_ite (memsOk_failMesh _ _ _ _ _ h (banksOk h hd)) h

theorem memsOk_routeTimeout (s : State) (r : Route) (h : memsOk s = true) : memsOk (s.routeTimeout r) = true := by
  unfold State.routeTimeout
  dsimp only
  split
  · exact h
  · split <;> exact h

theorem outOk_execPacketDrop (loss : PacketLoss) (s : State) (h : memsOk s = true) : OutOk (execPacketDrop loss s) := by
  unfold execPacketDrop
  split
  · exact h
  · split <;> exact memsOk_routeTimeout _ _ (memsOk_ite h h)

theorem memsOk_resent (s : State) (op : Nat) (h : memsOk s = true) : memsOk (s.resent op) = true := by
  unfold State.resent
  split <;> exact h

theorem outOk_execPacketResend (op : Nat) (s : State) (h : memsOk s = true) : OutOk (execPacketResend op s) :=
  outOk_execLongLatencyRetirement _ _ (memsOk_resent _ _ h)

theorem memsOk_unreachable (s : State) (w : Who) (a : W64) (h : memsOk s = true) : memsOk (s.unreachable w a) = true := by
  unfold State.unreachable
  split
  · exact h
  · exact (mild_fatal _ _).memsOk ((mild_raiseLate _ _ _ _).memsOk h)

theorem memsOk_passOver (s : State) (o : MemOp) (w : Who) (a : W64) (h : memsOk s = true) :
    memsOk ((((s.dropOp o.id).advance w).unreachable w a).opDone o.core o.gid) = true :=
  memsOk_opDone _ _ _ (memsOk_unreachable _ _ _ ((mild_advance _ _).memsOk (memsOk_dropOp _ h)))

theorem memsOk_giveUp (s : State) (o : MemOp) (a : W64) (h : memsOk s = true) : memsOk (s.giveUp o a) = true := by
  unfold State.giveUp
  split
  next w f _ _ =>
    split
    · exact memsOk_passOver _ _ _ _ h
    · extract_lets s0 s1
      have h1 : memsOk s1 = true := memsOk_free (memsOk_finishOp s o w f _ h)
      exact memsOk_opDone _ _ _ (memsOk_unreachable _ _ _ (memsOk_goOn _ _ _ (memsOk_dropOp _ h1)))
  · exact memsOk_passOver _ _ _ _ h
  · exact memsOk_dropOp _ h

theorem memsOk_giveUpHeld (s : State) (h : memsOk s = true) : memsOk s.giveUpHeld = true := by
  unfold State.giveUpHeld
  extract_lets s1 s2
  have h1 : memsOk s1 = true := by
    unfold s1
    refine memsOk_foldl _ _ (fun s x hs => ?_) _ ?_
    · split
      · exact memsOk_giveUp _ _ _ hs
      · exact hs
    · exact h
  have h2 : memsOk s2 = true := memsOk_foldl _ _ (fun _ _ hs => memsOk_foldl _ _ (fun _ _ hs => memsOk_refuseEngine _ _ _ _ _
    hs) _ hs) _ h1
  refine memsOk_foldl _ _ (fun s x hs => ?_) _ ?_
  · split
    · exact memsOk_unreachable _ _ _ ((mild_wake _ _ _).memsOk hs)
    · exact hs
  · exact h2

theorem outOk_execDestinationGivenUp (pkg : Nat) (s : State) (h : memsOk s = true) : OutOk (execDestinationGivenUp pkg s) :=
  memsOk_giveUpHeld _ (memsOk_pages h)

end Sys2Proof.Machine
end

/-! SUPPORT. The canonical form of the memories: the interval, and contexts that move between packages. -/

section

namespace Sys2Proof.Machine

open Sys2Proof

/-! ### Clearing and publication -/

theorem memsOk_grantAll (s : State) (l : List (Nat × Ctx)) (free : List Nat) (h : memsOk s = true) :
    memsOk (s.grantAll l free) = true := by
  induction l generalizing s free with
  | nil => exact h
  | cons e t ih =>
    unfold State.grantAll
    split
    · exact h
    · exact ih _ _ (memsOk_market (memsOk_updCtx _ _ _ h))

theorem memsOk_grantProgress (s : State) (h : memsOk s = true) : memsOk s.grantProgress = true := memsOk_grantAll _ _ _ h

theorem memsOk_clear (s : State) (first : List Snap) (h : memsOk s = true) : memsOk (s.clear first) = true := by
  unfold State.clear
  refine memsOk_grantProgress _ (memsOk_market ?_)
  refine memsOk_foldl _ _ (fun _ _ hs => memsOk_updCtx _ _ _ hs) _ ?_
  exact memsOk_foldl _ _ (fun _ _ hs => memsOk_updCtx _ _ _ hs) _ h

theorem outOk_execBidSnapshot (s : State) (h : memsOk s = true) : OutOk (execBidSnapshot s) := memsOk_ite (memsOk_clear _ _ h) h

theorem outOk_execPricePublication (s : State) (h : memsOk s = true) : OutOk (execPricePublication s) := by
  refine memsOk_ite (memsOk_dies h ?_) h
  exact List.all_map.trans (diesOk h)

/-! ### Release -/

theorem memsOk_saveWhere (s : State) (ctx : Nat) (why : SaveReason) (p : Team → Bool) (h : memsOk s = true) :
    memsOk (s.saveWhere ctx why p) = true := memsOk_foldl _ _ (fun _ _ hs => memsOk_saveTeam _ _ _ hs) _ h

theorem memsOk_releaseCtx (s : State) (id : Nat) (c : Ctx) (h : memsOk s = true) : memsOk (s.releaseCtx id c) = true := by
  unfold State.releaseCtx
  extract_lets lost n s1 s2 ways s3
  have h1 : memsOk s1 = true := memsOk_saveWhere _ _ _ _ h
  have h2 : memsOk s2 = true := memsOk_foldl _ _ (fun _ _ hs => memsOk_storeBank _ _ _ _ _ hs) _ h1
  have h3 : memsOk s3 = true := h2
  split
  · exact memsOk_sendPod _ _ _ _ _ h3
  · exact h3

theorem outOk_execReleaseWindow (s : State) (h : memsOk s = true) : OutOk (execReleaseWindow s) :=
  memsOk_ite (memsOk_sendPod _ _ _ _ _ (memsOk_market (memsOk_foldl _ _ (fun _ _ hs => memsOk_releaseCtx _ _ _ hs) _ h))) h

theorem outOk_execContextMigrate (ctx : Nat) (s : State) (h : memsOk s = true) : OutOk (execContextMigrate ctx s) := by
  unfold execContextMigrate
  split
  · exact h
  · exact memsOk_ite (memsOk_saveWhere _ _ _ _ h) h

/-! ### Contexts that move -/

theorem memsOk_answered (s : State) (id : Nat) (ok : Bool) (num : Nat) (h : memsOk s = true) :
    memsOk (s.answered id ok num) = true := by
  unfold State.answered
  split
  · exact h
  · split
    · exact h
    · refine memsOk_ite h (memsOk_ite (memsOk_updCtx _ _ _ h) ?_)
      refine memsOk_updCtx _ _ _ (memsOk_l2Drop _ _ ?_)
      exact memsOk_foldl _ _ (fun _ _ hs => memsOk_storeBank _ _ _ _ _ hs) _ (memsOk_saveWhere _ _ _ _ h)

theorem memsOk_offered (s : State) (pkg num apkg anchor : Nat) (r : List Byte) (bids : List (W64 × Nat)) (config : List Byte)
    (room : Bool) (h : memsOk s = true) :
    memsOk (s.offered pkg num apkg anchor r bids config room) = true := by
  unfold State.offered
  dsimp only
  split
  · exact h
  · split
    · exact h
    · split
      · split
        · exact memsOk_ite h h
        · exact h
      · split
        · exact h
        · exact memsOk_ite h h

/-- A task enters with its images in the canonical form. -/
theorem memsOk_enterTask {s : State} (k : Nat) (t : Task) (l : List (Nat × Mem)) (h : memsOk s = true) :
    memsOk { s with tasks := s.tasks.set k { t with images := l.filter (fun x => x.2.wf) } } = true :=
  memsOk_tasks h (Table.all_set (fun x : Task => x.images.all (fun x => x.2.wf)) _ _ _ (tasksOk h) (images_filter_wf l))

theorem memsOk_installTask (s : State) (id : Nat) (remote : Option Nat) (e : Nat × Task) (h : memsOk s = true) :
    memsOk (s.installTask id remote e) = true := by
  have hup : ∀ (t : State) (k : Nat) (c : Table Cmd), memsOk t = true → memsOk { t with
      tasks := t.tasks.set e.1 { e.2 with ctx := id, cmd := k, images := e.2.images.filter (fun x => x.2.wf) }, cmds := c } =
        true :=
    fun t k c ht => memsOk_cmds (memsOk_enterTask e.1 { e.2 with ctx := id, cmd := k } e.2.images ht)
  unfold State.installTask
  split
  · exact hup _ _ _ h
  · split
    · exact hup _ _ _ h
    · exact hup _ _ _ (memsOk_nextId (n := s.nextId + 1) (memsOk_cmds h))

theorem memsOk_installPages (s : State) (id : Nat) (w : Work) (h : memsOk s = true) : memsOk (s.installPages id w) = true := by
  refine memsOk_pagesBack _ _ ?_
  rw [memsOk_iff] at h ⊢
  obtain ⟨hsys, hpriv, hback, hrest⟩ := h
  refine ⟨Mem.foldl_write_wf _ Prod.fst Prod.snd (Mem.filter_wf _ hsys), ?_, ?_, hrest⟩
  · exact mems_foldl_set _ (fun e => e.1) _ (mems_filter_wf _ _) hpriv
  · exact mems_foldl_set _ (fun e => 1024 * id + e.1) _ (mems_filter_wf _ _) hback

theorem memsOk_installTasks (s : State) (id : Nat) (remote : Option Nat) (l : List (Nat × Task)) (h : memsOk s = true) :
    memsOk (l.foldl (fun s e => s.installTask id remote e) s) = true :=
  memsOk_foldl _ _ (fun _ _ hs => memsOk_installTask _ _ _ _ hs) _ h

theorem memsOk_installWork (s : State) (id : Nat) (remote : Option Nat) (image : List Byte) (h : memsOk s = true) :
    memsOk (s.installWork id remote image) = true := by
  unfold State.installWork
  extract_lets n w new top tasks s0 s1
  have h0 : memsOk s0 = true := memsOk_installPages _ _ _ h
  have h1 : memsOk s1 = true := h0
  exact memsOk_installTasks _ _ _ _ h1

theorem memsOk_received (s : State) (id : Nat) (image : List Byte) (h : memsOk s = true) :
    memsOk (s.received id image) = true := by
  unfold State.received
  split
  · exact h
  · split
    · exact memsOk_installWork _ _ _ _ h
    · exact memsOk_ite (memsOk_installWork _ _ _ _ h) h

theorem memsOk_podTask (s : State) (id cmd : Nat) (launch : List Byte) (h : memsOk s = true) :
    memsOk (s.podTask id cmd launch) = true := by
  unfold State.podTask
  split
  · exact memsOk_createTask _ _ _ _ h
  · exact h

theorem memsOk_podDone (s : State) (cmd : Nat) (h : memsOk s = true) : memsOk (s.podDone cmd) = true := by
  unfold State.podDone
  split
  · exact h
  · exact memsOk_ite h (memsOk_push _ _ (memsOk_cmds h))

theorem outOk_execMigrationAccept (about : Nat) (news : PodNews) (s : State) (h : memsOk s = true) :
    OutOk (execMigrationAccept about news s) := by
  unfold execMigrationAccept
  split
  · exact memsOk_answered _ _ _ _ h
  · exact memsOk_offered _ _ _ _ _ _ _ _ _ h
  · exact memsOk_received _ _ _ h
  · exact h
  · exact memsOk_podTask _ _ _ _ h
  · exact memsOk_podDone _ _ h

theorem outOk_execPriceTableReceive (pkg ival : Nat) (prices : List W64) (unsold : List Nat) (s : State) (h : memsOk s = true) :
    OutOk (execPriceTableReceive pkg ival prices unsold s) := h

/-! ### The start of an interval -/

theorem memsOk_dropPackets (s : State) (die : Nat) (old new : List Byte) (h : memsOk s = true) :
    memsOk (s.dropPackets die old new) = true := memsOk_ite h h

theorem memsOk_startPlan (s : State) (die : Nat) (d : Die) (h : memsOk s = true) : memsOk (s.startPlan die d) = true := by
  refine memsOk_ite h (memsOk_ite ?_ ?_)
  · exact memsOk_mapOut _ _ _ (memsOk_updDie _ _ _ (memsOk_dropPackets _ _ _ _ h) (fun _ hx => hx))
  · exact memsOk_takeFree (memsOk_send _ (memsOk_updDie _ _ _ h (fun _ hx => hx)))

theorem memsOk_loadBanks (s : State) (id : Nat) (old new : Ctx) (h : memsOk s = true) :
    memsOk (s.loadBanks id old new) = true := memsOk_foldl _ _ (fun _ _ hs => memsOk_ite hs (memsOk_loadBank _ _ _ _ _ hs)) _ h

theorem memsOk_endEdges (s : State) (ctx : Nat) (h : memsOk s = true) : memsOk (s.endEdges ctx) = true := by
  unfold State.endEdges
  dsimp only
  refine memsOk_foldl _ _ (fun s x hs => ?_) _ h
  split
  · exact memsOk_ite (memsOk_framed (memsOk_flushRegion _ _ _ hs) ⟨rfl, rfl, rfl, rfl⟩) hs
  · exact hs

theorem memsOk_parted {s : State} {priv : Table Mem} {tasks : Table Task} (h : memsOk s = true)
    (hp : priv.all (fun e => e.2.wf) = true) (ht : tasks.all (fun e => e.2.images.all (fun x => x.2.wf)) = true) :
    memsOk { s with mem := { s.mem with priv := priv }, tasks := tasks } = true := by
  rw [memsOk_iff] at h ⊢
  obtain ⟨hsys, -, hback, hsram, hbank, -⟩ := h
  exact ⟨hsys, hp, hback, hsram, hbank, ht⟩

theorem memsOk_sendWork (s : State) (id : Nat) (c : Ctx) (h : memsOk s = true) : memsOk (s.sendWork id c) = true := by
  unfold State.sendWork
  split
  · exact h
  · split
    · exact h
    next p _ _ =>
      have h1 : memsOk ((s.endEdges id).pagesAway id p) = true := memsOk_pagesAway _ _ _ (memsOk_endEdges _ _ h)
      exact memsOk_sendPod _ _ _ _ _ (memsOk_parted h1 (all_filter_of_all _ (privOk h1)) (all_filter_of_all _ (tasksOk h1)))

theorem memsOk_sendAway (s : State) (id : Nat) (c : Ctx) (h : memsOk s = true) : memsOk (s.sendAway id c) = true := by
  unfold State.sendAway
  extract_lets s1
  have h1 : memsOk s1 = true := memsOk_sendWork _ _ _ h
  exact memsOk_ite h1 h1

theorem memsOk_freshCounters (s : State) (old new : Ctx) (h : memsOk s = true) : memsOk (s.freshCounters old new) = true :=
  memsOk_foldl _ _ (fun _ _ hs => memsOk_updHalf _ _ _ hs) _ h

theorem memsOk_noteHeat (s : State) (h : memsOk s = true) : memsOk s.noteHeat = true := memsOk_ite h h

/-- What cycle 0 does for one context. -/
theorem memsOk_beginCtx (t : State) (id : Nat) (c c' : Ctx) (h : memsOk t = true) :
    memsOk (((t.sendAway id c).loadBanks id c c').freshCounters c c') = true :=
  memsOk_freshCounters _ _ _ (memsOk_loadBanks _ _ _ _ (memsOk_sendAway _ _ _ h))

theorem memsOk_startPlans (s : State) (l : List (Nat × Die)) (h : memsOk s = true) :
    memsOk (l.foldl (fun (t : State) e => t.startPlan e.1 e.2) s) = true :=
  memsOk_foldl _ _ (fun _ _ hs => memsOk_startPlan _ _ _ hs) _ h

theorem memsOk_beginInterval (s : State) (h : memsOk s = true) : memsOk s.beginInterval = true := by
  unfold State.beginInterval
  extract_lets m s1 s2 s3 s4
  have h1 : memsOk s1 = true := h
  have h2 : memsOk s2 = true := by
    refine memsOk_foldl _ _ (fun t e ht => ?_) _ h1
    have hb := memsOk_beginCtx t e.1 e.2 e.2.begin_ ht
    dsimp only
    split
    · exact memsOk_ite hb (memsOk_movePages _ _ _ _ hb)
    · exact hb
  have h3 : memsOk s3 = true := memsOk_reviveCands _ (memsOk_resplitSram _ (memsOk_retryMoves _ h2))
  have h4 : memsOk s4 = true := memsOk_oweAll _ (memsOk_startPlans _ _ h3)
  exact memsOk_noteHeat _ (memsOk_mgmt h4)

theorem outOk_execIntervalStart (s : State) (h : memsOk s = true) : OutOk (execIntervalStart s) :=
  memsOk_ite (memsOk_framed (memsOk_beginInterval _ h) ⟨rfl, rfl, rfl, rfl⟩) h

end Sys2Proof.Machine
end

/-! SUPPORT. The canonical form of the memories: restart, and the withdrawal of pipes and cores. -/

section

namespace Sys2Proof.Machine

open Sys2Proof

/-! ### Restart -/

theorem memsOk_rewind (s : State) (gid : Nat) (g : Group) (h : memsOk s = true) : memsOk (s.rewind gid g) = true := by
  unfold State.rewind
  extract_lets n s1 src s2 s3
  have h1 : memsOk s1 = true := (mild_leaveWaits _ _ _).memsOk h
  have h2 : memsOk s2 = true := memsOk_rewound _ _ _ _ h1
  have h3 : memsOk s3 = true := by
    unfold s3
    split
    · exact memsOk_ite ((mild_resumeBobbin _ _).memsOk h2) h2
    · exact h2
  exact memsOk_deliverHeld _ _ ((mild_opGone _ _ _).memsOk (memsOk_ite h3 ((mild_freeBlocks _ _ _ _).memsOk h3)))

theorem memsOk_raiseFatal (s : State) (gid code : Nat) (tval : Option W64) (e : HwError) (h : memsOk s = true) :
    memsOk (s.raiseFatal gid code tval e) = true := by
  unfold State.raiseFatal
  split
  · exact h
  · exact (mild_fatal _ _).memsOk ((mild_raiseLate _ _ _ _).memsOk h)

theorem memsOk_loseDirty (s : State) (core ctx line : Nat) (h : memsOk s = true) :
    memsOk (s.loseDirty core ctx line) = true := by
  unfold State.loseDirty
  split
  · exact memsOk_ite (memsOk_poisonLine _ _ _ h) h
  · exact h

theorem memsOk_hideFrom (s : State) (ctx die : Nat) (fix : Option (Nat × Bool)) (h : memsOk s = true) :
    memsOk (s.hideFrom ctx die fix) = true := by
  unfold State.hideFrom
  split
  · exact memsOk_correct _ _ _ h
  · extract_lets src
    have hsrc : memsOk src = true := h
    exact hsrc

theorem memsOk_hideError (s : State) (g : Group) (fix : Option (Nat × Bool)) (h : memsOk s = true) :
    memsOk (s.hideError g fix) = true := memsOk_hideFrom _ _ _ _ h

theorem memsOk_loseClean (s : State) (g : Group) (line : Nat) (h : memsOk s = true) : memsOk (s.loseClean g line) = true := by
  unfold State.loseClean
  split
  · exact memsOk_ite h (memsOk_hideError _ _ _ (memsOk_leaveL1 _ _ _ h))
  · exact h

theorem outOk_execIdemRestart (g : Nat) (e : HwError) (s : State) (h : memsOk s = true) : OutOk (execIdemRestart g e s) := by
  unfold execIdemRestart
  split
  · exact memsOk_hideFrom _ _ _ _ h
  · exact h
  · split
    · exact h
    · split
      · exact memsOk_hideError _ _ _ h
      · exact memsOk_ite h (memsOk_raiseFatal _ _ _ _ _ h)
      · exact memsOk_poisonLine _ _ _ h
      · exact memsOk_loseDirty _ _ _ _ h
      · exact memsOk_loseClean _ _ _ h
      · exact memsOk_ite (memsOk_ite h (memsOk_updGroup _ _ _ (memsOk_relcntUp _ (memsOk_rewind _ _ _ h)))) (memsOk_raiseFatal _
          _ _ _ _ h)

theorem memsOk_moveTeam (s : State) (gid : Nat) (g : Group) (e : HwError) (h : memsOk s = true) :
    memsOk (s.moveTeam gid g e) = true := by
  unfold State.moveTeam
  refine memsOk_preempt _ _ _ (memsOk_updTeam _ _ _ (memsOk_updCore _ _ _ ?_))
  exact memsOk_foldl _ _ (fun _ _ hs => memsOk_updGroup _ _ _ hs) _ (memsOk_relcntUp _ (memsOk_rewind _ _ _ h))

theorem outOk_execRestartLimitMove (g : Nat) (e : HwError) (s : State) (h : memsOk s = true) :
    OutOk (execRestartLimitMove g e s) := by
  unfold execRestartLimitMove
  split
  · exact h
  · exact memsOk_ite h (memsOk_ite (memsOk_raiseFatal _ _ _ _ _ h) (memsOk_moveTeam _ _ _ _ h))

theorem outOk_execLateTransitionReplay (core pipe : Nat) (s : State) (h : memsOk s = true) :
    OutOk (execLateTransitionReplay core pipe s) := by
  unfold execLateTransitionReplay
  dsimp only
  split
  · exact h
  · split
    · refine memsOk_push _ _ ?_
      refine memsOk_updCore _ _ _ ?_
      split <;> exact h
    · refine memsOk_updCore _ _ _ ?_
      split <;> exact h

/-! ### Pipes and cores -/

theorem loseHalf_banks (d : Die) (k : Nat) : (d.loseHalf k).banks = d.banks := by
  unfold Die.loseHalf
  split <;> rfl

theorem memsOk_retireCore (s : State) (core : Nat) (h : memsOk s = true) : memsOk (s.retireCore core) = true := by
  unfold State.retireCore
  extract_lets s1 s2 s3
  have h2 : memsOk s2 = true := memsOk_foldl _ _ (fun _ _ hs => memsOk_saveTeam _ _ _ hs) _ (memsOk_updCore s core _ h)
  have h3 : memsOk s3 = true := memsOk_updDie _ _ _ h2 (fun d hd => loseHalf_banks d _ ▸ hd)
  exact memsOk_countRetirement _ (memsOk_writeLog _ (memsOk_mgmt h3))

theorem outOk_execPipeRetire (core pipe : Nat) (s : State) (h : memsOk s = true) : OutOk (execPipeRetire core pipe s) := by
  unfold execPipeRetire
  dsimp only
  split
  · exact h
  · exact memsOk_ite h (memsOk_ite (memsOk_retireCore _ _ h) h)

theorem outOk_execCoreTestComplete (core : Nat) (pass : Bool) (s : State) (h : memsOk s = true) :
    OutOk (execCoreTestComplete core pass s) := by
  unfold execCoreTestComplete
  split
  · exact h
  · split
    · exact memsOk_ite h (memsOk_ite h (memsOk_retireCore _ _ h))
    · exact h

end Sys2Proof.Machine
end

/-! SUPPORT. The canonical form of the memories: the management function, reset and bring-up. -/

section

namespace Sys2Proof.Machine

open Sys2Proof

/-! ### Requests and objects -/

/-- A request that the function takes keeps the form where its action does. -/
theorem memsOk_manage (s : State) (m : MgmtMsg) (act : Mact) (h : memsOk s = true) (hact : memsOk act.s = true) :
    memsOk (s.manage m act) = true := by
  refine memsOk_ite h ?_
  split
  · exact memsOk_mreply _ _ _ (memsOk_mgmt h)
  · exact memsOk_mreply _ _ _ (memsOk_mgmt hact)

theorem memsOk_ofOption (s : State) (o : Option State) (h : memsOk s = true) (ho : OptOk o) :
    memsOk (Mact.ofOption s o).s = true := by
  cases o with
  | none => exact h
  | some t => exact ho

/-- A request whose action may name nothing. -/
theorem memsOk_manageOption (s : State) (m : MgmtMsg) (o : Option State) (h : memsOk s = true) (ho : OptOk o) :
    memsOk (s.manage m (Mact.ofOption s o)) = true := memsOk_manage _ _ _ h (memsOk_ofOption _ _ h ho)

theorem outOk_execMread (msg : MgmtMsg) (obj : Nat) (off : W64) (len : Nat) (s : State) (h : memsOk s = true) :
    OutOk (execMread msg obj off len s) := by
  refine memsOk_manage _ _ _ h ?_
  split
  · exact h
  · split <;> exact h

theorem memsOk_setReserves (s : State) (b : List Byte) (h : memsOk s = true) : memsOk (s.setReserves b) = true := by
  rw [memsOk_iff] at h ⊢
  obtain ⟨hsys, hpriv, hback, hsram, hbank, htask⟩ := h
  exact ⟨hsys, hpriv, hback, hsram, List.all_map.trans hbank, htask⟩

theorem optOk_writeConfig (s : State) (id off : Nat) (d : List Byte) (h : memsOk s = true) :
    OptOk (s.writeConfig id off d) := by
  unfold State.writeConfig
  split
  · exact h
  · split
    · dsimp only
      exact h
    · trivial

theorem optOk_writeObject (s : State) (obj off : Nat) (d : List Byte) (h : memsOk s = true) :
    OptOk (s.writeObject obj off d) := by
  refine optOk_ite (optOk_ite h trivial) (optOk_ite (optOk_ite (memsOk_updDie _ _ _ h fun _ hx => hx) trivial) ?_)
  refine optOk_ite (OptOk.map _ fun _ => memsOk_updCtx _ _ _ h) (optOk_ite (memsOk_setReserves _ _ h) ?_)
  exact optOk_ite (optOk_writeConfig _ _ _ _ h) (OptOk.map _ fun _ => h)

theorem outOk_execMwrite (msg : MgmtMsg) (obj : Nat) (off : W64) (data : List Byte) (s : State) (h : memsOk s = true) :
    OutOk (execMwrite msg obj off data s) := by
  refine memsOk_manage _ _ _ h ?_
  split
  · exact h
  · exact memsOk_ofOption _ _ h (optOk_writeObject _ _ _ _ h)

theorem outOk_execApplyStagedPlan (msg : MgmtMsg) (die : Nat) (s : State) (h : memsOk s = true) :
    OutOk (execApplyStagedPlan msg die s) :=
  memsOk_manageOption _ _ _ h (OptOk.map _ fun _ => memsOk_updDie _ _ _ h fun _ hx => hx)

theorem memsOk_filterTlbs (s : State) (keep keepNested : TlbEntry → Bool) (h : memsOk s = true) :
    memsOk (s.filterTlbs keep keepNested) = true := by
  rw [memsOk_iff] at h ⊢
  obtain ⟨hsys, hpriv, hback, hsram, hbank, htask⟩ := h
  exact ⟨hsys, hpriv, hback, List.all_map.trans hsram, List.all_map.trans hbank, htask⟩

theorem memsOk_holdInv (s : State) (i : Instr) (h : memsOk s = true) : memsOk (s.holdInv i) = true := memsOk_ite h h

theorem memsOk_invalidate (s : State) (ctx stage base len : Nat) (h : memsOk s = true) :
    memsOk (s.invalidate ctx stage base len).s = true := by
  unfold State.invalidate
  split
  · exact memsOk_filterTlbs _ _ _ h
  · split
    · exact memsOk_filterTlbs _ _ _ h
    · exact h

theorem outOk_execInvalidateTranslations (msg : MgmtMsg) (ctx stage : Nat) (base len : W64) (s : State) (h : memsOk s = true) :
    OutOk (execInvalidateTranslations msg ctx stage base len s) :=
  memsOk_ite (memsOk_holdInv _ _ h) (memsOk_manage _ _ _ (memsOk_mgmt h) (memsOk_invalidate _ _ _ _ _ (memsOk_mgmt h)))

/-! ### Resolutions -/

theorem memsOk_freeEntry (s : State) (id : Nat) (h : memsOk s = true) : memsOk (s.freeEntry id) = true := by
  unfold State.freeEntry
  extract_lets s1
  have h1 : memsOk s1 = true := h
  exact memsOk_wakeAll _ _ h1

theorem optOk_retryRecord (s : State) (id : Nat) (h : memsOk s = true) : OptOk (s.retryRecord id) := by
  unfold State.retryRecord
  split
  · trivial
  · split
    · exact memsOk_wakeAll _ _ (memsOk_freeEntry _ _ h)
    · trivial

theorem outOk_execResolveRetry (msg : MgmtMsg) (id : Nat) (s : State) (h : memsOk s = true) :
    OutOk (execResolveRetry msg id s) := memsOk_manageOption _ _ _ h (optOk_retryRecord _ _ h)

theorem memsOk_refuseAccess (s : State) (r : TrapRec) (o : MemOp) (h : memsOk s = true) :
    memsOk (s.refuseAccess r o) = true := by
  unfold State.refuseAccess
  split
  · split
    · exact h
    · split
      · exact memsOk_ite h (memsOk_ite (memsOk_refuseOp _ _ _ _ _ h) (memsOk_framed h ⟨rfl, rfl, rfl, rfl⟩))
      · exact h
  · exact h

theorem memsOk_refuseFetch (s : State) (r : TrapRec) (gid : Nat) (g : Group) (f : Frag) (h : memsOk s = true) :
    memsOk (s.refuseFetch r gid g f) = true := by
  unfold State.refuseFetch
  split
  · split
    · split
      · exact memsOk_ite (memsOk_entryFails _ _ ((mild_wake _ _ _).memsOk h)) ((mild_raisePrecise _ _ _ _ _).memsOk ((mild_wake
          _ _ _).memsOk h))
      · exact h
    · exact h
  · exact h

theorem memsOk_refusePage (s : State) (r : TrapRec) (h : memsOk s = true) : memsOk (s.refusePage r) = true := by
  unfold State.refusePage
  extract_lets s1 s2 s3
  have h1 : memsOk s1 = true := memsOk_foldl _ _ (fun _ _ hs => memsOk_refuseAccess _ _ _ hs) _ h
  have h2 : memsOk s2 = true := memsOk_foldl _ _ (fun _ _ hs => memsOk_refuseFetch _ _ _ _ _ hs) _ h1
  have h3 : memsOk s3 = true := memsOk_foldl _ _ (fun _ _ hs => memsOk_foldl _ _ (fun _ _ hs => memsOk_refuseEngine _ _ _ _ _
    hs) _ hs) _ h2
  exact memsOk_refuseHost _ _ (memsOk_refuseFront _ _ h3)

theorem memsOk_writeReply (s : State) (r : TrapRec) (h : memsOk s = true) : memsOk (s.writeReply r) = true := by
  unfold State.writeReply
  split
  · exact h
  · exact memsOk_free (memsOk_fePut _ _ _ _ (memsOk_feNote _ _ _ _ h))

theorem memsOk_answerSvc (s : State) (r : TrapRec) (ok : Bool) (h : memsOk s = true) : memsOk (s.answerSvc r ok) = true := by
  have h1 : memsOk (s.writeReply r) = true := memsOk_writeReply _ _ h
  exact memsOk_wakeAll _ _ (memsOk_groups h1)

theorem optOk_refuseRecord (s : State) (id : Nat) (h : memsOk s = true) : OptOk (s.refuseRecord id) := by
  unfold State.refuseRecord
  split
  · trivial
  · split
    · exact memsOk_refusePage _ _ (memsOk_freeEntry _ _ h)
    · split
      · exact memsOk_answerSvc _ _ _ (memsOk_freeEntry _ _ h)
      · trivial

theorem outOk_execResolveRefuse (msg : MgmtMsg) (id : Nat) (s : State) (h : memsOk s = true) :
    OutOk (execResolveRefuse msg id s) := memsOk_manageOption _ _ _ h (optOk_refuseRecord _ _ h)

theorem optOk_doneRecord (s : State) (id : Nat) (h : memsOk s = true) : OptOk (s.doneRecord id) := by
  unfold State.doneRecord
  split
  · trivial
  · split
    · exact memsOk_answerSvc _ _ _ (memsOk_freeEntry _ _ h)
    · trivial

theorem outOk_execResolveDone (msg : MgmtMsg) (id : Nat) (s : State) (h : memsOk s = true) :
    OutOk (execResolveDone msg id s) := memsOk_manageOption _ _ _ h (optOk_doneRecord _ _ h)

theorem outOk_execResolveAcknowledge (msg : MgmtMsg) (id : Nat) (s : State) (h : memsOk s = true) :
    OutOk (execResolveAcknowledge msg id s) :=
  memsOk_manageOption _ _ _ h (OptOk.map _ fun _ => memsOk_wakeAll _ _ (memsOk_freeEntry _ _ h))

theorem outOk_execPreemptTeam (msg : MgmtMsg) (ctx die cluster core slot : Nat) (s : State) (h : memsOk s = true) :
    OutOk (execPreemptTeam msg ctx die cluster core slot s) :=
  memsOk_manageOption _ _ _ h (OptOk.map _ fun _ => memsOk_preempt _ _ _ h)

/-! ### Stopped groups -/

theorem memsOk_resumeGroup (s : State) (gid : Nat) (g : Group) (fid : Nat) (h : memsOk s = true) :
    memsOk (s.resumeGroup gid g fid) = true :=
  memsOk_deliverHeld _ _ ((mild_resumeBobbin _ _).memsOk ((mild_resumeAtEpc _ _ _).memsOk ((mild_unstall _ _).memsOk
    ((mild_setGroup _ _ _).memsOk h))))

theorem outOk_execResumeStoppedGroup (msg : MgmtMsg) (ctx die cluster core slot : Nat) (s : State) (h : memsOk s = true) :
    OutOk (execResumeStoppedGroup msg ctx die cluster core slot s) := by
  refine memsOk_manageOption _ _ _ h ?_
  split
  · trivial
  · exact OptOk.map _ fun _ => memsOk_resumeGroup _ _ _ _ h

theorem memsOk_endGroup (s : State) (gid : Nat) (g : Group) (h : memsOk s = true) : memsOk (s.endGroup gid g) = true := by
  refine memsOk_lookTask _ _ (memsOk_lookTrigger _ _ (memsOk_lookTeam _ _ ?_))
  exact memsOk_foldl _ _ (fun t e ht => (mild_opGone _ _ _).memsOk (memsOk_leave _ _ _ (memsOk_ops ht))) _ h

theorem outOk_execEndStoppedGroup (msg : MgmtMsg) (ctx die cluster core slot : Nat) (s : State) (h : memsOk s = true) :
    OutOk (execEndStoppedGroup msg ctx die cluster core slot s) := by
  refine memsOk_manageOption _ _ _ h ?_
  split
  · trivial
  · exact OptOk.map _ fun _ => memsOk_endGroup _ _ _ h

/-! ### Firmware, reset and temperature -/

theorem outOk_execVerifyFirmware (msg : MgmtMsg) (s : State) (h : memsOk s = true) : OutOk (execVerifyFirmware msg s) := by
  refine memsOk_manage _ _ _ h ?_
  split <;> exact h

theorem outOk_execAttestationReport (msg : MgmtMsg) (vi : Nat) (nonce : W64) (s : State) (h : memsOk s = true) :
    OutOk (execAttestationReport msg vi nonce s) := memsOk_manage _ _ _ h (memsOk_signed _ h)

/-- A reset leaves no memory with a byte. -/
theorem memsOk_afterReset (s : State) : memsOk s.afterReset = true := rfl

theorem outOk_execPackageReset (msg : MgmtMsg) (s : State) (h : memsOk s = true) : OutOk (execPackageReset msg s) := by
  refine memsOk_ite h ?_
  split
  · exact memsOk_mreply _ _ _ h
  · exact memsOk_push _ _ (memsOk_afterReset _)

theorem memsOk_fitOut (s : State) (h : memsOk s = true) : memsOk s.fitOut = true := by
  rw [memsOk_iff] at h ⊢
  obtain ⟨hsys, hpriv, hback, -, -, htask⟩ := h
  exact ⟨hsys, hpriv, hback, all_map_of fun _ => rfl, all_map_of fun _ => rfl, htask⟩

/-- A package whose self-test fails stands without a bank's byte. -/
theorem memsOk_failTest {s : State} (g : Mgmt) (h : memsOk s = true) :
    memsOk { s with mgmt := g, mode := .safe, dies := (range 0 4).map (fun d => (d, Die.fresh)) } = true := by
  rw [memsOk_iff] at h ⊢
  obtain ⟨hsys, hpriv, hback, hsram, -, htask⟩ := h
  exact ⟨hsys, hpriv, hback, hsram, all_map_of fun _ => rfl, htask⟩

theorem memsOk_bringUp (s : State) (h : memsOk s = true) : memsOk s.bringUp = true := by
  refine memsOk_ite (memsOk_writeLog _ (memsOk_failTest _ h)) ?_
  have h2 : memsOk ({ s with mgmt := s.mgmt.boot } : State).wearPipes.fitOut = true :=
    memsOk_fitOut _ (memsOk_wearPipes (memsOk_mgmt h))
  exact memsOk_writeLog _ (memsOk_startMarket (memsOk_enterMode h2))

theorem outOk_execPowerOnReset (s : State) : OutOk (execPowerOnReset s) := memsOk_bringUp _ (memsOk_afterReset s)

theorem outOk_execThermalGateHalf (s : State) (h : memsOk s = true) : OutOk (execThermalGateHalf s) :=
  memsOk_ite (memsOk_framed h ⟨rfl, rfl, rfl, rfl⟩) h

theorem outOk_execThermalGateSevenEighths (s : State) (h : memsOk s = true) : OutOk (execThermalGateSevenEighths s) :=
  memsOk_ite (memsOk_noteHeat _ (memsOk_framed h ⟨rfl, rfl, rfl, rfl⟩)) h

theorem outOk_execThermalGateRelease (level : Nat) (s : State) (h : memsOk s = true) :
    OutOk (execThermalGateRelease level s) := memsOk_ite h (memsOk_ite h h)

theorem outOk_execThermalShutdown (s : State) (h : memsOk s = true) : OutOk (execThermalShutdown s) :=
  memsOk_ite ((mild_fatal _ _).memsOk (memsOk_enterSafe (memsOk_foldl _ _ (fun _ _ hs => memsOk_saveTeam _ _ _ hs) _ h))) h

end Sys2Proof.Machine
end

/-! SUPPORT. The canonical form of the memories: the system forms, the choice of a step, and every step; O3 settled. -/

section

namespace Sys2Proof.Machine

open Sys2Proof

/-! ### The remaining forms -/

theorem outOk_intForm (s : State) (x : Args) (srcs : List Operand) (val : Who → Nat → W32) (h : memsOk s = true) :
    OutOk (intForm s x srcs val) := outOk_vecForm _ _ _ _ h

theorem outOk_execVred (fn : RedFn) (x : Args) (s : State) (h : memsOk s = true) : OutOk (execVred fn x s) :=
  outOk_run h (fun _ => bodyOk_laneBody _ _ _ _ _ _ h)

theorem outOk_execVext (fn : ExtFn) (x : Args) (s : State) (h : memsOk s = true) : OutOk (execVext fn x s) :=
  outOk_run h (fun _ => bodyOk_laneBody _ _ _ _ _ _ h)

theorem outOk_execSetfmt (fn : SetfmtFn) (x : Args) (s : State) (h : memsOk s = true) : OutOk (execSetfmt fn x s) := by
  unfold execSetfmt
  dsimp only
  refine outOk_run h (fun w => ?_)
  split
  · split
    · exact h
    · trivial
  · split
    · exact h
    · trivial

theorem outOk_execGetfmt (fn : GetfmtFn) (x : Args) (s : State) (h : memsOk s = true) : OutOk (execGetfmt fn x s) := by
  unfold execGetfmt
  dsimp only
  refine outOk_run h (fun w => ?_)
  split
  · exact (checkOk_pre _ _ _ h).error ‹_›
  · refine (mild_advance _ _).memsOk ?_
    split
    · exact memsOk_putScalar _ _ _ _ h
    · exact (mild_updFrag _ _ _ _).memsOk (memsOk_putScalar _ _ _ _ h)

theorem memsOk_writeCtl (s : State) (w : Who) (r : CtlReg) (v : W64) (h : memsOk s = true) :
    memsOk (s.writeCtl w r v) = true := by
  unfold State.writeCtl
  split <;> exact h

theorem outOk_execCtlr (x : Args) (s : State) (h : memsOk s = true) : OutOk (execCtlr x s) := by
  unfold execCtlr
  dsimp only
  refine outOk_run h (fun w => ?_)
  split
  · exact (checkOk_pre _ _ _ h).error ‹_›
  · exact (mild_advance _ _).memsOk (memsOk_ite (memsOk_takeFree (memsOk_putScalar _ _ _ _ h)) (memsOk_putScalar _ _ _ _ h))

theorem outOk_execCtlw (fn : CtlwFn) (x : Args) (s : State) (h : memsOk s = true) : OutOk (execCtlw fn x s) := by
  unfold execCtlw
  dsimp only
  refine outOk_engineForm _ _ h (fun w => ?_)
  split
  · trivial
  · split
    · split
      · trivial
      · exact (mild_advance _ _).memsOk ((mild_disarm _ _).memsOk (memsOk_writeCtl _ _ _ _ h))
    · split
      · trivial
      · exact (mild_advance _ _).memsOk ((mild_disarm _ _).memsOk (memsOk_writeCtl _ _ _ _ h))

theorem outOk_idemForm (s : State) (upd : Who → State → State) (h : memsOk s = true)
    (hu : ∀ w t, memsOk t = true → memsOk (upd w t) = true) : OutOk (idemForm s upd) := by
  refine outOk_engineForm _ _ h (fun w => ?_)
  split
  · trivial
  · split
    · exact h
    · exact (mild_advance _ _).memsOk (hu _ _ h)

theorem outOk_execIdemOn (x : Args) (s : State) (h : memsOk s = true) : OutOk (execIdemOn x s) :=
  outOk_idemForm _ _ h fun _ _ ht => memsOk_updGroup _ _ _ ht

theorem outOk_execIdemOff (x : Args) (s : State) (h : memsOk s = true) : OutOk (execIdemOff x s) :=
  outOk_idemForm _ _ h fun _ _ ht => (mild_spoil _ _).memsOk ht

theorem outOk_execTrap (x : Args) (s : State) (h : memsOk s = true) : OutOk (execTrap x s) := by
  unfold execTrap
  dsimp only
  refine outOk_run h (fun w => ?_)
  split <;> trivial

theorem outOk_execBkpt (x : Args) (s : State) (h : memsOk s = true) : OutOk (execBkpt x s) := by
  unfold execBkpt
  dsimp only
  refine outOk_run h (fun w => ?_)
  split <;> trivial

theorem outOk_execHret (x : Args) (s : State) (h : memsOk s = true) : OutOk (execHret x s) := by
  unfold execHret
  refine outOk_engineForm _ _ h (fun w => ?_)
  split
  · exact (mild_hret _ _).memsOk h
  · trivial

theorem outOk_execSvc (x : Args) (s : State) (h : memsOk s = true) : OutOk (execSvc x s) := by
  unfold execSvc
  dsimp only
  refine outOk_engineForm _ _ h (fun w => ?_)
  split
  · split
    · exact h
    · exact (mild_advance _ _).memsOk (memsOk_acquire _ _ _ h)
    · exact (mild_raisePrecise _ _ _ _ _).memsOk h
  · split
    · trivial
    · split
      · exact h
      · split
        · exact h
        · exact memsOk_updGroup _ _ _ (memsOk_mgmt ((mild_spoil _ _).memsOk (memsOk_release _ _ _ _ h)))

/-! ### What happens next -/

theorem memsOk_refreshAll (s : State) (h : memsOk s = true) : memsOk s.refreshAll = true := by
  refine memsOk_foldl _ _ (fun _ _ hs => ?_) _ h
  exact hs

theorem memsOk_newCycle (s : State) (h : memsOk s = true) : memsOk s.newCycle = true := memsOk_refreshAll _ h

theorem pickOk_choose (s : State) (h : memsOk s = true) : PickOk s.choose := by
  unfold State.choose
  split
  · exact h
  · exact memsOk_tick h
  · split
    · exact memsOk_cycle h
    · split
      · exact memsOk_resume _ h
      · exact memsOk_newCycle _ h

theorem pickOk_pickSecond (s : State) (x : Start) (h : memsOk s = true) : PickOk (s.pickSecond x) := by
  unfold State.pickSecond
  split
  · exact memsOk_due h
  · exact memsOk_startSecond _ _ h

/-- The choice of what happens next keeps every memory in its form. -/
theorem pickOk_pick (s : State) (h : memsOk s = true) : PickOk s.pick := by
  unfold State.pick
  split
  · exact pickOk_fetch _ _ h
  · split
    · exact pickOk_pickSecond _ _ h
    · have h0 : memsOk s.pruneYields = true := memsOk_pruneYields _ h
      dsimp only
      split
      · exact h0
      · split
        · exact memsOk_due h0
        · split
          · exact memsOk_agenda h0
          · exact pickOk_choose _ h0

/-! ### Every step -/

theorem outOk_access {i : Instr} {x : MArgs} (s : State) (h : memsOk s = true) (hx : opMArgs i = some x) : OutOk (exec i s) :=
  exec_access s hx ▸ outOk_accessForm i x s h

/-- Every instruction and every event keeps each memory in its canonical form: one lemma for each, or for its family of forms. -/
theorem outOk_exec (i : Instr) (s : State) (h : memsOk s = true) : OutOk (exec i s) := by
  cases i with
  | nop => exact outOk_execNop s h
  | bra x => exact outOk_execBra x s h
  | brc fn x => exact outOk_execBrc fn x s h
  | brs fn x => exact outOk_execBrs fn x s h
  | regang x => exact outOk_execRegang x s h
  | mskip x => exact outOk_execMskip x s h
  | call x => exact outOk_execCall x s h
  | ret x => exact outOk_execRet x s h
  | jmpi x => exact outOk_execJmpi x s h
  | djnz x => exact outOk_execDjnz x s h
  | exit x => exact outOk_execExit x s h
  | yield x => exact outOk_execYield x s h
  | sadd _ _ | ssub _ _ | smul _ | smulh _ _ | sand _ _ | sor _ _ | sxor _ _ | sshl _ _ | sshr _ _ | scmp _ _ | ssel _
  | smov _ _ | spopc _ _ | sffs _ _ | sminmax _ _ | sbit _ _ => exact outOk_scalForm _ _ _ h
  | vadd _ _ | vsub _ _ | vmul _ | vmulh _ _ | vmad _ | vand _ _ | vor _ _ | vxor _ _ | vshl _ _ | vshr _ _ | vmin _ _
  | vmax _ _ | vabs _ _ | vclz _ | vpopc _ | vbfx _ _ | vmov _ | vsel _ | vbcast _ _ | vshfl _ _ =>
    exact outOk_intForm _ _ _ _ h
  | vcmp _ _ | vfcmp _ _ => exact outOk_laneForm _ _ _ _ _ h
  | vred fn x => exact outOk_execVred fn x s h
  | vext fn x => exact outOk_execVext fn x s h
  | vfadd _ _ | vfsub _ _ | vfmul _ _ | vfma _ _ | vfnma _ _ | vfmin _ _ | vfmax _ _ | vfsgn _ _ | vfrsqe _ | vfrcpe _
  | vfex2e _ | vflg2e _ | vfscl _ _ | vfxp _ _ | vfcls _ | vfrnd _ _ | vcvt _ _ | vpack _ _ | vunpk _ _ | vhfma _ _
  | vdot4 _ _ | vtsel _ => exact outOk_vecForm _ _ _ _ h
  | qscale fn x => exact outOk_execQscale fn x s h
  | qcvt fn x => exact outOk_execQcvt fn x s h
  | setfmt fn x => exact outOk_execSetfmt fn x s h
  | getfmt fn x => exact outOk_execGetfmt fn x s h
  | ld _ _ | st _ _ | ldu _ _ | lds _ _ | sts _ _ | atom _ _ | xchg _ | cas _ | red _ _ | satom _ _ =>
    exact outOk_access s h rfl
  | pref fn x => exact outOk_execPref fn x s h
  | lea x => exact outOk_execLea x s h
  | cpy x => exact outOk_execCpy x s h
  | cpy2d x => exact outOk_execCpy2d x s h
  | batch x => exact outOk_execBatch x s h
  | waitb x => exact outOk_execWaitb x s h
  | waitbTest x => exact outOk_execWaitbTest x s h
  | gth _ _ | sct _ _ => exact outOk_gatherForm _ _ _ _ h
  | coll fn x => exact outOk_execColl fn x s h
  | rpush fn x => exact outOk_execRpush fn x s h
  | rpop fn x => exact outOk_execRpop fn x s h
  | mxloop x => exact outOk_execMxloop x s h
  | mxstep x => exact outOk_execMxstep x s h
  | mxzero fn x => exact outOk_execMxzero fn x s h
  | mxld fn x => exact outOk_execMxld fn x s h
  | mxst fn x => exact outOk_execMxst fn x s h
  | mxprogRd x => exact outOk_execMxprogRd x s h
  | mxprogWr x => exact outOk_execMxprogWr x s h
  | mxepi fn x => exact outOk_execMxepi fn x s h
  | fence fn x => exact outOk_execFence fn x s h
  | bar x => exact outOk_execBar x s h
  | bara x => exact outOk_execBara x s h
  | barw x => exact outOk_execBarw x s h
  | waitc fn x => exact outOk_execWaitc fn x s h
  | cmaint op lvl x => exact outOk_execCmaint op lvl x s h
  | mwait fn x => exact outOk_execMwait fn x s h
  | enq fn x => exact outOk_execEnq fn x s h
  | trig x => exact outOk_execTrig x s h
  | join fn x => exact outOk_execJoin fn x s h
  | grow fn x => exact outOk_execGrow fn x s h
  | shrink x => exact outOk_execShrink x s h
  | tryOpen x => exact outOk_execTryOpen x s h
  | commit x => exact outOk_execCommit x s h
  | abort x => exact outOk_execAbort x s h
  | qctlCnt x => exact outOk_execQctlCnt x s h
  | qctlRst x => exact outOk_execQctlRst x s h
  | bid cls x => exact outOk_execBid cls x s h
  | bidrd cls x => exact outOk_execBidrd cls x s h
  | lease cls x => exact outOk_execLease cls x s h
  | mighintOn x => exact outOk_execMighintOn x s h
  | mighintOff x => exact outOk_execMighintOff x s h
  | trap x => exact outOk_execTrap x s h
  | idemOn x => exact outOk_execIdemOn x s h
  | idemOff x => exact outOk_execIdemOff x s h
  | hret x => exact outOk_execHret x s h
  | ctlr x => exact outOk_execCtlr x s h
  | ctlw fn x => exact outOk_execCtlw fn x s h
  | bkpt x => exact outOk_execBkpt x s h
  | svc x => exact outOk_execSvc x s h
  | fetchCheckFail g f => exact outOk_execFetchCheckFail g f s h
  | conflict g => exact outOk_execConflict g s h
  | queueWaitComplete g f => exact outOk_execQueueWaitComplete g f s h
  | queueDeadlock g => exact outOk_execQueueDeadlock g s h
  | regangJoin g rec => exact outOk_execRegangJoin g rec s h
  | parkedSlicesResume g f => exact outOk_execParkedSlicesResume g f s h
  | barrierPhaseComplete team bar => exact outOk_execBarrierPhaseComplete team bar s h
  | barrierDeadlock team => exact outOk_execBarrierDeadlock team s h
  | growGrant core octet => exact outOk_execGrowGrant core octet s h
  | yieldEnd g f => exact outOk_execYieldEnd g f s h
  | mwaitWake g f => exact outOk_execMwaitWake g f s h
  | mwaitTimeout g f => exact outOk_execMwaitTimeout g f s h
  | waitcSatisfied g f => exact outOk_execWaitcSatisfied g f s h
  | joinWake g f => exact outOk_execJoinWake g f s h
  | groupLeavesCore g => exact outOk_execGroupLeavesCore g s h
  | fragmentUrgent g f => exact outOk_execFragmentUrgent g f s h
  | issueStart core side => exact outOk_execIssueStart core side s h
  | sideLogReplay core => exact outOk_execSideLogReplay core s h
  | heldAccessResume op => exact outOk_execHeldAccessResume op s h
  | l1WritebackTimeout core line => exact outOk_execL1WritebackTimeout core line s h
  | l1CleanCopyExpiry core line => exact outOk_execL1CleanCopyExpiry core line s h
  | copyBatchComplete g batch => exact outOk_execCopyBatchComplete g batch s h
  | reductionGenerationComplete cluster task dest => exact outOk_execReductionGenerationComplete cluster task dest s h
  | networkEntryPerformed g => exact outOk_execNetworkEntryPerformed g s h
  | gatherComplete g => exact outOk_execGatherComplete g s h
  | collGenerationComplete coll => exact outOk_execCollGenerationComplete coll s h
  | ringWaitWake g f => exact outOk_execRingWaitWake g f s h
  | engineOperationRefused g op code addr => exact outOk_execEngineOperationRefused g op code addr s h
  | matrixFormComplete g => exact outOk_execMatrixFormComplete g s h
  | dependenceMet task k => exact outOk_execDependenceMet task k s h
  | placementRound ctx => exact outOk_execPlacementRound ctx s h
  | candidateAged ctx cand => exact outOk_execCandidateAged ctx cand s h
  | candidateNoRegion ctx cand => exact outOk_execCandidateNoRegion ctx cand s h
  | teamSwapOut team => exact outOk_execTeamSwapOut team s h
  | teamSwapIn team => exact outOk_execTeamSwapIn team s h
  | triggerPoint task => exact outOk_execTriggerPoint task s h
  | edgeFlushEnd edge => exact outOk_execEdgeFlushEnd edge s h
  | commandComplete cmd => exact outOk_execCommandComplete cmd s h
  | pktNop vq => exact outOk_execPktNop vq s h
  | pktLaunch vq => exact outOk_execPktLaunch vq s h
  | pktWaitctr vq => exact outOk_execPktWaitctr vq s h
  | pktStore64 vq => exact outOk_execPktStore64 vq s h
  | pktAdd64 vq => exact outOk_execPktAdd64 vq s h
  | pktDrain vq => exact outOk_execPktDrain vq s h
  | queueMap vq => exact outOk_execQueueMap vq s h
  | queueUnmap vq => exact outOk_execQueueUnmap vq s h
  | queueTimesliceExpiry vq => exact outOk_execQueueTimesliceExpiry vq s h
  | doorbell fr vq seq tail => exact outOk_execDoorbell fr vq seq tail s h
  | regrd fr vi seq off => exact outOk_execRegrd fr vi seq off s h
  | regwr fr vi seq off val => exact outOk_execRegwr fr vi seq off val s h
  | qcbWrite fr vi seq q val => exact outOk_execQcbWrite fr vi seq q val s h
  | qcmdEnable fr vi seq q => exact outOk_execQcmdEnable fr vi seq q s h
  | qcmdDisable fr vi seq q => exact outOk_execQcmdDisable fr vi seq q s h
  | qcmdClearStop fr vi seq q => exact outOk_execQcmdClearStop fr vi seq q s h
  | rdmaWrite peer addr data => exact outOk_execRdmaWrite peer addr data s h
  | rdmaRead peer addr n => exact outOk_execRdmaRead peer addr n s h
  | rdmaAtomicRefused peer addr => exact outOk_execRdmaAtomicRefused peer addr s h
  | gatedDomainWake dom => exact outOk_execGatedDomainWake dom s h
  | priceTableReceive pkg ival prices unsold => exact outOk_execPriceTableReceive pkg ival prices unsold s h
  | contextMigrate ctx => exact outOk_execContextMigrate ctx s h
  | migrationAccept about news => exact outOk_execMigrationAccept about news s h
  | pageMoveStart page far die frame => exact outOk_execPageMoveStart page far die frame s h
  | pageMoveComplete page => exact outOk_execPageMoveComplete page s h
  | pageEviction die => exact outOk_execPageEviction die s h
  | farAccessPromotion page => exact outOk_execFarAccessPromotion page s h
  | channelRetire die stack chan => exact outOk_execChannelRetire die stack chan s h
  | channelRebuildComplete die stack chan => exact outOk_execChannelRebuildComplete die stack chan s h
  | scrubVisit line res => exact outOk_execScrubVisit line res s h
  | sliceRetire die slice readable => exact outOk_execSliceRetire die slice readable s h
  | linkFailure die router port => exact outOk_execLinkFailure die router port s h
  | packetDrop loss => exact outOk_execPacketDrop loss s h
  | packetResend op => exact outOk_execPacketResend op s h
  | destinationGivenUp pkg => exact outOk_execDestinationGivenUp pkg s h
  | lateTransitionReplay core pipe => exact outOk_execLateTransitionReplay core pipe s h
  | pipeRetire core pipe => exact outOk_execPipeRetire core pipe s h
  | idemRestart g e => exact outOk_execIdemRestart g e s h
  | restartLimitMove g e => exact outOk_execRestartLimitMove g e s h
  | coreTestComplete core pass => exact outOk_execCoreTestComplete core pass s h
  | preemptDrain team => exact outOk_execPreemptDrain team s h
  | drainTimeout team => exact outOk_execDrainTimeout team s h
  | preemptFlushRestart team => exact outOk_execPreemptFlushRestart team s h
  | preemptSave team why => exact outOk_execPreemptSave team why s h
  | contextRestore team => exact outOk_execContextRestore team s h
  | mread msg obj off len => exact outOk_execMread msg obj off len s h
  | mwrite msg obj off data => exact outOk_execMwrite msg obj off data s h
  | applyStagedPlan msg die => exact outOk_execApplyStagedPlan msg die s h
  | invalidateTranslations msg ctx stage base len => exact outOk_execInvalidateTranslations msg ctx stage base len s h
  | resolveRetry msg id => exact outOk_execResolveRetry msg id s h
  | resolveRefuse msg id => exact outOk_execResolveRefuse msg id s h
  | resolveDone msg id => exact outOk_execResolveDone msg id s h
  | resolveAcknowledge msg id => exact outOk_execResolveAcknowledge msg id s h
  | preemptTeam msg ctx die cluster core slot => exact outOk_execPreemptTeam msg ctx die cluster core slot s h
  | resumeStoppedGroup msg ctx die cluster core slot => exact outOk_execResumeStoppedGroup msg ctx die cluster core slot s h
  | endStoppedGroup msg ctx die cluster core slot => exact outOk_execEndStoppedGroup msg ctx die cluster core slot s h
  | verifyFirmware msg => exact outOk_execVerifyFirmware msg s h
  | attestationReport msg vi nonce => exact outOk_execAttestationReport msg vi nonce s h
  | packageReset msg => exact outOk_execPackageReset msg s h
  | longLatencyRetirement op => exact outOk_execLongLatencyRetirement op s h
  | powerGating dom => exact outOk_execPowerGating dom s h
  | thermalGateRelease level => exact outOk_execThermalGateRelease level s h
  | hostRdmaHoldExpiry id => exact outOk_execHostRdmaHoldExpiry id s h
  | lateFault => exact outOk_execLateFault s h
  | cpPass => exact outOk_execCpPass s h
  | cpFirmwareReload => exact outOk_execCpFirmwareReload s h
  | intervalStart => exact outOk_execIntervalStart s h
  | bidSnapshot => exact outOk_execBidSnapshot s h
  | pricePublication => exact outOk_execPricePublication s h
  | releaseWindow => exact outOk_execReleaseWindow s h
  | powerOnReset => exact outOk_execPowerOnReset s
  | thermalGateHalf => exact outOk_execThermalGateHalf s h
  | thermalGateSevenEighths => exact outOk_execThermalGateSevenEighths s h
  | thermalShutdown => exact outOk_execThermalShutdown s h

/-- Every step keeps each memory in its canonical form. -/
theorem outOk_step (s : State) (h : memsOk s = true) : OutOk (step s) := by
  have hp := pickOk_pick s h
  unfold step
  split
  next e => exact outOk_exec _ _ (e ▸ hp :)
  next e => exact (e ▸ hp :)

end Sys2Proof.Machine

namespace Sys2Proof

open Sys2Proof.Machine

/-- Settles O3: each step chooses an instruction or an event, and each of these keeps the form. -/
theorem stepKeepsMemories : Obligations.StepKeepsMemories := fun s _ h e => (outOk_step s h).next e

end Sys2Proof
end
